-- ==== Sys2Proof/Word.lean ====
section
/-! DEFINITION. The words of the D4T8: octets, stream tags and the other fixed-width fields the manual
treats as bits.  Counts, lengths and offsets are `Nat`; numbered things (ports, stream entries, allotment
records, controllers) are `Fin`. -/

namespace Sys2Proof

/-- One octet of a line, a body or a table entry. -/
abbrev Byte := BitVec 8

/-- A stream tag, 0x0000 to 0xFFFF (R22). -/
abbrev Tag := BitVec 16

/-- A tributary port, P0 to P7. -/
abbrev Port := Fin 8

/-- The index of a stream entry, S0 to S255. -/
abbrev StreamIx := Fin 256

/-- The index of an allotment record, A0 to A1023. -/
abbrev RecordIx := Fin 1024

/-- A controller, C0 to C3. -/
abbrev Controller := Fin 4

/-- A fragment index, which counts modulo 8 (R2, R89). -/
abbrev FragIx := BitVec 3

end Sys2Proof
end

