-- ==== Sys2Proof/Syntax.lean ====
section
/-! DEFINITION. The commands of the D4T8: one constructor of `Instr` for each row of the table of operations
and events, with the operands the row's event carries.  The symbols of the two kinds of line (R36, R110) and the
written forms of the table entries (R204) stand here too, because commands carry them. -/

namespace Sys2Proof

/-- The four tiers; T0 is the most urgent (section 1.4). -/
inductive Tier where
  | t0
  | t1
  | t2
  | t3
  deriving DecidableEq, Repr

/-- The number of a tier, which is also its code in entries and in STATUS (R199). -/
def Tier.ix : Tier → Fin 4
  | .t0 => 0
  | .t1 => 1
  | .t2 => 2
  | .t3 => 3

/-- The tier with a given number. -/
def Tier.ofIx : Fin 4 → Tier
  | 0 => .t0
  | 1 => .t1
  | 2 => .t2
  | 3 => .t3

/-- "Strictly more urgent": a smaller tier number, never an equal one (section 1.4). -/
def Tier.moreUrgent (a b : Tier) : Bool := decide (a.ix < b.ix)

/-- The four tiers, most urgent first. -/
def Tier.all : List Tier := [.t0, .t1, .t2, .t3]

/-- The symbols of the trunk line (R110). -/
inductive TrunkSymbol where
  | data (b : Byte)
  | idle
  | openFirst (t : Tier)
  | openNext (t : Tier) (i : FragIx)
  | closeMore
  | closeLast
  | clear
  | invalid
  deriving DecidableEq, Repr

/-- The symbols of a tributary line (R36). -/
inductive TribSymbol where
  | data (b : Byte)
  | idle
  | opened
  | closeEnd
  | closeAbort
  | invalid
  deriving DecidableEq, Repr

/-- The eight tables of the window (R161). -/
inductive TableName where
  | stream
  | allot
  | streamTally
  | tier
  | port
  | part
  | discard
  | notices
  deriving DecidableEq, Repr

/-- What every request carries before its kind (R153), and the tier its frame travelled at (R147).
`broadcast` says whether the frame carries 0xFFFF or this part's own management tag. -/
structure ReqHeader where
  tier       : Tier
  broadcast  : Bool
  replyTag   : Tag
  controller : Controller
  number     : Byte
  deriving DecidableEq, Repr

/-- A STREAM entry as a WRITE carries it, 14 octets (R204).  Fields are codes: a WRITE may carry any. -/
structure StreamWords where
  flags     : Byte
  tag       : Tag
  port      : Byte
  baseTier  : Byte
  endAction : Byte
  chainHead : BitVec 16
  runtime   : BitVec 48
  deriving DecidableEq, Repr

/-- An ALLOT entry as a WRITE carries it, 6 octets (R204). -/
structure AllotWords where
  budget : BitVec 24
  tier   : Byte
  next   : BitVec 16
  deriving DecidableEq, Repr

/-- A STREAM_TALLY entry as a WRITE carries it, 16 octets (R204). -/
structure TallyWords where
  framesToTrunk   : BitVec 32
  octetsToTrunk   : BitVec 32
  framesDelivered : BitVec 32
  framesDiscarded : BitVec 32
  deriving DecidableEq, Repr

/-- A TIER entry as a WRITE carries it, 4 octets (R204). -/
structure TierWords where
  limit  : BitVec 16
  length : BitVec 16
  deriving DecidableEq, Repr

/-- A PORT entry as a WRITE carries it, 3 octets (R204). -/
structure PortWords where
  enabled      : Byte
  ingressBusy  : Byte
  egressLength : Byte
  deriving DecidableEq, Repr

/-- A PART entry as a WRITE carries it, 7 octets (R204). -/
structure PartWords where
  epochPeriod : BitVec 16
  noticeTag   : BitVec 16
  nodeNumber  : Byte
  resetCause  : Byte
  linkState   : Byte
  deriving DecidableEq, Repr

/-- The commands: one constructor for each row of the table of operations and events. -/
inductive Instr where
  /-- POWER_ON_RESET: RST_N is released with the straps and the level of TRK_LOS given. -/
  | powerOnReset (straps : BitVec 6) (los : Bool)
  /-- TRIBUTARY_OPEN: OPEN arrives at the ingress of port `p`. -/
  | tributaryOpen (p : Port)
  /-- TRIBUTARY_DATA_OCTET: a data octet arrives at the ingress of port `p`. -/
  | tributaryDataOctet (p : Port) (b : Byte)
  /-- CLOSE_END: CLOSE END arrives at the ingress of port `p`. -/
  | closeEnd (p : Port)
  /-- CLOSE_ABORT: CLOSE ABORT arrives at the ingress of port `p`. -/
  | closeAbort (p : Port)
  /-- TRIBUTARY_INVALID_SYMBOL: an invalid symbol arrives at the ingress of port `p`. -/
  | tributaryInvalidSymbol (p : Port)
  /-- TRIBUTARY_IDLE: IDLE arrives at the ingress of port `p`. -/
  | tributaryIdle (p : Port)
  /-- EGRESS_CLOSE_END_SENT: the egress of port `p` has sent the CLOSE END of its head frame. -/
  | egressCloseEndSent (p : Port)
  /-- TRK_LOS_ASSERTED. -/
  | trkLosAsserted
  /-- TRK_LOS_DEASSERTED. -/
  | trkLosDeasserted
  /-- TRUNK_IDLE_RECEIVED: IDLE arrives on the trunk. -/
  | trunkIdleReceived
  /-- OPEN_FIRST: OPEN FIRST(t) arrives on the trunk. -/
  | openFirst (t : Tier)
  /-- OPEN_NEXT: OPEN NEXT(t, i) arrives on the trunk. -/
  | openNext (t : Tier) (i : FragIx)
  /-- TRUNK_DATA_OCTET: a data octet arrives on the trunk. -/
  | trunkDataOctet (b : Byte)
  /-- CLOSE_MORE: CLOSE MORE arrives on the trunk. -/
  | closeMore
  /-- CLOSE_LAST: CLOSE LAST arrives on the trunk. -/
  | closeLast
  /-- CLEAR_RECEIVED: CLEAR arrives on the trunk. -/
  | clearReceived
  /-- TRUNK_INVALID_SYMBOL: an invalid symbol arrives on the trunk. -/
  | trunkInvalidSymbol
  /-- BLOCK_SENT: a data block of the active frame has been sent. -/
  | blockSent
  /-- CLOSE_MORE_SENT: the trailer and CLOSE MORE of the fragment in progress have been sent. -/
  | closeMoreSent
  /-- CLOSE_LAST_SENT: the trailer and CLOSE LAST of the fragment in progress have been sent. -/
  | closeLastSent
  /-- CLEAR_SENT: the CLEAR of a CLEARING period has been sent. -/
  | clearSent
  /-- EPOCH_EXPIRY: the epoch timer reaches its period. -/
  | epochExpiry
  /-- WINDOW_IDLE_TIMEOUT: the window idle timer reaches 250 ms. -/
  | windowIdleTimeout
  /-- RESEND_TIMER_EXPIRY: the notice resend timer reaches 20 ms. -/
  | resendTimerExpiry
  /-- AGENT_ATTEMPT_EVENT: the IDLE agent attempts the head of its inbox. -/
  | agentAttemptEvent
  /-- AGENT_RETRY: the agent's part of a release event. -/
  | agentRetry
  /-- NOTICE_CLAIM_RETRY: the notice queue's part of a release event. -/
  | noticeClaimRetry
  /-- MALFORMED_REQUEST: a request whose octets after the stream tag are `rest` reaches the inbox. -/
  | malformedRequest (tier : Tier) (broadcast : Bool) (rest : List Byte)
  /-- SELECT: a SELECT request reaches the inbox. -/
  | select (h : ReqHeader) (table : TableName) (base : BitVec 16)
  /-- RELEASE: a RELEASE request reaches the inbox. -/
  | release (h : ReqHeader)
  /-- READ: a READ request reaches the inbox. -/
  | read (h : ReqHeader) (offset count : Byte)
  /-- WRITE_STREAM: a WRITE request with STREAM entries reaches the inbox. -/
  | writeStream (h : ReqHeader) (offset count : Byte) (entries : List StreamWords)
  /-- WRITE_ALLOT: a WRITE request with ALLOT entries reaches the inbox. -/
  | writeAllot (h : ReqHeader) (offset count : Byte) (entries : List AllotWords)
  /-- WRITE_STREAM_TALLY: a WRITE request with STREAM_TALLY entries reaches the inbox. -/
  | writeStreamTally (h : ReqHeader) (offset count : Byte) (entries : List TallyWords)
  /-- WRITE_TIER: a WRITE request with TIER entries reaches the inbox. -/
  | writeTier (h : ReqHeader) (offset count : Byte) (entries : List TierWords)
  /-- WRITE_PORT: a WRITE request with PORT entries reaches the inbox. -/
  | writePort (h : ReqHeader) (offset count : Byte) (entries : List PortWords)
  /-- WRITE_PART: a WRITE request with PART entries reaches the inbox. -/
  | writePart (h : ReqHeader) (offset count : Byte) (entries : List PartWords)
  /-- WRITE_DISCARD: a WRITE request with DISCARD entries reaches the inbox. -/
  | writeDiscard (h : ReqHeader) (offset count : Byte) (entries : List (BitVec 32))
  /-- WRITE_NOTICES: a WRITE request with NOTICES entries reaches the inbox. -/
  | writeNotices (h : ReqHeader) (offset count : Byte) (entries : List (BitVec 64))
  /-- APPEND: an APPEND request reaches the inbox. -/
  | append (h : ReqHeader) (tail new : BitVec 16)
  /-- ACKNOWLEDGE: an ACKNOWLEDGE request reaches the inbox. -/
  | acknowledge (h : ReqHeader) (sequence : Byte)
  /-- STATUS: a STATUS request reaches the inbox. -/
  | status (h : ReqHeader)
  /-- RESTART: a RESTART request reaches the inbox. -/
  | restart (h : ReqHeader)
  /-- PORT_RESET: a PORT-RESET request reaches the inbox. -/
  | portReset (h : ReqHeader) (port : Byte)
  deriving DecidableEq, Repr

end Sys2Proof
end

