-- ==== Sys2Proof/Decode.lean ====
section
/-! DEFINITION. Line codes (R196): a symbol on a line is a kind, data or marker, and an 8-bit value.  Here are the
decoding of a received code on each line, the code of every symbol the part sends, and the command that the
arrival of a symbol is.  The table of operations and events gives no row a bit pattern, so `decodeTableWord`
answers none. -/

namespace Sys2Proof

/-- A received code word: a data code or a marker code with its value, or a word the line receiver cannot decode
(R196). -/
inductive LineCode where
  | data (v : Byte)
  | marker (v : Byte)
  | undecodable
  deriving DecidableEq, Repr

/-- The trunk symbol of a code (R196). -/
def decodeTrunkCode : LineCode → TrunkSymbol
  | .data v => .data v
  | .undecodable => .invalid
  | .marker v =>
    let n := v.toNat
    if n = 0x00 then .idle
    else if n = 0x01 then .clear
    else if n = 0x02 then .closeMore
    else if n = 0x03 then .closeLast
    else if 0x10 ≤ n ∧ n < 0x14 then .openFirst (Tier.ofIx (Fin.ofNat 4 (n - 0x10)))
    else if 0x20 ≤ n ∧ n < 0x40 then
      .openNext (Tier.ofIx (Fin.ofNat 4 ((n - 0x20) / 8))) (BitVec.ofNat 3 ((n - 0x20) % 8))
    else .invalid

/-- The tributary symbol of a code (R196). -/
def decodeTribCode : LineCode → TribSymbol
  | .data v => .data v
  | .undecodable => .invalid
  | .marker v =>
    let n := v.toNat
    if n = 0x00 then .idle
    else if n = 0x40 then .opened
    else if n = 0x41 then .closeEnd
    else if n = 0x42 then .closeAbort
    else .invalid

/-- The code of a trunk symbol (R196).  `invalid` is not sent: it is written as a word no receiver decodes. -/
def encodeTrunkSymbol : TrunkSymbol → LineCode
  | .data v => .data v
  | .idle => .marker 0x00
  | .clear => .marker 0x01
  | .closeMore => .marker 0x02
  | .closeLast => .marker 0x03
  | .openFirst t => .marker (BitVec.ofNat 8 (0x10 + t.ix.val))
  | .openNext t i => .marker (BitVec.ofNat 8 (0x20 + 8 * t.ix.val + i.toNat))
  | .invalid => .undecodable

/-- The code of a tributary symbol (R196). -/
def encodeTribSymbol : TribSymbol → LineCode
  | .data v => .data v
  | .idle => .marker 0x00
  | .opened => .marker 0x40
  | .closeEnd => .marker 0x41
  | .closeAbort => .marker 0x42
  | .invalid => .undecodable

/-- The command that the arrival of a trunk symbol is (R110, R129). -/
def trunkArrival : TrunkSymbol → Instr
  | .data b => .trunkDataOctet b
  | .idle => .trunkIdleReceived
  | .openFirst t => .openFirst t
  | .openNext t i => .openNext t i
  | .closeMore => .closeMore
  | .closeLast => .closeLast
  | .clear => .clearReceived
  | .invalid => .trunkInvalidSymbol

/-- The command that the arrival of a symbol at the ingress of port `p` is (R36). -/
def tribArrival (p : Port) : TribSymbol → Instr
  | .data b => .tributaryDataOctet p b
  | .idle => .tributaryIdle p
  | .opened => .tributaryOpen p
  | .closeEnd => .closeEnd p
  | .closeAbort => .closeAbort p
  | .invalid => .tributaryInvalidSymbol p

/-- The table of operations and events gives no row bits: no word spells a command. -/
def decodeTableWord (_nbits _w : Nat) : Option Instr := none

end Sys2Proof
end

