-- ==== Sys2Proof/Machine/Flags.lean ====
section
/-! DEFINITION. The two checks of R198: the 32-bit frame check and the 16-bit fragment check, cyclic remainders
taken octet by octet, most significant bit first. -/

namespace Sys2Proof.Machine

/-- The bits of an octet, most significant first. -/
def bitsOf (o : Byte) : List Bool :=
  [o.getLsbD 7, o.getLsbD 6, o.getLsbD 5, o.getLsbD 4, o.getLsbD 3, o.getLsbD 2, o.getLsbD 1, o.getLsbD 0]

/-- One bit through a cyclic remainder register with generator `g` (R198). -/
def checkBit {n : Nat} (g : BitVec n) (r : BitVec n) (b : Bool) : BitVec n :=
  let f := b ^^ r.msb
  let shifted := r <<< 1
  if f then shifted ^^^ g else shifted

/-- One octet through a register with generator `g`. -/
def checkOctet {n : Nat} (g : BitVec n) (r : BitVec n) (o : Byte) : BitVec n :=
  (bitsOf o).foldl (checkBit g) r

/-- The generators and starting values of R198. -/
def frameGenerator : BitVec 32 := 0x1EDC6F41
def frameStart : BitVec 32 := 0xFFFFFFFF
def fragmentGenerator : BitVec 16 := 0x1021
def fragmentStart : BitVec 16 := 0xFFFF

/-- The frame check over a run of octets: every bit of the register is inverted at the end (R198). -/
def frameCheck (l : List Byte) : BitVec 32 :=
  ~~~ (l.foldl (checkOctet frameGenerator) frameStart)

/-- The fragment check register after a run of octets (R198). -/
def fragmentCheckFrom (r : BitVec 16) (l : List Byte) : BitVec 16 :=
  l.foldl (checkOctet fragmentGenerator) r

/-- The fragment check over a run of octets: no inversion at the end (R198). -/
def fragmentCheck (l : List Byte) : BitVec 16 := fragmentCheckFrom fragmentStart l

end Sys2Proof.Machine
end

