-- ==== Sys2Proof/Config.lean ====
section
/-! DEFINITION. The principal figures of the D4T8 (00_scope.md, "Principal figures").  The part fixes all of
them; no register changes them, and none is left to an implementation. -/

namespace Sys2Proof.Config

/-- Frame handles, H0 to H511 (R2). -/
def handleCount : Nat := 512
/-- Buffer cells, 0 to 4095 (R1). -/
def cellCount : Nat := 4096
/-- Octets of a cell (R1). -/
def cellSize : Nat := 64
/-- Handles of the reserve (R8). -/
def reserveHandles : Nat := 16
/-- Cells of the reserve (R8). -/
def reserveCells : Nat := 128
/-- Least octets of a frame body (R37, R112). -/
def minBody : Nat := 8
/-- Most octets of a frame body (R37, R112). -/
def maxBody : Nat := 2048
/-- Stream entries (R21). -/
def streamCount : Nat := 256
/-- Allotment records (R57). -/
def recordCount : Nat := 1024
/-- Least and most of a tier queue limit, and its value after power-on (R81). -/
def minLimit : Nat := 1
def maxLimit : Nat := 511
def powerOnLimit : Nat := 128
/-- Frames of an egress queue (R51). -/
def egressSize : Nat := 32
/-- Requests of the inbox (R148). -/
def inboxSize : Nat := 4
/-- Records of the notice queue (R174). -/
def noticeSize : Nat := 16
/-- Notice frames sent for one record (R180, R181). -/
def noticeSends : Nat := 4
/-- Octets of a block (R88). -/
def blockSize : Nat := 16
/-- Data octets a fragment carries before a cut, and that remain at a cut (R95). -/
def minFragment : Nat := 64
/-- Data octets of a resumed fragment before its hold clears (R94, R98). -/
def holdOctets : Nat := 128
/-- Trunk losses a frame survives (R103). -/
def maxRestarts : Nat := 2
/-- Consecutive IDLEs that bring the link UP (R117). -/
def alignRun : Nat := 16
/-- Consecutive invalid symbols that take the link DOWN (R119). -/
def lossRun : Nat := 4
/-- Octets the ingress holds back (R40). -/
def ingressHold : Nat := 4
/-- Octets the receiver holds back (R128). -/
def trunkHold : Nat := 6
/-- Entries the window spans (R157). -/
def windowSpan : Nat := 64
/-- Most entries of a READ and of a WRITE (R161, R162). -/
def readMax : Nat := 16
def writeMax : Nat := 8
/-- One tick of the idle step is 100 microseconds, the unit of the epoch period (section 1.10): 250 ms and
20 ms are 2500 and 200 ticks. -/
def windowTicks : Nat := 2500
def resendTicks : Nat := 200
/-- The node number of an unnumbered part (R147). -/
def unnumbered : BitVec 6 := 63
/-- The broadcast tag (R22). -/
def broadcastTag : Tag := 0xFFFF
/-- The management tag of node 0 (R22). -/
def managementBase : Tag := 0xFFC0

end Sys2Proof.Config
end

