-- ==== Sys2Proof/Machine/State.lean ====
section
/-! DEFINITION. The state of the D4T8, block by block, as plain data; the reasons a step can stop; and the state
right after power-on reset.

Two conventions hold throughout.  A large table (stream entries, allotment records, metering runtimes, stream
tallies, the octets of the cell store) is a list of (index, value) pairs with indices strictly rising that lists
only the entries whose value differs from the table's power-on value; every unlisted index holds that value, so
equal tables are equal data.  The handle table lists the held handles alone: an unlisted handle is FREE. -/

namespace Sys2Proof.Machine

/-- The reasons the machine stops with a fault.  There are none: no rule of the manual stops the part, and every
event it describes leaves a next state. -/
inductive Fault where
  deriving DecidableEq, Repr

/-- The reasons a command has no meaning in the model. -/
inductive Refusal where
  /-- A command whose arm in `exec` has no meaning yet.  No arm answers with it.  Safe: the model stops. -/
  | notModelled (mnemonic : String)
  deriving DecidableEq, Repr

/-! ## Buffer manager (chapter 1) -/

/-- The block or collection that holds a handle (R3).  FREE is the absence of the handle from the table. -/
inductive Holder where
  | ingress (p : Port)
  | tierQueue (t : Tier)
  | trunkActive
  | trunkSuspended
  | reassembly (t : Tier)
  | inbox
  | egress (p : Port)
  | agentBuild
  deriving DecidableEq, Repr

/-- The record of a held handle (R2). -/
structure Handle where
  holder       : Holder
  tag          : Tag
  stream       : Option StreamIx
  tier         : Tier
  bodyLength   : Nat
  chain        : List Nat
  sentOffset   : Nat
  nextIndex    : FragIx
  restartCount : Nat
  whole        : Bool
  resumeHold   : Bool
  deriving DecidableEq, Repr

/-- The buffer manager: the held handles by number, and the octets of the cell store by address
`64 * cell + position`.  A cell is free when no held handle's chain names it (R1), so the free stores are read
off the table (Machine/Ops.lean) and stored nowhere twice. -/
structure Buffers where
  handles : List (Nat × Handle)
  octets  : List Host.Cell
  deriving DecidableEq, Repr

/-! ## Stream table and allotment unit (chapters 2 and 4) -/

/-- What happens to a stream's frames once its chain is exhausted (R21). -/
inductive EndAction where
  | drop
  | demote
  deriving DecidableEq, Repr

/-- A stream entry (R21). -/
structure StreamEntry where
  valid     : Bool
  tag       : Tag
  port      : Port
  baseTier  : Tier
  whole     : Bool
  chainHead : Option RecordIx
  endAction : EndAction
  deriving DecidableEq, Repr

/-- The values of an entry after power-on, and of an entry a WRITE makes invalid (R21, R23). -/
def StreamEntry.invalid : StreamEntry :=
  { valid := false, tag := 0, port := 0, baseTier := .t3, whole := false, chainHead := none, endAction := .drop }

/-- An allotment record (R57): `tier` absent is KEEP, a budget of 0 is unbounded. -/
structure AllotRecord where
  budget : BitVec 24
  tier   : Option Tier
  next   : Option RecordIx
  deriving DecidableEq, Repr

/-- The values of every record after power-on (R57). -/
def AllotRecord.powerOn : AllotRecord := { budget := 0, tier := none, next := none }

/-- The remaining budget of a METERED runtime (R59). -/
inductive Remaining where
  | unbounded
  | octets (n : Nat)
  deriving DecidableEq, Repr

/-- A metering runtime (R59).  An UNMETERED runtime has no cursor; an EXHAUSTED one has 0 remaining. -/
inductive Runtime where
  | unmetered
  | metered (cursor : RecordIx) (remaining : Remaining)
  | exhausted (cursor : RecordIx)
  deriving DecidableEq, Repr

/-- The allotment unit: records, runtimes, and the time since the epoch timer was last started, in units of
100 microseconds.  The period is the PART table's; the timer is stopped while it is 0 (R73). -/
structure Metering where
  records      : List (Nat × AllotRecord)
  runtimes     : List (Nat × Runtime)
  epochElapsed : Nat
  deriving DecidableEq, Repr

/-! ## Tributary ports (chapter 3) -/

/-- The state of a tributary ingress and what it holds in it (R40). -/
inductive Ingress where
  | idle
  | tagWait (first : Option Byte)
  | receiving (handle : Nat) (holdBack : List Byte)
  | skipping
  deriving DecidableEq, Repr

/-- A tributary port: its setting, its ingress, its egress queue with the frame in transmission at the head
(R51), and the symbols its egress has put on the line, oldest first, a run of IDLEs written once. -/
structure PortState where
  enabled : Bool
  ingress : Ingress
  egress  : List Nat
  sent    : List TribSymbol
  deriving DecidableEq, Repr

/-- A port after power-on (R56). -/
def PortState.powerOn : PortState := { enabled := false, ingress := .idle, egress := [], sent := [.idle] }

/-! ## Tier scheduler and trunk transmitter (chapter 5) -/

/-- A tier queue and its limit (R79, R81). -/
structure TierQueue where
  limit   : Nat
  members : List Nat
  deriving DecidableEq, Repr

/-- The modes of the transmitter (R83). -/
inductive TxMode where
  | offline
  | clearing
  | idle
  | sending
  deriving DecidableEq, Repr

/-- FIRST or NEXT: how a fragment opened (R84, R128). -/
inductive FragKind where
  | first
  | next
  deriving DecidableEq, Repr

/-- How the fragment in progress ends, once decided (R84). -/
inductive Closing where
  | none
  | more
  | last
  deriving DecidableEq, Repr

/-- The record of the fragment in progress (R84). -/
structure TxFragment where
  kind    : FragKind
  tier    : Tier
  index   : FragIx
  carried : Nat
  closing : Closing
  deriving DecidableEq, Repr

/-- The transmitter: its mode, the active frame, the fragment in progress and the suspension stack, top first
(R83, R84, R85). -/
structure Transmitter where
  mode     : TxMode
  active   : Option Nat
  fragment : Option TxFragment
  stack    : List Nat
  deriving DecidableEq, Repr

/-! ## Trunk line (chapter 6) -/

/-- The link state (R114). -/
inductive Link where
  | down
  | aligning
  | up
  deriving DecidableEq, Repr

/-- The trunk line (R114), the level of TRK_LOS (R115), and the symbols the part has put on the trunk, oldest
first, a run of IDLEs written once. -/
structure TrunkLine where
  link       : Link
  los        : Bool
  idleRun    : Nat
  invalidRun : Nat
  beenUp     : Bool
  returned   : Nat
  discarded  : Nat
  contexts   : Nat
  sent       : List TrunkSymbol
  deriving DecidableEq, Repr

/-! ## Trunk receiver (chapter 7) -/

/-- The discard causes, in the order of R188. -/
inductive Cause where
  | ingressCheck
  | ingressLength
  | ingressAborted
  | noCell
  | noHandle
  | unknownTag
  | wrongPort
  | portDisabled
  | tierFull
  | chainEnd
  | overbudget
  | egressFull
  | fragmentCheck
  | frameCheck
  | sequence
  | cleared
  | trunkDown
  | restartLimit
  | inboxFull
  | flush
  deriving DecidableEq, Repr

/-- The index of a cause in the DISCARD table (R188). -/
def Cause.ix : Cause → Fin 20
  | .ingressCheck => 0
  | .ingressLength => 1
  | .ingressAborted => 2
  | .noCell => 3
  | .noHandle => 4
  | .unknownTag => 5
  | .wrongPort => 6
  | .portDisabled => 7
  | .tierFull => 8
  | .chainEnd => 9
  | .overbudget => 10
  | .egressFull => 11
  | .fragmentCheck => 12
  | .frameCheck => 13
  | .sequence => 14
  | .cleared => 15
  | .trunkDown => 16
  | .restartLimit => 17
  | .inboxFull => 18
  | .flush => 19

/-- What an OPEN context holds (R126). -/
structure Assembly where
  handle   : Option Nat
  tag      : Option Tag
  declared : Option Nat
  received : Nat
  expected : FragIx
  mgmt     : Bool
  deriving DecidableEq, Repr

/-- What a DISCARDING context holds (R126). -/
structure GivenUp where
  tag      : Option Tag
  declared : Option Nat
  expected : FragIx
  mgmt     : Bool
  cause    : Cause
  deriving DecidableEq, Repr

/-- A reassembly context (R126). -/
inductive Context where
  | closed
  | opened (a : Assembly)
  | discarding (g : GivenUp)
  deriving DecidableEq, Repr

/-- What the receiver does with an open fragment's octets (R128). -/
inductive RxMode where
  | storing
  | tracking
  | ignored
  deriving DecidableEq, Repr

/-- The record of the fragment open on the incoming line (R128).  `header` holds the header octets that have
arrived; `check` is the running fragment check over the octets known not to be the check itself (R136, R198). -/
structure RxFragment where
  tier   : Tier
  kind   : FragKind
  mode   : RxMode
  header : List Byte
  hold   : List Byte
  check  : BitVec 16
  deriving DecidableEq, Repr

/-- The receiver: four contexts and the fragment record (R126, R128). -/
structure Receiver where
  contexts : Vector Context 4
  fragment : Option RxFragment
  deriving DecidableEq, Repr

/-! ## Management agent (chapter 8) -/

/-- The statuses of a reply (R155). -/
inductive Status where
  | done
  | noWindow
  | windowHeld
  | notHolder
  | range
  | readOnly
  | invalidEntry
  | duplicateTag
  | chainNotEnd
  | notFound
  | badRequest
  deriving DecidableEq, Repr

/-- A controller record that is not absent (R156). -/
structure CtlRecord where
  number : Byte
  status : Status
  deriving DecidableEq, Repr

/-- The window while it is held (R157); `idle` is the elapsed time of its idle timer in units of 100
microseconds.  A free window has no table, base or running timer. -/
structure Window where
  holder : Controller
  table  : TableName
  base   : Nat
  idle   : Nat
  deriving DecidableEq, Repr

/-- IDLE or WAITING (R149). -/
inductive AgentState where
  | idle
  | waiting
  deriving DecidableEq, Repr

/-- The reset cause of the PART table (R164). -/
inductive ResetCause where
  | power
  | soft
  deriving DecidableEq, Repr

/-- The management agent: its state, the inbox with the request being answered at its head (R148), the window
(absent while free, R157) and the controller records (R156). -/
structure Agent where
  state   : AgentState
  inbox   : List Nat
  window  : Option Window
  records : Vector (Option CtlRecord) 4
  deriving DecidableEq, Repr

/-- The PART table but for the link state, which the trunk line holds (R164). -/
structure Part where
  epochPeriod : BitVec 16
  noticeTag   : Tag
  node        : BitVec 6
  cause       : ResetCause
  deriving DecidableEq, Repr

/-! ## Notice queue (chapter 9) -/

/-- The faults a SEQUENCE_FAULT notice reports (R143). -/
inductive SeqFault where
  | gap
  | reopen
  | nesting
  | orphan
  deriving DecidableEq, Repr

/-- A notice: its kind with the subject and the detail of that kind (R173). -/
inductive Notice where
  | announce (cause : ResetCause) (node : BitVec 6)
  | chainEnd (stream : StreamIx) (record : RecordIx)
  | sequenceFault (tier : Tier) (fault : SeqFault)
  | trunkRestored (returned discarded contexts : Nat)
  deriving DecidableEq, Repr

/-- QUEUED, or SENT with the sequence number, the sends and the lost count carried (R173). -/
inductive NoticeState where
  | queued
  | sent (sequence : Byte) (sends : Nat) (lost : Byte)
  deriving DecidableEq, Repr

/-- A notice record (R173). -/
structure NoticeRecord where
  notice : Notice
  state  : NoticeState
  deriving DecidableEq, Repr

/-- The resend timer, stopped, running or held, with its elapsed time in units of 100 microseconds (R174,
R180). -/
inductive ResendTimer where
  | stopped
  | running (elapsed : Nat)
  | held (elapsed : Nat)
  deriving DecidableEq, Repr

/-- The notice queue, oldest record first (R174). -/
structure NoticeQueue where
  records  : List NoticeRecord
  counter  : Byte
  lost     : Nat
  timer    : ResendTimer
  pending  : Bool
  deriving DecidableEq, Repr

/-! ## Tallies (chapter 10) -/

/-- The four tallies of a stream index (R191). -/
structure StreamTally where
  framesToTrunk   : BitVec 32
  octetsToTrunk   : BitVec 32
  framesDelivered : BitVec 32
  framesDiscarded : BitVec 32
  deriving DecidableEq, Repr

/-- The tallies of an index after power-on (R195). -/
def StreamTally.zero : StreamTally :=
  { framesToTrunk := 0, octetsToTrunk := 0, framesDelivered := 0, framesDiscarded := 0 }

/-- The tally unit (R188, R191). -/
structure Tallies where
  discards : Vector (BitVec 32) 20
  streams  : List (Nat × StreamTally)
  deriving DecidableEq, Repr

/-! ## The whole part -/

/-- The state of the part.  `releaseEvents` counts the release events that the event under way has raised and not
yet taken (R13): it is 0 between commands.  `pending` is the queue of commands waiting, first in, first out. -/
structure State where
  buf           : Buffers
  streams       : List (Nat × StreamEntry)
  metering      : Metering
  ports         : Vector PortState 8
  queues        : Vector TierQueue 4
  tx            : Transmitter
  line          : TrunkLine
  rx            : Receiver
  agent         : Agent
  part          : Part
  notices       : NoticeQueue
  tallies       : Tallies
  releaseEvents : Nat
  pending       : List Instr
  deriving DecidableEq, Repr

/-! ## Updates of one block

Every operation writes State through these; Laws/State.lean gives each field of each. -/

def State.withBuf (s : State) (v : Buffers) : State := { s with buf := v }
def State.withStreams (s : State) (v : List (Nat × StreamEntry)) : State := { s with streams := v }
def State.withMetering (s : State) (v : Metering) : State := { s with metering := v }
def State.withPorts (s : State) (v : Vector PortState 8) : State := { s with ports := v }
def State.withQueues (s : State) (v : Vector TierQueue 4) : State := { s with queues := v }
def State.withTx (s : State) (v : Transmitter) : State := { s with tx := v }
def State.withLine (s : State) (v : TrunkLine) : State := { s with line := v }
def State.withRx (s : State) (v : Receiver) : State := { s with rx := v }
def State.withAgent (s : State) (v : Agent) : State := { s with agent := v }
def State.withPart (s : State) (v : Part) : State := { s with part := v }
def State.withNotices (s : State) (v : NoticeQueue) : State := { s with notices := v }
def State.withTallies (s : State) (v : Tallies) : State := { s with tallies := v }
def State.withReleaseEvents (s : State) (v : Nat) : State := { s with releaseEvents := v }
def State.withPending (s : State) (v : List Instr) : State := { s with pending := v }

/-- Every block right after power-on reset, with the straps and the level of TRK_LOS given (R18, R34, R56, R78,
R108, R114, R145, R172, R174, R186, R195).  The cell store's octets are not named by any reset rule: see
`powerOn` in Machine/Reset.lean. -/
def State.powerOnWith (straps : BitVec 6) (los : Bool) : State :=
  { buf := { handles := [], octets := [] }
    streams := []
    metering := { records := [], runtimes := [], epochElapsed := 0 }
    ports := Vector.replicate 8 PortState.powerOn
    queues := Vector.replicate 4 { limit := Config.powerOnLimit, members := [] }
    tx := { mode := .offline, active := none, fragment := none, stack := [] }
    line :=
      { link := if los then .down else .aligning
        los := los, idleRun := 0, invalidRun := 0, beenUp := false
        returned := 0, discarded := 0, contexts := 0, sent := [.idle] }
    rx := { contexts := Vector.replicate 4 .closed, fragment := none }
    agent := { state := .idle, inbox := [], window := none, records := Vector.replicate 4 none }
    part := { epochPeriod := 0, noticeTag := 0, node := straps, cause := .power }
    notices :=
      { records := [{ notice := .announce .power straps, state := .queued }]
        counter := 0, lost := 0, timer := .stopped, pending := false }
    tallies := { discards := Vector.replicate 20 0, streams := [] }
    releaseEvents := 0
    pending := [] }

/-- The machine right after power-on reset.  DESIGN CHOICE (notes/assumptions/2.md), unsafe: the manual gives no
values for the input pins, and this state is the one of straps all low (node number 0) and TRK_LOS deasserted. -/
def State.reset : State := State.powerOnWith 0 false

end Sys2Proof.Machine
end

