-- ==== Sys2Proof/Machine/Operands.lean ====
section
/-! DEFINITION. The octet layouts of chapter 11: multi-octet fields, the codes of named values (R199), request
bodies and their decoding (R200, R203, R154), and the written form of every table entry with the judgement of
its codes (R204, R205).  Everything here is a function of octets alone. -/

namespace Sys2Proof.Machine

/-! ## Fields of more than one octet, most significant octet first (section 1.8) -/

def octets2 (x : BitVec 16) : List Byte := [x.extractLsb' 8 8, x.extractLsb' 0 8]
def octets3 (x : BitVec 24) : List Byte := [x.extractLsb' 16 8, x.extractLsb' 8 8, x.extractLsb' 0 8]
def octets4 (x : BitVec 32) : List Byte :=
  [x.extractLsb' 24 8, x.extractLsb' 16 8, x.extractLsb' 8 8, x.extractLsb' 0 8]
def octets6 (x : BitVec 48) : List Byte := octets2 (x.extractLsb' 32 16) ++ octets4 (x.extractLsb' 0 32)
def octets8 (x : BitVec 64) : List Byte := octets4 (x.extractLsb' 32 32) ++ octets4 (x.extractLsb' 0 32)

def word16 (a b : Byte) : BitVec 16 := a ++ b
def word24 (a b c : Byte) : BitVec 24 := a ++ b ++ c
def word32 (a b c d : Byte) : BitVec 32 := a ++ b ++ c ++ d

/-- The octet of a body or entry at an offset. -/
def octetAt (l : List Byte) (k : Nat) : Byte := l.getD k 0
def word16At (l : List Byte) (k : Nat) : BitVec 16 := word16 (octetAt l k) (octetAt l (k + 1))
def word24At (l : List Byte) (k : Nat) : BitVec 24 :=
  word24 (octetAt l k) (octetAt l (k + 1)) (octetAt l (k + 2))
def word32At (l : List Byte) (k : Nat) : BitVec 32 :=
  word32 (octetAt l k) (octetAt l (k + 1)) (octetAt l (k + 2)) (octetAt l (k + 3))

/-- A count in 2 octets. -/
def count2 (n : Nat) : List Byte := octets2 (BitVec.ofNat 16 n)
/-- A count in 1 octet. -/
def count1 (n : Nat) : Byte := BitVec.ofNat 8 n

/-! ## Codes of named values (R199) -/

def tierCode (t : Tier) : Byte := BitVec.ofNat 8 t.ix.val
def tierOfCode (b : Byte) : Option Tier :=
  if h : b.toNat < 4 then some (Tier.ofIx ⟨b.toNat, h⟩) else none

/-- 0x0000 to 0x03FF for a record, 0xFFFF for absent. -/
def recordCode : Option RecordIx → BitVec 16
  | some r => BitVec.ofNat 16 r.val
  | none => 0xFFFF

/-- The record or absence that a code names; `none` for a code that names neither. -/
def recordOfCode (x : BitVec 16) : Option (Option RecordIx) :=
  if h : x.toNat < 1024 then some (some ⟨x.toNat, h⟩)
  else if x = 0xFFFF then some none
  else none

def flagCode (b : Bool) : Byte := if b then 1 else 0

def endActionCode : EndAction → Byte
  | .drop => 0x00
  | .demote => 0x01

def linkCode : Link → Byte
  | .down => 0x00
  | .aligning => 0x01
  | .up => 0x02

def contextCode : Context → Byte
  | .closed => 0x00
  | .opened _ => 0x01
  | .discarding _ => 0x02

def tableCode : TableName → Byte
  | .stream => 0x01
  | .allot => 0x02
  | .streamTally => 0x03
  | .tier => 0x04
  | .port => 0x05
  | .part => 0x06
  | .discard => 0x07
  | .notices => 0x08

def tableOfCode (b : Byte) : Option TableName :=
  match b.toNat with
  | 1 => some .stream
  | 2 => some .allot
  | 3 => some .streamTally
  | 4 => some .tier
  | 5 => some .port
  | 6 => some .part
  | 7 => some .discard
  | 8 => some .notices
  | _ => none

def statusCode : Status → Byte
  | .done => 0x00
  | .noWindow => 0x01
  | .windowHeld => 0x02
  | .notHolder => 0x03
  | .range => 0x04
  | .readOnly => 0x05
  | .invalidEntry => 0x06
  | .duplicateTag => 0x07
  | .chainNotEnd => 0x08
  | .notFound => 0x09
  | .badRequest => 0x0A

def causeCode : ResetCause → Byte
  | .power => 0x01
  | .soft => 0x02

def seqFaultCode : SeqFault → Byte
  | .gap => 0x01
  | .reopen => 0x02
  | .nesting => 0x03
  | .orphan => 0x04

/-! ## Tables (R161) -/

/-- Entries of a table. -/
def tableEntries : TableName → Nat
  | .stream => 256
  | .allot => 1024
  | .streamTally => 256
  | .tier => 4
  | .port => 8
  | .part => 1
  | .discard => 20
  | .notices => 16

/-- Octets of an entry. -/
def entrySize : TableName → Nat
  | .stream => 14
  | .allot => 6
  | .streamTally => 16
  | .tier => 4
  | .port => 3
  | .part => 7
  | .discard => 4
  | .notices => 8

/-! ## Tag classes (R22) -/

/-- The management tag of this part's own node number; absent for an unnumbered part (R22, R147). -/
def nodeTag (node : BitVec 6) : Option Tag :=
  if node = Config.unnumbered then none else some (Config.managementBase + node.setWidth 16)

/-- Whether a tag addresses this part: its own management tag, or the broadcast tag (R22, R132). -/
def addressesPart (node : BitVec 6) (t : Tag) : Bool :=
  decide (t = Config.broadcastTag) || decide (nodeTag node = some t)

/-- The stream tag a request to this part carries (R147). -/
def requestTag (node : BitVec 6) (broadcast : Bool) : Tag :=
  if broadcast then Config.broadcastTag else (nodeTag node).getD Config.broadcastTag

/-! ## Requests (R153, R200, R203) -/

/-- A request's kind with its arguments as its octets give them. -/
inductive RequestOp where
  | select (table : TableName) (base : Nat)
  | release
  | read (offset count : Nat)
  | write (offset count : Nat) (data : List Byte)
  | append (tail new : Nat)
  | acknowledge (sequence : Byte)
  | status
  | restart
  | portReset (port : Nat)
  deriving DecidableEq, Repr

/-- A request that is not malformed. -/
structure Request where
  controller : Controller
  number     : Byte
  op         : RequestOp
  deriving DecidableEq, Repr

/-- The kind and arguments of a request body; absent when the kind is unknown, the fixed arguments are not all
there, or a SELECT names no table (R154, R200). -/
def decodeOp (body : List Byte) : Option RequestOp :=
  match (octetAt body 6).toNat with
  | 1 =>
    if body.length < 10 then none
    else (tableOfCode (octetAt body 7)).map fun t => .select t (word16At body 8).toNat
  | 2 => some .release
  | 3 => if body.length < 9 then none else some (.read (octetAt body 7).toNat (octetAt body 8).toNat)
  | 4 =>
    if body.length < 9 then none
    else some (.write (octetAt body 7).toNat (octetAt body 8).toNat (body.drop 9))
  | 5 => if body.length < 11 then none else some (.append (word16At body 7).toNat (word16At body 9).toNat)
  | 6 => if body.length < 8 then none else some (.acknowledge (octetAt body 7))
  | 7 => some .status
  | 8 => some .restart
  | 9 => if body.length < 8 then none else some (.portReset (octetAt body 7).toNat)
  | _ => none

/-- The request a body spells; absent when it is malformed (R154). -/
def decodeRequest (body : List Byte) : Option Request :=
  if h : (octetAt body 4).toNat < 4 then
    (decodeOp body).map fun op =>
      { controller := ⟨(octetAt body 4).toNat, h⟩, number := octetAt body 5, op := op }
  else none

/-- READ and STATUS, which the repeat filter does not stop (R156). -/
def RequestOp.unfiltered : RequestOp → Bool
  | .read _ _ => true
  | .status => true
  | _ => false

/-- The body of a request (R200). -/
def requestBody (node : BitVec 6) (h : ReqHeader) (kind : Byte) (args : List Byte) : List Byte :=
  octets2 (requestTag node h.broadcast) ++ octets2 h.replyTag ++
    [BitVec.ofNat 8 h.controller.val, h.number, kind] ++ args

/-! ## Written entries (R204) -/

def StreamWords.octets (e : StreamWords) : List Byte :=
  [e.flags] ++ octets2 e.tag ++ [e.port, e.baseTier, e.endAction] ++ octets2 e.chainHead ++ octets6 e.runtime
def AllotWords.octets (e : AllotWords) : List Byte := octets3 e.budget ++ [e.tier] ++ octets2 e.next
def TallyWords.octets (e : TallyWords) : List Byte :=
  octets4 e.framesToTrunk ++ octets4 e.octetsToTrunk ++ octets4 e.framesDelivered ++ octets4 e.framesDiscarded
def TierWords.octets (e : TierWords) : List Byte := octets2 e.limit ++ octets2 e.length
def PortWords.octets (e : PortWords) : List Byte := [e.enabled, e.ingressBusy, e.egressLength]
def PartWords.octets (e : PartWords) : List Byte :=
  octets2 e.epochPeriod ++ octets2 e.noticeTag ++ [e.nodeNumber, e.resetCause, e.linkState]

/-- The first `count` entries of a WRITE's octets, each of `size` octets. -/
def chunks (size : Nat) : Nat → List Byte → List (List Byte)
  | 0, _ => []
  | n + 1, l => l.take size :: chunks size n (l.drop size)

/-- The STREAM entry that 14 octets spell; absent when a code of a valid entry fails (R23, R205).  An entry whose
valid bit is clear is the invalid entry of R21. -/
def parseStream (l : List Byte) : Option StreamEntry :=
  let flags := octetAt l 0
  if flags.getLsbD 0 then
    let tag := word16At l 1
    if tag = 0 then none
    else if hp : (octetAt l 3).toNat < 8 then
      match tierOfCode (octetAt l 4) with
      | none => none
      | some tier =>
        match recordOfCode (word16At l 6) with
        | none => none
        | some head =>
          let mk := fun a => some
            { valid := true, tag := tag, port := ⟨(octetAt l 3).toNat, hp⟩, baseTier := tier
              whole := flags.getLsbD 1, chainHead := head, endAction := a }
          match (octetAt l 5).toNat with
          | 0 => mk .drop
          | 1 => mk .demote
          | _ => none
    else none
  else some StreamEntry.invalid

/-- The ALLOT record that 6 octets spell; absent when its tier or next code fails (R71, R205). -/
def parseAllot (l : List Byte) : Option AllotRecord :=
  match recordOfCode (word16At l 4) with
  | none => none
  | some next =>
    if octetAt l 3 = 0x04 then some { budget := word24At l 0, tier := none, next := next }
    else (tierOfCode (octetAt l 3)).map fun t => { budget := word24At l 0, tier := some t, next := next }

/-- The STREAM_TALLY entry that 16 octets spell; every value is accepted (R192). -/
def parseTally (l : List Byte) : Option StreamTally :=
  some { framesToTrunk := word32At l 0, octetsToTrunk := word32At l 4
         framesDelivered := word32At l 8, framesDiscarded := word32At l 12 }

/-- The limit that 4 octets of a TIER entry spell; absent outside 1 to 511 (R81). -/
def parseTier (l : List Byte) : Option Nat :=
  let n := (word16At l 0).toNat
  if Config.minLimit ≤ n ∧ n ≤ Config.maxLimit then some n else none

/-- The enabled field that 3 octets of a PORT entry spell; absent for a code above 0x01 (R39). -/
def parsePort (l : List Byte) : Option Bool :=
  match (octetAt l 0).toNat with
  | 0 => some false
  | 1 => some true
  | _ => none

/-- The epoch period and notice tag that 7 octets of a PART entry spell; every value is accepted (R164). -/
def parsePart (l : List Byte) : Option (BitVec 16 × Tag) := some (word16At l 0, word16At l 2)

/-- The count that 4 octets of a DISCARD entry spell (R192). -/
def parseDiscard (l : List Byte) : Option (BitVec 32) := some (word32At l 0)

/-- Judges entries in order: all of them, or the place of the first that fails (R162 step 6). -/
def parseAll {α : Type} (f : List Byte → Option α) (i : Nat) : List (List Byte) → Except Nat (List α)
  | [] => .ok []
  | l :: ls =>
    match f l with
    | none => .error i
    | some a =>
      match parseAll f (i + 1) ls with
      | .error j => .error j
      | .ok as => .ok (a :: as)

/-! ## Notices (R202) -/

def noticeKindCode : Notice → Byte
  | .announce _ _ => 0x01
  | .chainEnd _ _ => 0x02
  | .sequenceFault _ _ => 0x03
  | .trunkRestored _ _ _ => 0x04

def noticeSubject : Notice → Byte
  | .announce _ _ => 0x00
  | .chainEnd s _ => BitVec.ofNat 8 s.val
  | .sequenceFault t _ => tierCode t
  | .trunkRestored _ _ _ => 0x00

def noticeDetail : Notice → List Byte
  | .announce c n => [causeCode c, n.setWidth 8, 0x00, 0x00]
  | .chainEnd _ r => [0x00, 0x00] ++ octets2 (BitVec.ofNat 16 r.val)
  | .sequenceFault _ f => [seqFaultCode f, 0x00, 0x00, 0x00]
  | .trunkRestored a b c => [count1 a, count1 b, count1 c, 0x00]

/-- The same kind and the same subject, which is what coalescing asks (R175). -/
def Notice.sameMatter : Notice → Notice → Bool
  | .announce _ _, .announce _ _ => true
  | .chainEnd a _, .chainEnd b _ => decide (a = b)
  | .sequenceFault a _, .sequenceFault b _ => decide (a = b)
  | .trunkRestored _ _ _, .trunkRestored _ _ _ => true
  | _, _ => false

/-- The 8 octets of a NOTICES entry (R204). -/
def noticeEntry (r : NoticeRecord) : List Byte :=
  [noticeKindCode r.notice, noticeSubject r.notice] ++ noticeDetail r.notice ++
    (match r.state with
     | .queued => [0x00, 0x00]
     | .sent q n _ => [q, count1 n])

end Sys2Proof.Machine
end

