-- ==== Sys2Proof/Machine/Ops.lean ====
section
/-! DEFINITION. The operations every chapter uses: tables kept as rising (index, value) lists, the octets of the
cell store, the buffer manager's claims and releases (chapter 1), tallies and discards (chapter 10), and reads
and updates of one port, queue, context or table entry. -/

namespace Sys2Proof.Machine

/-! ## Tables as rising lists of (index, value) -/

/-- The value listed at an index. -/
def Table.find {α : Type} : List (Nat × α) → Nat → Option α
  | [], _ => none
  | (j, a) :: m, k => if j = k then some a else Table.find m k

/-- Lists a value at an index, in its place. -/
def Table.put {α : Type} : List (Nat × α) → Nat → α → List (Nat × α)
  | [], k, a => [(k, a)]
  | (j, b) :: m, k, a =>
    if k < j then (k, a) :: (j, b) :: m
    else if k = j then (k, a) :: m
    else (j, b) :: Table.put m k a

/-- Unlists an index. -/
def Table.drop {α : Type} (m : List (Nat × α)) (k : Nat) : List (Nat × α) := m.filter fun e => decide (e.1 ≠ k)

/-- The value of a table at an index: what is listed, or the table's power-on value `d`. -/
def Table.get {α : Type} (d : α) (m : List (Nat × α)) (k : Nat) : α := (Table.find m k).getD d

/-- Sets the value of a table at an index, keeping the canonical form: a value equal to `d` is unlisted. -/
def Table.set {α : Type} [DecidableEq α] (d : α) (m : List (Nat × α)) (k : Nat) (a : α) : List (Nat × α) :=
  if a = d then Table.drop m k else Table.put m k a

/-- Indices strictly rising from at least `n`. -/
def Table.risingFrom {α : Type} (n : Nat) : List (Nat × α) → Bool
  | [] => true
  | (j, _) :: m => decide (n ≤ j) && Table.risingFrom (j + 1) m

/-- The canonical form: indices strictly rising, and no value equal to `d` listed. -/
def Table.wf {α : Type} [DecidableEq α] (d : α) (m : List (Nat × α)) : Bool :=
  Table.risingFrom 0 m && m.all fun e => decide (e.2 ≠ d)

/-! ## The octets of the cell store (R1) -/

/-- What an octet nothing has written reads as.  DESIGN CHOICE (notes/assumptions/3.md), unsafe: the manual gives
no power-on contents of a cell, and no rule reads an octet beyond a body's length. -/
def Memory.unwritten : Byte := 0x00

/-- The octet at an address. -/
def Memory.read (m : List Host.Cell) (a : Nat) : Byte := Table.get Memory.unwritten m a

/-- Writes the octet at an address. -/
def Memory.write (m : List Host.Cell) (a : Nat) (b : Byte) : List Host.Cell := Table.set Memory.unwritten m a b

/-- The canonical form of the octets. -/
def Memory.wf (m : List Host.Cell) : Bool := Table.wf Memory.unwritten m

/-! ## Handles and cells (R1 to R4) -/

/-- The record of a handle; absent while it is FREE. -/
def State.handle? (s : State) (h : Nat) : Option Handle := Table.find s.buf.handles h

def State.setHandle (s : State) (h : Nat) (r : Handle) : State :=
  s.withBuf { s.buf with handles := Table.put s.buf.handles h r }

/-- Changes the record of a held handle. -/
def State.modHandle (s : State) (h : Nat) (f : Handle → Handle) : State :=
  match s.handle? h with
  | none => s
  | some r => s.setHandle h (f r)

/-- The cells of all chains. -/
def State.heldCells (s : State) : List Nat := s.buf.handles.flatMap fun e => e.2.chain

def State.freeHandles (s : State) : Nat := Config.handleCount - s.buf.handles.length
def State.freeCells (s : State) : Nat := Config.cellCount - s.heldCells.length

/-- The lowest number from `n` on, within `fuel` numbers, that is not among `used`. -/
def lowestFrom (used : List Nat) : Nat → Nat → Nat
  | n, 0 => n
  | n, fuel + 1 => if used.contains n then lowestFrom used (n + 1) fuel else n

/-- The lowest-numbered FREE handle (R4). -/
def State.lowestHandle (s : State) : Nat := lowestFrom (s.buf.handles.map fun e => e.1) 0 Config.handleCount

/-- The lowest-numbered free cell (R1). -/
def State.lowestCell (s : State) : Nat := lowestFrom s.heldCells 0 Config.cellCount

/-- The tier of a held frame. -/
def State.tierOf (s : State) (h : Nat) : Tier :=
  match s.handle? h with
  | some r => r.tier
  | none => .t3

/-- The stream index of a held frame (R190). -/
def State.streamOf (s : State) (h : Nat) : Option StreamIx := (s.handle? h).bind fun r => r.stream

def State.setHolder (s : State) (h : Nat) (k : Holder) : State := s.modHandle h fun r => { r with holder := k }

/-! ## Body octets (R6) -/

/-- The address of body octet `k` of a chain: position `k mod 64` of the cell at place `k div 64`. -/
def cellAddress (chain : List Nat) (k : Nat) : Nat :=
  Config.cellSize * chain.getD (k / Config.cellSize) 0 + k % Config.cellSize

/-- Body octets `a` to `b - 1` of a frame. -/
def State.bodySlice (s : State) (r : Handle) (a b : Nat) : List Byte :=
  (List.range' a (b - a)).map fun k => Memory.read s.buf.octets (cellAddress r.chain k)

/-- The body of a held frame. -/
def State.bodyOf (s : State) (h : Nat) : List Byte :=
  match s.handle? h with
  | none => []
  | some r => s.bodySlice r 0 r.bodyLength

/-- Stores the next body octet in the cell that already holds its place (R6). -/
def State.storeOctet (s : State) (h : Nat) (b : Byte) : State :=
  match s.handle? h with
  | none => s
  | some r =>
    s.withBuf
      { handles := Table.put s.buf.handles h { r with bodyLength := r.bodyLength + 1 }
        octets := Memory.write s.buf.octets (cellAddress r.chain r.bodyLength) b }

/-- Stores octets in order. -/
def State.storeOctets (s : State) (h : Nat) : List Byte → State
  | [] => s
  | b :: bs => (s.storeOctet h b).storeOctets h bs

/-! ## Claims (R4, R8, R9) -/

/-- Whether a claim of the kind for one handle is granted: an ordinary claim leaves the reserve (R8), a management
claim may take from it (R9). -/
def State.handleGranted (s : State) (mgmt : Bool) : Bool :=
  if mgmt then decide (1 ≤ s.freeHandles) else decide (Config.reserveHandles < s.freeHandles)

/-- The same for one cell. -/
def State.cellGranted (s : State) (mgmt : Bool) : Bool :=
  if mgmt then decide (1 ≤ s.freeCells) else decide (Config.reserveCells < s.freeCells)

/-- The record a grant writes (R4). -/
def Handle.granted (holder : Holder) (tag : Tag) (tier : Tier) (stream : Option StreamIx) : Handle :=
  { holder := holder, tag := tag, stream := stream, tier := tier, bodyLength := 0, chain := []
    sentOffset := 0, nextIndex := 0, restartCount := 0, whole := false, resumeHold := false }

/-- A handle claim: the lowest-numbered FREE handle, or a refusal (R4, R8, R9). -/
def State.claimHandle (s : State) (mgmt : Bool) (holder : Holder) (tag : Tag) (tier : Tier)
    (stream : Option StreamIx) : Option (Nat × State) :=
  if s.handleGranted mgmt then
    some (s.lowestHandle, s.setHandle s.lowestHandle (Handle.granted holder tag tier stream))
  else none

/-- Appends the lowest-numbered free cell to a handle's chain (R1). -/
def State.takeCell (s : State) (h : Nat) : State :=
  s.modHandle h fun r => { r with chain := r.chain ++ [s.lowestCell] }

def State.takeCells (s : State) (h : Nat) : Nat → State
  | 0 => s
  | n + 1 => (s.takeCell h).takeCells h n

/-- Stores the next body octet, first claiming a cell where its offset is a multiple of 64 (R6); `none` when the
claim is refused. -/
def State.appendOctet (s : State) (mgmt : Bool) (h : Nat) (b : Byte) : Option State :=
  match s.handle? h with
  | none => some s
  | some r =>
    if r.bodyLength % Config.cellSize = 0 then
      if s.cellGranted mgmt then some ((s.takeCell h).storeOctet h b) else none
    else some (s.storeOctet h b)

/-- Stores octets in order until a cell claim is refused; says whether all were stored. -/
def State.appendOctets (s : State) (mgmt : Bool) (h : Nat) : List Byte → Bool × State
  | [] => (true, s)
  | b :: bs =>
    match s.appendOctet mgmt h b with
    | none => (false, s)
    | some s' => s'.appendOctets mgmt h bs

/-- The cells that a body of `n` octets needs (R9). -/
def cellsFor (n : Nat) : Nat := (n + (Config.cellSize - 1)) / Config.cellSize

/-- A compound claim for a reply or notice of `n` body octets: one handle and its cells, taken whole or not at all
(R9). -/
def State.claimCompound (s : State) (tag : Tag) (n : Nat) : Option (Nat × State) :=
  if 1 ≤ s.freeHandles ∧ cellsFor n ≤ s.freeCells then
    some (s.lowestHandle,
      (s.setHandle s.lowestHandle (Handle.granted .agentBuild tag .t0 none)).takeCells s.lowestHandle (cellsFor n))
  else none

/-! ## Tallies (chapter 10) -/

def State.tally (s : State) (i : StreamIx) : StreamTally := Table.get StreamTally.zero s.tallies.streams i.val

def State.setTally (s : State) (i : Nat) (t : StreamTally) : State :=
  s.withTallies { s.tallies with streams := Table.set StreamTally.zero s.tallies.streams i t }

def State.discardCount (s : State) (c : Cause) : BitVec 32 := s.tallies.discards.get c.ix

def State.setDiscardCount (s : State) (i : Fin 20) (v : BitVec 32) : State :=
  s.withTallies { s.tallies with discards := s.tallies.discards.set i.val v }

/-- Steps 2 and 3 of a discard: the cause's count, and the stream's frames discarded where the stream is known
(R189, R190). -/
def State.countDiscard (s : State) (c : Cause) (stream : Option StreamIx) : State :=
  let s1 := s.setDiscardCount c.ix (s.discardCount c + 1)
  match stream with
  | none => s1
  | some i => s1.setTally i.val { s1.tally i with framesDiscarded := (s1.tally i).framesDiscarded + 1 }

/-- A frame has completed on the trunk (R100, R191). -/
def State.countToTrunk (s : State) (stream : Option StreamIx) (octets : Nat) : State :=
  match stream with
  | none => s
  | some i =>
    s.setTally i.val
      { s.tally i with
        framesToTrunk := (s.tally i).framesToTrunk + 1
        octetsToTrunk := (s.tally i).octetsToTrunk + BitVec.ofNat 32 octets }

/-- A frame has joined an egress queue (R140, R191). -/
def State.countDelivered (s : State) (i : StreamIx) : State :=
  s.setTally i.val { s.tally i with framesDelivered := (s.tally i).framesDelivered + 1 }

/-! ## Releases and discards (R12, R14, R189) -/

/-- Returns a handle and its cells to the free stores (R12). -/
def State.freeHandle (s : State) (h : Nat) : State :=
  s.withBuf { s.buf with handles := Table.drop s.buf.handles h }

/-- Raises one release event (R13). -/
def State.raiseRelease (s : State) : State := s.withReleaseEvents (s.releaseEvents + 1)

/-- A release that ends a delivery (R12). -/
def State.release (s : State) (h : Nat) : State := (s.freeHandle h).raiseRelease

/-- A discard of a held frame without its release event (R189, R19). -/
def State.discardQuiet (s : State) (c : Cause) (h : Nat) : State := (s.freeHandle h).countDiscard c (s.streamOf h)

/-- A discard of a held frame (R189). -/
def State.discard (s : State) (c : Cause) (h : Nat) : State := (s.discardQuiet c h).raiseRelease

/-! ## One port, queue or context -/

def State.port (s : State) (p : Port) : PortState := s.ports.get p
def State.setPort (s : State) (p : Port) (v : PortState) : State := s.withPorts (s.ports.set p.val v)
def State.setIngress (s : State) (p : Port) (v : Ingress) : State := s.setPort p { s.port p with ingress := v }

def State.queue (s : State) (t : Tier) : TierQueue := s.queues.get t.ix
def State.setQueue (s : State) (t : Tier) (v : TierQueue) : State := s.withQueues (s.queues.set t.ix.val v)
def State.setMembers (s : State) (t : Tier) (l : List Nat) : State := s.setQueue t { s.queue t with members := l }

def State.context (s : State) (t : Tier) : Context := s.rx.contexts.get t.ix
def State.setContext (s : State) (t : Tier) (c : Context) : State :=
  s.withRx { s.rx with contexts := s.rx.contexts.set t.ix.val c }
def State.setFragment (s : State) (f : Option RxFragment) : State := s.withRx { s.rx with fragment := f }

/-- Symbols put on the trunk. -/
def State.sendTrunk (s : State) (l : List TrunkSymbol) : State :=
  s.withLine { s.line with sent := s.line.sent ++ l }

/-- The trunk falls back to IDLE: a run of IDLEs is written once (R111). -/
def State.trunkIdle (s : State) : State :=
  if s.line.sent.getLast? = some .idle then s else s.sendTrunk [.idle]

/-- Symbols put on a tributary line. -/
def State.sendTrib (s : State) (p : Port) (l : List TribSymbol) : State :=
  s.setPort p { s.port p with sent := (s.port p).sent ++ l }

/-- Octets as data symbols of the two lines. -/
def trunkData (l : List Byte) : List TrunkSymbol := l.map TrunkSymbol.data
def tribData (l : List Byte) : List TribSymbol := l.map TribSymbol.data

/-- The eight ports. -/
def allPorts : List Port := [0, 1, 2, 3, 4, 5, 6, 7]

/-! ## Stream table and allotment table entries -/

def State.stream (s : State) (i : Nat) : StreamEntry := Table.get StreamEntry.invalid s.streams i
def State.setStream (s : State) (i : Nat) (e : StreamEntry) : State :=
  s.withStreams (Table.set StreamEntry.invalid s.streams i e)

def State.record (s : State) (r : RecordIx) : AllotRecord := Table.get AllotRecord.powerOn s.metering.records r.val
def State.setRecord (s : State) (i : Nat) (r : AllotRecord) : State :=
  s.withMetering { s.metering with records := Table.set AllotRecord.powerOn s.metering.records i r }

def State.runtime (s : State) (i : Nat) : Runtime := Table.get .unmetered s.metering.runtimes i
def State.setRuntime (s : State) (i : Nat) (r : Runtime) : State :=
  s.withMetering { s.metering with runtimes := Table.set .unmetered s.metering.runtimes i r }

/-- The index of the valid entry that holds a tag (R26). -/
def findTag (tag : Tag) : List (Nat × StreamEntry) → Option StreamIx
  | [] => none
  | (j, e) :: m => if e.valid && decide (e.tag = tag) then some (Fin.ofNat 256 j) else findTag tag m

/-- Lookup by tag (R26). -/
def State.lookup (s : State) (tag : Tag) : Option StreamIx := findTag tag s.streams

end Sys2Proof.Machine
end

