-- ==== Sys2Proof/Machine/Queues.lean ====
section
/-! DEFINITION. The tier queues, selection and the fragments of the active frame (chapter 5), and what the
transmitter puts on the trunk (R111, R112). -/

namespace Sys2Proof.Machine

/-- The most urgent tier queue that is not empty (R91). -/
def State.mostUrgent (s : State) : Option Tier := Tier.all.find? fun t => decide ((s.queue t).members ≠ [])

/-- The head of queue `q` becomes the active frame and opens a first fragment: OPEN FIRST with the frame's tier,
then the declared length (R92, R86). -/
def State.openHead (s : State) (q : Tier) : State :=
  match (s.queue q).members with
  | [] => s
  | h :: rest =>
    match s.handle? h with
    | none => s
    | some r =>
      (((s.setMembers q rest).setHolder h .trunkActive).withTx
        { s.tx with
          mode := .sending, active := some h
          fragment := some { kind := .first, tier := r.tier, index := 0, carried := 0, closing := .none } }).sendTrunk
        ([.openFirst r.tier] ++ trunkData (count2 r.bodyLength))

/-- The top of the stack becomes the active frame with its resume hold set and opens a continuation fragment
(R93, R87). -/
def State.resumeTop (s : State) (h : Nat) (rest : List Nat) : State :=
  match s.handle? h with
  | none => s
  | some r =>
    ((s.setHandle h { r with holder := .trunkActive, resumeHold := true }).withTx
      { mode := .sending, active := some h, stack := rest
        fragment := some { kind := .next, tier := r.tier, index := r.nextIndex, carried := 0, closing := .none } }).sendTrunk
      [.openNext r.tier r.nextIndex]

/-- Nothing to send: no frame is active and the line sends IDLE (R91). -/
def State.goIdle (s : State) : State :=
  (s.withTx { s.tx with mode := .idle, active := none, fragment := none }).trunkIdle

/-- A selection (R91). -/
def State.select (s : State) : State :=
  match s.mostUrgent, s.tx.stack with
  | some q, [] => s.openHead q
  | some q, top :: rest => if q.moreUrgent (s.tierOf top) then s.openHead q else s.resumeTop top rest
  | none, top :: rest => s.resumeTop top rest
  | none, [] => s.goIdle

/-- A frame joins the tail of a tier queue and, with the transmitter IDLE, causes a selection (R79, R90). -/
def State.joinQueue (s : State) (t : Tier) (h : Nat) : State :=
  let s1 := (s.setMembers t ((s.queue t).members ++ [h])).setHolder h (.tierQueue t)
  if s1.tx.mode = .idle then s1.select else s1

/-- Admission of a stream frame to the queue of its tier (R80): whether it is admitted, and the state after. -/
def State.offerQueue (s : State) (t : Tier) (h : Nat) : Bool × State :=
  if (s.queue t).members.length < (s.queue t).limit then (true, s.joinQueue t h) else (false, s)

/-! ## Blocks and the cut (R94, R95) -/

/-- The cut check at a block boundary, on the active frame's record `r` and fragment `f` as steps 1 and 2 of R94
left them (R95). -/
def State.cutCheck (s : State) (r : Handle) (f : TxFragment) : Bool :=
  (Tier.all.any fun t => t.moreUrgent r.tier && decide ((s.queue t).members ≠ [])) &&
    decide (r.tier ≠ .t0) && !r.whole && decide (Config.minFragment ≤ f.carried) &&
    decide (Config.minFragment ≤ r.bodyLength - r.sentOffset) && !r.resumeHold

/-- Octets of the next block of a frame (R88). -/
def blockOctets (r : Handle) : Nat := min Config.blockSize (r.bodyLength - r.sentOffset)

/-- Steps 1 and 2 of R94 on the handle and the fragment record. -/
def afterBlock (r : Handle) (f : TxFragment) : Handle × TxFragment :=
  let n := blockOctets r
  ({ r with
      sentOffset := r.sentOffset + n
      resumeHold := r.resumeHold && decide (f.carried + n < Config.holdOctets) },
   { f with carried := f.carried + n })

/-- A data block of the active frame has been sent (R94).  With no fragment in progress, or once its closing is
decided, no block is being sent and nothing changes. -/
def State.blockSent (s : State) : State :=
  match s.tx.active, s.tx.fragment with
  | some h, some f =>
    match s.handle? h with
    | none => s
    | some r =>
      if f.closing = .none then
        let r1 := (afterBlock r f).1
        let f1 := (afterBlock r f).2
        let closing :=
          if r1.sentOffset = r1.bodyLength then Closing.last
          else if s.cutCheck r1 f1 then .more
          else .none
        ((s.setHandle h r1).withTx { s.tx with fragment := some { f1 with closing := closing } }).sendTrunk
          (trunkData (s.bodySlice r r.sentOffset r1.sentOffset))
      else s
  | _, _ => s

/-! ## Trailers and closes (R89, R96) -/

/-- The octets of a fragment before its fragment check: the declared length of a first fragment and its data
(R89, R112). -/
def State.fragmentOctets (s : State) (r : Handle) (f : TxFragment) : List Byte :=
  (match f.kind with
   | .first => count2 r.bodyLength
   | .next => []) ++ s.bodySlice r (r.sentOffset - f.carried) r.sentOffset

/-- The trailer and marker of a fragment that closes with MORE (R89). -/
def State.moreTrailer (s : State) (r : Handle) (f : TxFragment) : List TrunkSymbol :=
  trunkData (octets2 (fragmentCheck (s.fragmentOctets r f))) ++ [.closeMore]

/-- The trailer and marker of a fragment that closes with LAST (R89). -/
def State.lastTrailer (s : State) (r : Handle) (f : TxFragment) : List TrunkSymbol :=
  let check := octets4 (frameCheck (s.bodySlice r 0 r.bodyLength))
  trunkData (check ++ octets2 (fragmentCheck (s.fragmentOctets r f ++ check))) ++ [.closeLast]

/-- CLOSE MORE has been sent: the active frame joins the stack, and a selection follows (R89, R96). -/
def State.closeMoreSent (s : State) : State :=
  match s.tx.active, s.tx.fragment with
  | some h, some f =>
    match s.handle? h with
    | none => s
    | some r =>
      if f.closing = .more then
        (((s.sendTrunk (s.moreTrailer r f)).setHandle h
            { r with nextIndex := r.nextIndex + 1, holder := .trunkSuspended }).withTx
          { s.tx with active := none, fragment := none, stack := h :: s.tx.stack }).select
      else s
  | _, _ => s

/-- Steps 1 to 3 of R100 when CLOSE LAST has been sent: the stream tallies advance and the handle is released.
The selection of step 4 is made by the command, after the release event of step 3. -/
def State.completeActive (s : State) : Option State :=
  match s.tx.active, s.tx.fragment with
  | some h, some f =>
    match s.handle? h with
    | none => none
    | some r =>
      if f.closing = .last then
        some ((((s.sendTrunk (s.lastTrailer r f)).countToTrunk r.stream r.bodyLength).release h).withTx
          { s.tx with active := none, fragment := none })
      else none
  | _, _ => none

/-- CLEAR has been sent in a CLEARING period: a selection is made (R123, R105). -/
def State.clearSent (s : State) : State :=
  if s.tx.mode = .clearing then (s.sendTrunk [.clear]).select else s

/-! ## Trunk loss (R103, R104) -/

/-- A frame caught on the trunk by a loss goes back to the head of its tier's queue, sent from its beginning, or
is discarded at its third loss; the counts of returned and discarded frames advance (R103). -/
def returnFrame (acc : State × Nat × Nat) (h : Nat) : State × Nat × Nat :=
  let (s, back, gone) := acc
  match s.handle? h with
  | none => (s, back, gone)
  | some r =>
    if r.restartCount + 1 ≤ Config.maxRestarts then
      ((s.setMembers r.tier (h :: (s.queue r.tier).members)).setHandle h
          { r with
            restartCount := r.restartCount + 1, sentOffset := 0, nextIndex := 0, resumeHold := false
            holder := .tierQueue r.tier },
        back + 1, gone)
    else (s.discard .restartLimit h, back, gone + 1)

/-- What the transmitter does when the link leaves UP, with the counts it hands the trunk line (R103, R104). -/
def State.transmitterLoss (s : State) : State × Nat × Nat :=
  let frames := s.tx.active.toList ++ s.tx.stack
  frames.foldl returnFrame
    ((s.withTx { mode := .offline, active := none, fragment := none, stack := [] }), 0, 0)

end Sys2Proof.Machine
end

