-- ==== Sys2Proof/Machine/Notices.lean ====
section
/-! DEFINITION. The notice queue (chapter 9): raising, sending, resending, giving up and acknowledging notices,
and what the link state and the notice tag do to it. -/

namespace Sys2Proof.Machine

def NoticeRecord.isSent (r : NoticeRecord) : Bool :=
  match r.state with
  | .queued => false
  | .sent _ _ _ => true

/-- The two outside conditions of every send: the link is UP and the notice tag is not 0x0000 (R177). -/
def State.noticesOpen (s : State) : Bool := decide (s.line.link = .up) && decide (s.part.noticeTag ≠ 0)

/-- The conditions of a first send (R177). -/
def State.firstSendReady (s : State) : Bool :=
  s.noticesOpen && !(s.notices.records.any NoticeRecord.isSent) && decide (s.notices.records ≠ []) &&
    !s.notices.pending

/-- The 12 octets of a notice frame of a SENT record (R179, R202). -/
def State.noticeBody (s : State) (n : Notice) (sequence : Byte) (sends : Nat) (lost : Byte) : List Byte :=
  octets2 s.part.noticeTag ++
    [s.part.node.setWidth 8, sequence, noticeKindCode n, noticeSubject n] ++ noticeDetail n ++ [lost, count1 sends]

/-- Octets of a notice body (R179). -/
def noticeOctets : Nat := 12

/-- The lost-notice count advances by one and stays at 255 (R185). -/
def State.loseNotice (s : State) : State :=
  s.withNotices { s.notices with lost := min 255 (s.notices.lost + 1) }

/-- Claims a notice frame's handle and cell; when it is granted, makes the oldest record SENT with the sequence
number, sends and lost count given, starts the resend timer and puts the frame at the tail of the T0 queue; when
it is refused, sets the send pending mark and stops the timer (R178, R180). -/
def State.sendOldest (s : State) (sequence : Byte) (sends : Nat) (lost : Byte) (counter : Byte) : State :=
  match s.notices.records with
  | [] => s
  | r :: rest =>
    match s.claimCompound s.part.noticeTag noticeOctets with
    | none => s.withNotices { s.notices with pending := true, timer := .stopped }
    | some (h, s1) =>
      let s2 := s1.withNotices
        { s.notices with
          records := { r with state := .sent sequence sends lost } :: rest
          counter := counter, pending := false, timer := .running 0 }
      (s2.storeOctets h (s.noticeBody r.notice sequence sends lost)).joinQueue .t0 h

/-- A first send of the oldest record (R178). -/
def State.sendFirst (s : State) : State :=
  s.sendOldest s.notices.counter 1 (count1 s.notices.lost) (s.notices.counter + 1)

/-- A further frame of the SENT record (R180). -/
def State.resend (s : State) : State :=
  match s.notices.records with
  | { state := .sent sequence sends lost, .. } :: _ =>
    s.sendOldest sequence (sends + 1) lost s.notices.counter
  | _ => s

/-- A first send where the conditions of R177 hold. -/
def State.noticeAttempt (s : State) : State := if s.firstSendReady then s.sendFirst else s

/-- The notice queue's retry of a refused claim (R13, R178, R180): for a first send or a resend, while the link is
UP and the notice tag is not 0. -/
def State.noticeRetry (s : State) : State :=
  if s.notices.pending && s.noticesOpen then
    match s.notices.records with
    | [] => s
    | r :: _ => if r.isSent then s.resend else s.sendFirst
  else s

/-- Whether a record is QUEUED with the kind and subject of a notice (R175). -/
def NoticeRecord.coalesces (n : Notice) (r : NoticeRecord) : Bool := !r.isSent && r.notice.sameMatter n

/-- Replaces the detail of the QUEUED record of the same kind and subject (R175). -/
def coalesce (n : Notice) : List NoticeRecord → List NoticeRecord
  | [] => []
  | r :: rs => if r.coalesces n then { r with notice := n } :: rs else r :: coalesce n rs

/-- A block raises a notice (R175), and a first send is attempted where the raise makes one possible (R177). -/
def State.raiseNotice (s : State) (n : Notice) : State :=
  if s.notices.records.any (NoticeRecord.coalesces n) then
    s.withNotices { s.notices with records := coalesce n s.notices.records }
  else if Config.noticeSize ≤ s.notices.records.length then s.loseNotice
  else
    (s.withNotices
      { s.notices with records := s.notices.records ++ [{ notice := n, state := .queued }] }).noticeAttempt

/-- The resend timer stops counting, or resumes, as the link and the notice tag ask (R180, R184). -/
def State.syncTimer (s : State) : State :=
  match s.notices.timer with
  | .stopped => s
  | .running e => if s.noticesOpen then s else s.withNotices { s.notices with timer := .held e }
  | .held e => if s.noticesOpen then s.withNotices { s.notices with timer := .running e } else s

/-- The link has come UP, or the notice tag has become non-zero: a pending claim is retried, or else a first send
is attempted (R184). -/
def State.noticeResume (s : State) : State := if s.notices.pending then s.noticeRetry else s.noticeAttempt

/-- Removes the SENT record at the head of the queue and stops the timer (R181, R182). -/
def State.dropOldest (s : State) : State :=
  s.withNotices { s.notices with records := s.notices.records.tail, timer := .stopped, pending := false }

/-- The resend timer expires: a resend while sends is below 4, and the end of the record at 4 (R180, R181).  A
timer that is stopped or held does not expire. -/
def State.resendExpiry (s : State) : State :=
  match s.notices.timer, s.notices.records with
  | .running _, { state := .sent _ sends _, .. } :: _ =>
    if sends < Config.noticeSends then s.resend else s.dropOldest.loseNotice.noticeAttempt
  | _, _ => s

/-- The record an ACKNOWLEDGE names is the SENT record at the head (R182); its lost count carried, if so. -/
def State.acknowledged (s : State) (sequence : Byte) : Option Byte :=
  match s.notices.records with
  | { state := .sent q _ lost, .. } :: _ => if q = sequence then some lost else none
  | _ => none

/-- Removal by acknowledgement: the lost-notice count returns to 0 when the record carried a non-zero one (R182).
The first send of the next record is attempted later, after the reply. -/
def State.acknowledge (s : State) (lost : Byte) : State :=
  if lost = 0 then s.dropOldest
  else s.dropOldest.withNotices { s.dropOldest.notices with lost := 0 }

/-- A soft restart empties the queue and queues ANNOUNCE (SOFT); the counter and the lost count are kept (R186). -/
def State.restartNotices (s : State) : State :=
  s.withNotices
    { s.notices with
      records := [{ notice := .announce .soft s.part.node, state := .queued }]
      timer := .stopped, pending := false }

end Sys2Proof.Machine
end

