-- ==== Sys2Proof/Machine/Metering.lean ====
section
/-! DEFINITION. The allotment unit (chapter 4): loads, the charge of an upward frame, APPEND, the epoch, and the
action on a metering runtime when its stream entry is written (R31). -/

namespace Sys2Proof.Machine

/-- The runtime a load of record `r` gives (R60). -/
def State.loaded (s : State) (r : RecordIx) : Runtime :=
  .metered r (if (s.record r).budget = 0 then .unbounded else .octets (s.record r).budget.toNat)

/-- The runtime of a newly valid entry: METERED at its chain head, or UNMETERED without one (R31). -/
def State.freshRuntime (s : State) (e : StreamEntry) : Runtime :=
  if e.valid then
    match e.chainHead with
    | some r => s.loaded r
    | none => .unmetered
  else .unmetered

/-- The runtime after a write of its entry (R31): kept when a valid entry stays valid with its chain head, and
otherwise that of a newly valid or an invalid entry. -/
def State.rewrittenRuntime (s : State) (old new : StreamEntry) (rt : Runtime) : Runtime :=
  if old.valid && new.valid && decide (old.chainHead = new.chainHead) then rt else s.freshRuntime new

/-- The three outcomes of a charge (R61). -/
inductive ChargeOutcome where
  | fixed (t : Tier)
  | overbudget
  | chainEnd
  deriving DecidableEq, Repr

/-- The tier of a record, or the entry's base tier for KEEP (R61). -/
def recordTier (e : StreamEntry) (r : AllotRecord) : Tier := r.tier.getD e.baseTier

/-- The treatment of a frame of an exhausted stream (R67). -/
def endOutcome (e : StreamEntry) : ChargeOutcome :=
  match e.endAction with
  | .drop => .chainEnd
  | .demote => .fixed .t3

/-- The charge of a frame of `len` octets against stream `i` (R61 to R67). -/
def State.charge (s : State) (i : StreamIx) (len : Nat) : ChargeOutcome × State :=
  let e := s.stream i.val
  match s.runtime i.val with
  | .unmetered => (.fixed e.baseTier, s)
  | .metered c .unbounded => (.fixed (recordTier e (s.record c)), s)
  | .metered c (.octets left) =>
    if len ≤ left then
      (.fixed (recordTier e (s.record c)), s.setRuntime i.val (.metered c (.octets (left - len))))
    else
      match (s.record c).next with
      | some n =>
        match s.loaded n with
        | .metered m (.octets budget) =>
          if len ≤ budget then
            (.fixed (recordTier e (s.record n)), s.setRuntime i.val (.metered m (.octets (budget - len))))
          else (.overbudget, s.setRuntime i.val (.metered m (.octets budget)))
        | rt => (.fixed (recordTier e (s.record n)), s.setRuntime i.val rt)
      | none => (endOutcome e, (s.setRuntime i.val (.exhausted c)).raiseNotice (.chainEnd i c))
  | .exhausted _ => (endOutcome e, s)

/-- The handle of a frame whose tier is fixed: the tier, and whole copied from the entry (R61, R5). -/
def State.fixTier (s : State) (h : Nat) (i : StreamIx) (t : Tier) : State :=
  s.modHandle h fun r => { r with tier := t, whole := (s.stream i.val).whole }

/-- A runtime that is EXHAUSTED at record `r`. -/
def Runtime.exhaustedAt (r : RecordIx) : Runtime → Bool
  | .exhausted c => decide (c = r)
  | _ => false

/-- The streams an APPEND with tail `r` revives (R69, R70). -/
def State.revived (s : State) (r : RecordIx) : Nat :=
  (s.metering.runtimes.filter fun e => e.2.exhaustedAt r).length

/-- An APPEND that passes its judgement: the tail's next is set and every stream EXHAUSTED there is loaded with the
new record (R69). -/
def State.appendRecord (s : State) (r n : RecordIx) : State :=
  let s1 := s.setRecord r.val { s.record r with next := some n }
  s1.withMetering
    { s1.metering with
      runtimes := s1.metering.runtimes.map fun e => if e.2.exhaustedAt r then (e.1, s1.loaded n) else e }

/-- The chain head is loaded into the runtime of one entry, if it is valid with a head (R73). -/
def loadHead (s : State) (i : Nat) (e : StreamEntry) : State :=
  if e.valid then
    match e.chainHead with
    | some r => s.setRuntime i (s.loaded r)
    | none => s
  else s

/-- An epoch expiry: the chain head is loaded into the runtime of every valid entry that has one, and the timer
starts again from zero (R73).  With a period of 0 the timer is stopped and does not expire. -/
def State.epochExpiry (s : State) : State :=
  if s.part.epochPeriod = 0 then s
  else
    let s1 := s.streams.foldl (fun s e => loadHead s e.1 e.2) s
    s1.withMetering { s1.metering with epochElapsed := 0 }

/-- The runtimes and the epoch timer at a soft restart (R34, R78). -/
def State.restartMetering (s : State) : State :=
  let s1 := s.withMetering { s.metering with runtimes := [], epochElapsed := 0 }
  s1.streams.foldl (fun s e => loadHead s e.1 e.2) s1

end Sys2Proof.Machine
end

