-- ==== Sys2Proof/Machine/Ports.lean ====
section
/-! DEFINITION. The tributary ports' shared operations (chapter 3): the egress queue and its transmissions, and
the flushes a disable, a port reset and a soft restart make. -/

namespace Sys2Proof.Machine

/-! ## Egress (R51, R52) -/

/-- A routed frame joins the tail of the egress queue; into an empty queue it is the head, and its transmission
begins with OPEN (R51, R52). -/
def State.joinEgress (s : State) (p : Port) (h : Nat) : State :=
  let v := s.port p
  let s1 := (s.setPort p { v with egress := v.egress ++ [h] }).setHolder h (.egress p)
  if v.egress = [] then s1.sendTrib p [.opened] else s1

/-- What the egress has sent of a frame once its CLOSE END has been sent, after the OPEN: the body, the frame
check and CLOSE END (R52, R37). -/
def State.egressFrame (s : State) (r : Handle) : List TribSymbol :=
  let body := s.bodySlice r 0 r.bodyLength
  tribData (body ++ octets4 (frameCheck body)) ++ [.closeEnd]

/-- CLOSE END of the head frame has been sent: the handle is released as a completion, and the next head's
transmission begins, or the egress sends IDLE (R52). -/
def State.egressSent (s : State) (p : Port) : State :=
  match (s.port p).egress with
  | [] => s
  | h :: rest =>
    match s.handle? h with
    | none => s
    | some r =>
      ((s.setPort p { s.port p with egress := rest }).sendTrib p
        (s.egressFrame r ++ [if rest = [] then .idle else .opened])).release h

/-! ## Flushes

Inside an execution event the agent does not act on the release events of the discards it makes; a notice queue
with a refused claim retries on each (R20).  The releases of a soft restart raise none (R19). -/

/-- Discards frames with a cause; with `retry` each release serves the notice queue's retry. -/
def State.flushFrames (s : State) (c : Cause) (retry : Bool) : List Nat → State
  | [] => s
  | h :: hs =>
    let s1 := s.discardQuiet c h
    (if retry then s1.noticeRetry else s1).flushFrames c retry hs

/-- The ingress half of a port reset (R54). -/
def State.flushIngress (s : State) (p : Port) (retry : Bool) : State :=
  let s1 := s.setIngress p .idle
  match (s.port p).ingress with
  | .idle => s
  | .tagWait _ => s1.countDiscard .flush none
  | .receiving h _ => s1.flushFrames .flush retry [h]
  | .skipping => s1

/-- The egress half of a port reset: a frame in transmission ends with CLOSE ABORT, and every frame of the queue is
discarded in queue order (R54). -/
def State.flushEgress (s : State) (p : Port) (retry : Bool) : State :=
  match (s.port p).egress with
  | [] => s
  | hs => ((s.setPort p { s.port p with egress := [] }).sendTrib p [.closeAbort, .idle]).flushFrames .flush retry hs

/-- A port reset (R54); `retry` is false at a soft restart (R55). -/
def State.resetPort (s : State) (p : Port) (retry : Bool) : State := (s.flushIngress p retry).flushEgress p retry

/-- A WRITE of one port's enabled field (R39): set to clear discards the queued frames behind the head (R53). -/
def State.writeEnabled (s : State) (p : Port) (on : Bool) : State :=
  let v := s.port p
  if v.enabled && !on then
    (s.setPort p { v with enabled := false, egress := v.egress.take 1 }).flushFrames .portDisabled true (v.egress.drop 1)
  else s.setPort p { v with enabled := on }

end Sys2Proof.Machine
end

