-- ==== Sys2Proof/Machine/Restart.lean ====
section
/-! DEFINITION. The soft restart (R19): each block's part of it (R34, R55, R78, R107, R144, R170, R186), in the
order R19 gives.  Its releases raise no release events. -/

namespace Sys2Proof.Machine

/-- The transmitter and the tier queues: every member, the active frame and the stack are discarded with cause
FLUSH, the limits are kept, and the mode becomes CLEARING with the link UP and OFFLINE otherwise (R107). -/
def State.restartTransmitter (s : State) : State :=
  let frames := Tier.all.flatMap (fun t => (s.queue t).members) ++ s.tx.active.toList ++ s.tx.stack
  let s1 := Tier.all.foldl (fun s t => s.setMembers t []) s
  (s1.withTx
    { mode := if s.line.link = .up then .clearing else .offline
      active := none, fragment := none, stack := [] }).flushFrames .flush false frames

/-- One context: an OPEN one is discarded with cause FLUSH, and every one is CLOSED (R144). -/
def State.restartContext (s : State) (t : Tier) : State :=
  match s.context t with
  | .opened a =>
    match a.handle with
    | some h => (s.setContext t .closed).discardQuiet .flush h
    | none => (s.setContext t .closed).countDiscard .flush none
  | _ => s.setContext t .closed

/-- The receiver (R144). -/
def State.restartReceiver (s : State) : State :=
  (Tier.all.foldl State.restartContext s).setFragment none

/-- The agent: the requests behind the RESTART are discarded with cause FLUSH, the window is freed, the controller
records are cleared and the reset cause becomes SOFT (R170 steps 1 to 4; the requester's record is set with every
answer's). -/
def State.restartAgent (s : State) : State :=
  let s1 := (s.withAgent
    { s.agent with inbox := s.agent.inbox.take 1, window := none, records := Vector.replicate 4 none }).flushFrames
      .flush false (s.agent.inbox.drop 1)
  s1.withPart { s1.part with cause := .soft }

/-- A soft restart, up to the writing of its reply (R19, R170). -/
def State.softRestart (s : State) : State :=
  let ports := allPorts.foldl (fun s p => s.resetPort p false) s
  (ports.restartTransmitter.restartReceiver.restartAgent).restartMetering.restartNotices

end Sys2Proof.Machine
end

