-- ==== Sys2Proof/Machine/Agent.lean ====
section
/-! DEFINITION. The management agent (chapter 8): what each window entry reads as, the judgement of a request, its
carrying out, the reply, the attempt on the head of the inbox, and the release events that the agent and the
notice queue act on (R13). -/

namespace Sys2Proof.Machine

/-! ## Entries as READ returns them (R204, R205) -/

def Ingress.busy : Ingress → Bool
  | .idle => false
  | _ => true

/-- The octets of a runtime: state, cursor, remaining budget (R35, R205). -/
def runtimeOctets : Runtime → List Byte
  | .unmetered => [0x00] ++ octets2 0 ++ octets3 0
  | .metered c .unbounded => [0x01] ++ octets2 (BitVec.ofNat 16 c.val) ++ octets3 0
  | .metered c (.octets n) => [0x01] ++ octets2 (BitVec.ofNat 16 c.val) ++ octets3 (BitVec.ofNat 24 n)
  | .exhausted c => [0x02] ++ octets2 (BitVec.ofNat 16 c.val) ++ octets3 0

/-- The unbounded mark of a runtime (R35). -/
def Runtime.unboundedMark : Runtime → Bool
  | .metered _ .unbounded => true
  | _ => false

/-- The flags octet of a STREAM entry (R204). -/
def streamFlags (e : StreamEntry) (rt : Runtime) : Byte :=
  BitVec.ofNat 8 (e.valid.toNat + 2 * e.whole.toNat + 4 * rt.unboundedMark.toNat)

/-- A STREAM entry (R204). -/
def streamOctets (e : StreamEntry) (rt : Runtime) : List Byte :=
  [streamFlags e rt] ++ octets2 e.tag ++
    [BitVec.ofNat 8 e.port.val, tierCode e.baseTier, endActionCode e.endAction] ++
    octets2 (recordCode e.chainHead) ++ runtimeOctets rt

/-- An ALLOT entry (R204). -/
def allotOctets (r : AllotRecord) : List Byte :=
  octets3 r.budget ++
    [match r.tier with
     | some t => tierCode t
     | none => 0x04] ++ octets2 (recordCode r.next)

/-- A STREAM_TALLY entry (R194, R204). -/
def tallyOctets (t : StreamTally) : List Byte :=
  octets4 t.framesToTrunk ++ octets4 t.octetsToTrunk ++ octets4 t.framesDelivered ++ octets4 t.framesDiscarded

/-- The entry of a table at an index, as it stands (R161, R204). -/
def State.entryOctets (s : State) (t : TableName) (i : Nat) : List Byte :=
  match t with
  | .stream => streamOctets (s.stream i) (s.runtime i)
  | .allot => allotOctets (Table.get AllotRecord.powerOn s.metering.records i)
  | .streamTally => tallyOctets (Table.get StreamTally.zero s.tallies.streams i)
  | .tier =>
    let q := s.queue (Tier.ofIx (Fin.ofNat 4 i))
    count2 q.limit ++ count2 q.members.length
  | .port =>
    let v := s.port (Fin.ofNat 8 i)
    [flagCode v.enabled, flagCode v.ingress.busy, count1 v.egress.length]
  | .part =>
    octets2 s.part.epochPeriod ++ octets2 s.part.noticeTag ++
      [s.part.node.setWidth 8, causeCode s.part.cause, linkCode s.line.link]
  | .discard => octets4 (s.tallies.discards.get (Fin.ofNat 20 i))
  | .notices =>
    match s.notices.records[i]? with
    | some r => noticeEntry r
    | none => [0, 0, 0, 0, 0, 0, 0, 0]

/-- The window holder and table codes of STATUS (R168, R199). -/
def windowCodes : Option Window → List Byte
  | none => [0xFF, 0x00]
  | some w => [BitVec.ofNat 8 w.holder.val, tableCode w.table]

/-- The 23 octets of a STATUS payload (R168, R201). -/
def State.statusPayload (s : State) : List Byte :=
  [linkCode s.line.link] ++ count2 s.freeHandles ++ count2 s.freeCells ++
    Tier.all.flatMap (fun t => count2 (s.queue t).members.length) ++
    [count1 s.tx.stack.length] ++ Tier.all.map (fun t => contextCode (s.context t)) ++
    [count1 s.agent.inbox.length] ++ windowCodes s.agent.window ++
    [count1 s.notices.records.length, s.part.node.setWidth 8]

/-! ## Judgement (R150 steps 1 to 3) -/

/-- The entries of a WRITE that has passed its table's validation. -/
inductive Written where
  | streams (l : List StreamEntry)
  | allots (l : List AllotRecord)
  | tallies (l : List StreamTally)
  | tiers (l : List Nat)
  | ports (l : List Bool)
  | parts (l : List (BitVec 16 × Tag))
  | discards (l : List (BitVec 32))
  deriving DecidableEq, Repr

/-- What a request judged DONE does. -/
inductive Effect where
  | select (table : TableName) (base : Nat)
  | release
  | read (table : TableName) (first count : Nat)
  | write (first : Nat) (w : Written)
  | append (tail new : RecordIx)
  | acknowledge (lost : Byte)
  | status
  | restart
  | portReset (p : Port)
  deriving DecidableEq, Repr

/-- The answer of an executed request: DONE with an effect, INVALID_ENTRY with an index, or another status. -/
inductive Answer where
  | done (e : Effect)
  | invalid (index : Nat)
  | refuse (st : Status)
  deriving DecidableEq, Repr

def Answer.status : Answer → Status
  | .done _ => .done
  | .invalid _ => .invalidEntry
  | .refuse st => st

/-- The octets of a reply's payload (R155). -/
def Answer.payloadLength : Answer → Nat
  | .done (.read t _ count) => 2 + count * entrySize t
  | .done .status => 23
  | .done (.append _ _) => 2
  | .done _ => 0
  | .invalid _ => 2
  | .refuse _ => 0

/-- Whether two tags of a list are the same (R24). -/
def hasRepeat : List Tag → Bool
  | [] => false
  | t :: ts => ts.contains t || hasRepeat ts

/-- The tags of the valid entries of a stream table. -/
def validTags (m : List (Nat × StreamEntry)) : List Tag := m.filterMap fun e => if e.2.valid then some e.2.tag else none

/-- The stream table with entries written from an index on (R24). -/
def overwrite (m : List (Nat × StreamEntry)) (i : Nat) : List StreamEntry → List (Nat × StreamEntry)
  | [] => m
  | e :: es => overwrite (Table.set StreamEntry.invalid m i e) (i + 1) es

/-- Validation by the owning table (R162 step 6, R163). -/
def State.validate (s : State) (t : TableName) (first count : Nat) (data : List Byte) : Answer :=
  let ls := chunks (entrySize t) count data
  match t with
  | .stream =>
    match parseAll parseStream first ls with
    | .error i => .invalid i
    | .ok es =>
      if hasRepeat (validTags (overwrite s.streams first es)) then .refuse .duplicateTag
      else .done (.write first (.streams es))
  | .allot =>
    match parseAll parseAllot first ls with
    | .error i => .invalid i
    | .ok es => .done (.write first (.allots es))
  | .streamTally =>
    match parseAll parseTally first ls with
    | .error i => .invalid i
    | .ok es => .done (.write first (.tallies es))
  | .tier =>
    match parseAll parseTier first ls with
    | .error i => .invalid i
    | .ok es => .done (.write first (.tiers es))
  | .port =>
    match parseAll parsePort first ls with
    | .error i => .invalid i
    | .ok es => .done (.write first (.ports es))
  | .part =>
    match parseAll parsePart first ls with
    | .error i => .invalid i
    | .ok es => .done (.write first (.parts es))
  | .discard =>
    match parseAll parseDiscard first ls with
    | .error i => .invalid i
    | .ok es => .done (.write first (.discards es))
  | .notices => .refuse .readOnly

/-- The range test of READ and WRITE: the count within 1 to `most`, and the span within the window and the table
(R161 step 3, R162 step 4). -/
def rangeOk (w : Window) (offset count most : Nat) : Bool :=
  decide (1 ≤ count) && decide (count ≤ most) && decide (offset + count ≤ Config.windowSpan) &&
    decide (w.base + offset + count - 1 < tableEntries w.table)

/-- The judgement of a request that is neither malformed nor repeated (R159 to R162, R69, R166 to R170). -/
def State.judge (s : State) (q : Request) : Answer :=
  match q.op with
  | .select t base =>
    if tableEntries t ≤ base then .refuse .range
    else
      match s.agent.window with
      | none => .done (.select t base)
      | some w => if w.holder = q.controller then .done (.select t base) else .refuse .windowHeld
  | .release =>
    match s.agent.window with
    | none => .refuse .notHolder
    | some w => if w.holder = q.controller then .done .release else .refuse .notHolder
  | .read offset count =>
    match s.agent.window with
    | none => .refuse .noWindow
    | some w =>
      if w.holder ≠ q.controller then .refuse .windowHeld
      else if rangeOk w offset count Config.readMax then .done (.read w.table (w.base + offset) count)
      else .refuse .range
  | .write offset count data =>
    match s.agent.window with
    | none => .refuse .noWindow
    | some w =>
      if w.holder ≠ q.controller then .refuse .windowHeld
      else if w.table = .notices then .refuse .readOnly
      else if rangeOk w offset count Config.writeMax then
        if data.length < count * entrySize w.table then .refuse .badRequest
        else s.validate w.table (w.base + offset) count data
      else .refuse .range
  | .append r n =>
    if hr : r < 1024 then
      if hn : n < 1024 then
        match (s.record ⟨r, hr⟩).next with
        | some _ => .refuse .chainNotEnd
        | none => .done (.append ⟨r, hr⟩ ⟨n, hn⟩)
      else .refuse .range
    else .refuse .range
  | .acknowledge sequence =>
    match s.acknowledged sequence with
    | some lost => .done (.acknowledge lost)
    | none => .refuse .notFound
  | .status => .done .status
  | .restart => .done .restart
  | .portReset p => if hp : p < 8 then .done (.portReset ⟨p, hp⟩) else .refuse .range

/-- What an attempt makes of the head request: malformed, answered from the repeat filter, or executed. -/
inductive Verdict where
  | malformed
  | repeated (st : Status)
  | fresh (q : Request) (a : Answer)
  deriving DecidableEq, Repr

/-- Decoding, the repeat filter and the judgement (R150 steps 1 to 3, R154, R156). -/
def State.verdict (s : State) (body : List Byte) : Verdict :=
  match decodeRequest body with
  | none => .malformed
  | some q =>
    match s.agent.records.get q.controller with
    | some r =>
      if !q.op.unfiltered && decide (r.number = q.number) then .repeated r.status
      else .fresh q (s.judge q)
    | none => .fresh q (s.judge q)

def Verdict.status : Verdict → Status
  | .malformed => .badRequest
  | .repeated st => st
  | .fresh _ a => a.status

def Verdict.payloadLength : Verdict → Nat
  | .fresh _ a => a.payloadLength
  | _ => 0

def Verdict.isRepeat : Verdict → Bool
  | .repeated _ => true
  | _ => false

/-! ## Carrying out (R151 step 1, R163) -/

/-- One STREAM entry written: the entry, then its metering runtime (R25, R31). -/
def State.writeStreamEntry (s : State) (i : Nat) (e : StreamEntry) : State :=
  (s.setStream i e).setRuntime i (s.rewrittenRuntime (s.stream i) e (s.runtime i))

/-- The effect of one written PART entry: both fields, the epoch timer from zero, and the resend timer held or
resumed with the notice tag (R164, R74, R184). -/
def State.writePart (s : State) (period : BitVec 16) (tag : Tag) : State :=
  ((s.withPart { s.part with epochPeriod := period, noticeTag := tag }).withMetering
    { s.metering with epochElapsed := 0 }).syncTimer

/-- Applies a write of one entry to each of the entries from an index on. -/
def writeFrom {α : Type} (f : State → Nat → α → State) (s : State) (i : Nat) : List α → State
  | [] => s
  | a :: as => writeFrom f (f s i a) (i + 1) as

/-- The writing of validated entries from a table index on (R163). -/
def State.writeEntries (s : State) (first : Nat) : Written → State
  | .streams l => writeFrom State.writeStreamEntry s first l
  | .allots l => writeFrom State.setRecord s first l
  | .tallies l => writeFrom State.setTally s first l
  | .tiers l =>
    writeFrom (fun s i n =>
      let t := Tier.ofIx (Fin.ofNat 4 i)
      s.setQueue t { s.queue t with limit := n }) s first l
  | .ports l => writeFrom (fun s i on => s.writeEnabled (Fin.ofNat 8 i) on) s first l
  | .parts l => writeFrom (fun s _ v => s.writePart v.1 v.2) s first l
  | .discards l => writeFrom (fun s i v => s.setDiscardCount (Fin.ofNat 20 i) v) s first l

/-- Carries out a request judged DONE; answers the payload of its reply (R151 step 1, R155). -/
def State.carryOut (s : State) (c : Controller) : Effect → State × List Byte
  | .select t base => (s.withAgent { s.agent with window := some { holder := c, table := t, base := base, idle := 0 } }, [])
  | .release => (s.withAgent { s.agent with window := none }, [])
  | .read t first count =>
    (s, count2 first ++ (List.range' first count).flatMap fun i => s.entryOctets t i)
  | .write first w => (s.writeEntries first w, [])
  | .append r n => (s.appendRecord r n, count2 (s.revived r))
  | .acknowledge lost => (s.acknowledge lost, [])
  | .status => (s, s.statusPayload)
  | .restart => (s.softRestart, [])
  | .portReset p => (s.resetPort p true, [])

/-- Step 1 of R151 for any verdict. -/
def State.carryVerdict (s : State) : Verdict → State × List Byte
  | .fresh q (.done e) => s.carryOut q.controller e
  | .fresh _ (.invalid i) => (s, count2 i)
  | _ => (s, [])

/-- Step 2 of R151: the controller's record, for every executed request whose answer is not BAD_REQUEST (R154,
R156). -/
def State.recordAnswer (s : State) : Verdict → State
  | .fresh q a =>
    if a.status = .badRequest then s
    else
      s.withAgent
        { s.agent with records := s.agent.records.set q.controller.val (some { number := q.number, status := a.status }) }
  | _ => s

/-- Step 3 of R151: the idle timer restarts when the controller octet names the holder (R158). -/
def State.touchWindow (s : State) (controller : Byte) : State :=
  match s.agent.window with
  | none => s
  | some w =>
    if controller.toNat = w.holder.val then s.withAgent { s.agent with window := some { w with idle := 0 } } else s

/-- A reply body (R155, R201). -/
def State.replyBody (s : State) (body : List Byte) (v : Verdict) (payload : List Byte) : List Byte :=
  octets2 (word16At body 2) ++
    [s.part.node.setWidth 8, octetAt body 4, octetAt body 5, octetAt body 6, statusCode v.status, flagCode v.isRepeat] ++
    payload

/-- What the notice queue does after the reply has joined the T0 queue (R177): it attempts a first send after an
acknowledgement or a restart, and resumes after a write that took the notice tag from 0 to another value (R184).
`before` is the notice tag as it stood before the request. -/
def State.noticesAfterReply (s : State) (before : Tag) : Verdict → State
  | .fresh _ (.done (.acknowledge _)) => s.noticeAttempt
  | .fresh _ (.done .restart) => s.noticeAttempt
  | .fresh _ (.done (.write _ (.parts _))) =>
    if before = 0 ∧ s.part.noticeTag ≠ 0 then s.noticeResume else s
  | _ => s

/-- Step 5 of R151: the request's handle is released; the release event finds the agent IDLE and may serve the
notice queue. -/
def State.releaseRequest (s : State) (h : Nat) : State :=
  ((s.withAgent { s.agent with state := .idle, inbox := s.agent.inbox.tail }).freeHandle h).noticeRetry

/-- The answer of the head request `h` with its reply claim granted as handle `r` (R151). -/
def State.answer (s : State) (h r : Nat) (body : List Byte) (v : Verdict) : State :=
  let done := s.carryVerdict v
  let s1 := (done.1.recordAnswer v).touchWindow (octetAt body 4)
  let s2 := (s1.storeOctets r (s1.replyBody body v done.2)).joinQueue .t0 r
  (s2.noticesAfterReply s.part.noticeTag v).releaseRequest h

/-- Octets of a reply body (R155). -/
def Verdict.replyLength (v : Verdict) : Nat := 8 + v.payloadLength

/-- An attempt on the head request (R150). -/
def State.attempt (s : State) : State :=
  match s.agent.inbox with
  | [] => s
  | h :: _ =>
    let body := s.bodyOf h
    let v := s.verdict body
    match s.claimCompound (word16At body 2) v.replyLength with
    | none => s.withAgent { s.agent with state := .waiting }
    | some (r, s1) => s1.answer h r body v

/-! ## Release events (R13) -/

/-- One release event: the agent's retry first; then, unless that retry was refused, the notice queue's. -/
def State.releaseEvent (s : State) : State :=
  if s.agent.state = .waiting then
    let s1 := s.attempt
    if s1.agent.state = .waiting then s1 else s1.noticeRetry
  else s.noticeRetry

def State.releaseEventsTaken (s : State) : Nat → State
  | 0 => s
  | n + 1 => s.releaseEvent.releaseEventsTaken n

/-- Takes the release events an event has raised (R13). -/
def State.settle (s : State) : State := (s.withReleaseEvents 0).releaseEventsTaken s.releaseEvents

/-! ## The inbox (R139, R148, R149) -/

/-- A completed management-addressed frame is offered to the inbox; a request that joins an empty inbox with the
agent IDLE is attempted at once. -/
def State.offerInbox (s : State) (h : Nat) : State :=
  if Config.inboxSize ≤ s.agent.inbox.length then s.discard .inboxFull h
  else
    let s1 := (s.setHolder h .inbox).withAgent { s.agent with inbox := s.agent.inbox ++ [h] }
    if s.agent.inbox = [] ∧ s.agent.state = .idle then s1.attempt else s1

/-- A whole request frame of tier `t` with body `body` comes to the inbox: its management claims (R9), the storing
of its body (R6), and the offer (R139), as the receiver makes them.  DESIGN CHOICE (notes/assumptions/6.md): the
request commands stand for this one event at the agent, whatever the link state. -/
def State.deliverRequest (s : State) (t : Tier) (body : List Byte) : State :=
  if body.length < Config.minBody ∨ Config.maxBody < body.length then s.countDiscard .frameCheck none
  else
    match s.claimHandle true (.reassembly t) (word16At body 0) t none with
    | none => s.countDiscard .noHandle none
    | some (h, s1) =>
      match s1.appendOctets true h body with
      | (false, s2) => s2.discard .noCell h
      | (true, s2) => s2.offerInbox h

end Sys2Proof.Machine
end

