-- ==== Sys2Proof/Machine/Receive.lean ====
section
/-! DEFINITION. Trunk reception and reassembly (chapter 7): what the receiver does with each symbol the trunk line
hands it.  The link state machine that decides which symbols it is handed is in Machine/Link.lean. -/

namespace Sys2Proof.Machine

/-! ## Contexts -/

def Context.isOpen : Context → Bool
  | .opened _ => true
  | _ => false

def Context.isDiscarding : Context → Bool
  | .discarding _ => true
  | _ => false

/-- The frame of an OPEN context is discarded: with its handle, if it holds one (R189). -/
def State.discardAssembly (s : State) (c : Cause) (a : Assembly) : State :=
  match a.handle with
  | some h => s.discard c h
  | none => s.countDiscard c none

/-- A STORING fragment of tier `t` becomes TRACKING (R128). -/
def State.trackFragment (s : State) (t : Tier) : State :=
  match s.rx.fragment with
  | some f => if f.tier = t ∧ f.mode = .storing then s.setFragment (some { f with mode := .tracking }) else s
  | none => s

/-- An OPEN context enters DISCARDING with a cause: its frame is discarded, and a STORING fragment of it becomes
TRACKING (R127, R128). -/
def State.giveUp (s : State) (t : Tier) (c : Cause) : State :=
  match s.context t with
  | .opened a =>
    ((s.setContext t
        (.discarding { tag := a.tag, declared := a.declared, expected := a.expected, mgmt := a.mgmt, cause := c })).trackFragment
      t).discardAssembly c a
  | _ => s

/-- The frame of an OPEN context is discarded and the context becomes CLOSED; a DISCARDING one closes without
counting (R127, R141, R142). -/
def State.abandon (s : State) (c : Cause) (t : Tier) : State :=
  match s.context t with
  | .opened a => (s.setContext t .closed).discardAssembly c a
  | .discarding _ => s.setContext t .closed
  | .closed => s

/-- Every context is abandoned and the fragment record cleared (R141, R142). -/
def State.abandonAll (s : State) (c : Cause) : State := (Tier.all.foldl (fun s t => s.abandon c t) s).setFragment none

/-- The number of OPEN contexts (R142). -/
def State.openContexts (s : State) : Nat := (Tier.all.filter fun t => (s.context t).isOpen).length

/-- The expected next index advances by one, modulo 8 (R137, R138). -/
def State.advanceIndex (s : State) (t : Tier) : State :=
  match s.context t with
  | .opened a => s.setContext t (.opened { a with expected := a.expected + 1 })
  | .discarding g => s.setContext t (.discarding { g with expected := g.expected + 1 })
  | .closed => s

/-! ## Framing slips (R130) -/

/-- A slip inside an open fragment: a STORING fragment's context goes DISCARDING with cause FRAGMENT_CHECK, and the
record is cleared. -/
def State.slip (s : State) : State :=
  match s.rx.fragment with
  | none => s
  | some f =>
    match f.mode with
    | .storing => (s.giveUp f.tier .fragmentCheck).setFragment none
    | _ => s.setFragment none

/-! ## Opening markers -/

/-- The tiers strictly more urgent than `t`. -/
def moreUrgentThan (t : Tier) : List Tier := Tier.all.filter fun u => u.moreUrgent t

/-- The nesting check and the silent close of more urgent DISCARDING contexts (R131 steps 1 and 2, R134 steps 1 and
2). -/
def State.nestingCheck (s : State) (t : Tier) : State :=
  let s1 := (moreUrgentThan t).foldl (fun s u => s.abandon .sequence u) s
  if (moreUrgentThan t).any fun u => (s.context u).isOpen then s1.raiseNotice (.sequenceFault t .nesting) else s1

/-- A reopen: the old frame of an OPEN context is discarded with cause SEQUENCE and reported; a DISCARDING context
closes (R131 step 3). -/
def State.reopenCheck (s : State) (t : Tier) : State :=
  let s1 := s.abandon .sequence t
  if (s.context t).isOpen then s1.raiseNotice (.sequenceFault t .reopen) else s1

/-- The fragment record of a new fragment (R131, R133, R134). -/
def newFragment (t : Tier) (k : FragKind) (m : RxMode) : RxFragment :=
  { tier := t, kind := k, mode := m, header := [], hold := [], check := fragmentStart }

/-- Context `t` opens for a new frame (R131 step 4). -/
def State.openContext (s : State) (t : Tier) : State :=
  (s.setContext t
    (.opened { handle := none, tag := none, declared := none, received := 0, expected := 0, mgmt := false })).setFragment
    (some (newFragment t .first .storing))

/-- OPEN FIRST(t) at the receiver (R131). -/
def State.receiveOpenFirst (s : State) (t : Tier) : State :=
  ((s.slip.nestingCheck t).reopenCheck t).openContext t

/-- The index check of a continuation (R134 step 3). -/
def State.indexCheck (s : State) (t : Tier) (i : FragIx) : State :=
  match s.context t with
  | .opened a =>
    if a.expected = i then s
    else
      let s1 := s.giveUp t .sequence
      let s2 :=
        match s1.context t with
        | .discarding g => s1.setContext t (.discarding { g with expected := i })
        | _ => s1
      s2.raiseNotice (.sequenceFault t .gap)
  | .discarding g => s.setContext t (.discarding { g with expected := i })
  | .closed => s

/-- The mode of a continuation of context `t` (R134 step 4). -/
def State.nextMode (s : State) (t : Tier) : RxMode := if (s.context t).isOpen then .storing else .tracking

/-- OPEN NEXT(t, i) at the receiver (R133, R134). -/
def State.receiveOpenNext (s : State) (t : Tier) (i : FragIx) : State :=
  let s0 := s.slip
  match s0.context t with
  | .closed => (s0.raiseNotice (.sequenceFault t .orphan)).setFragment (some (newFragment t .next .ignored))
  | _ =>
    let s1 := (s0.nestingCheck t).indexCheck t i
    s1.setFragment (some (newFragment t .next (s1.nextMode t)))

/-! ## Data -/

/-- A data octet is stored in the OPEN context of its fragment, or sends it to DISCARDING (R135). -/
def State.storeData (s : State) (t : Tier) (b : Byte) : State :=
  match s.context t with
  | .opened a =>
    match a.handle, a.declared with
    | some h, some d =>
      if a.received = d then s.giveUp t .frameCheck
      else
        match s.appendOctet a.mgmt h b with
        | none => s.giveUp t .noCell
        | some s1 => s1.setContext t (.opened { a with received := a.received + 1 })
    | _, _ => s
  | _ => s

/-- The declared length has arrived (R132, second octet). -/
def State.headerLength (s : State) (t : Tier) (d : Nat) : State :=
  if d < Config.minBody ∨ Config.maxBody < d then s.giveUp t .frameCheck
  else
    match s.context t with
    | .opened a => s.setContext t (.opened { a with declared := some d })
    | _ => s

/-- The tag has arrived with the context OPEN (R132, fourth octet): the management flag, the handle claim and the
first cell claim of its kind. -/
def State.headerTag (s : State) (t : Tier) (tag : Tag) : State :=
  match s.context t with
  | .opened a =>
    let mgmt := addressesPart s.part.node tag
    let s0 := s.setContext t (.opened { a with tag := some tag, mgmt := mgmt })
    match s0.claimHandle mgmt (.reassembly t) tag t none with
    | none => s0.giveUp t .noHandle
    | some (h, s1) =>
      match s1.appendOctets mgmt h (octets2 tag) with
      | (false, s2) =>
        (s2.setContext t (.opened { a with tag := some tag, mgmt := mgmt, handle := some h })).giveUp t .noCell
      | (true, s2) =>
        s2.setContext t (.opened { a with tag := some tag, mgmt := mgmt, handle := some h, received := 2 })
  | _ => s

/-- A header octet of a FIRST fragment (R132). -/
def State.headerOctet (s : State) (f : RxFragment) (b : Byte) : State :=
  let f1 := { f with header := f.header ++ [b], check := checkOctet fragmentGenerator f.check b }
  let s1 := s.setFragment (some f1)
  if f.mode = .storing then
    match f1.header with
    | [a, b] => s1.headerLength f.tier (word16 a b).toNat
    | [_, _, c, d] => s1.headerTag f.tier (word16 c d)
    | _ => s1
  else s1

/-- A data octet at the receiver (R129, R132, R135). -/
def State.receiveData (s : State) (b : Byte) : State :=
  match s.rx.fragment with
  | none => s
  | some f =>
    if f.kind = .first ∧ f.header.length < 4 then s.headerOctet f b
    else
      match f.hold with
      | [] => s.setFragment (some { f with hold := [b] })
      | oldest :: rest =>
        if f.hold.length < Config.trunkHold then s.setFragment (some { f with hold := f.hold ++ [b] })
        else
          let s1 := s.setFragment
            (some { f with hold := rest ++ [b], check := checkOctet fragmentGenerator f.check oldest })
          if f.mode = .storing then s1.storeData f.tier oldest else s1

/-! ## Closing markers -/

/-- The fragment check of an open fragment with `least` octets needed in the hold-back (R136): the last 2 octets of
the hold-back equal the check over the fragment's other octets. -/
def RxFragment.checks (f : RxFragment) (least : Nat) : Bool :=
  decide (least ≤ f.hold.length) && (decide (f.kind = .next) || decide (f.header.length = 4)) &&
    decide (octets2 (fragmentCheckFrom f.check (f.hold.take (f.hold.length - 2))) = f.hold.drop (f.hold.length - 2))

/-- Held octets that a CLOSE MORE shows to be data are stored in order; once one fails its test the rest are
disregarded (R137). -/
def State.storeHeld (s : State) (t : Tier) : List Byte → State
  | [] => s
  | b :: bs => (s.storeData t b).storeHeld t bs

/-- CLOSE MORE at the receiver (R137). -/
def State.receiveCloseMore (s : State) : State :=
  match s.rx.fragment with
  | none => s
  | some f =>
    match f.mode, f.checks 2 with
    | .storing, true =>
      ((s.storeHeld f.tier (f.hold.take (f.hold.length - 2))).advanceIndex f.tier).setFragment none
    | .storing, false => (s.giveUp f.tier .fragmentCheck).setFragment none
    | .tracking, true => (s.advanceIndex f.tier).setFragment none
    | .tracking, false => s.setFragment none
    | .ignored, _ => s.setFragment none

/-- Routing by stream entry (R140). -/
def State.routeStream (s : State) (h : Nat) (tag : Tag) : State :=
  match s.lookup tag with
  | none => s.discard .unknownTag h
  | some i =>
    let s1 := s.modHandle h fun r => { r with stream := some i }
    let p := (s.stream i.val).port
    if (s.port p).enabled then
      if (s.port p).egress.length < Config.egressSize then (s1.joinEgress p h).countDelivered i
      else s1.discard .egressFull h
    else s1.discard .portDisabled h

/-- A completed frame is tested and routed, with its context already CLOSED (R138 step 4, R139, R140).  `check` is
the frame check the fragment carried. -/
def State.completeFrame (s : State) (a : Assembly) (check : List Byte) : State :=
  match a.handle with
  | none => s.countDiscard .frameCheck none
  | some h =>
    if check = octets4 (frameCheck (s.bodyOf h)) ∧ a.declared = some a.received then
      if a.mgmt then s.offerInbox h else s.routeStream h (a.tag.getD 0)
    else s.discard .frameCheck h

/-- CLOSE LAST at the receiver (R138). -/
def State.receiveCloseLast (s : State) : State :=
  match s.rx.fragment with
  | none => s
  | some f =>
    match f.mode with
    | .ignored => s.setFragment none
    | _ =>
      let s1 := if f.mode = .storing ∧ f.checks 6 = false then s.giveUp f.tier .fragmentCheck else s
      let s2 := (s1.setContext f.tier .closed).setFragment none
      match s1.context f.tier with
      | .opened a => s2.completeFrame a (f.hold.take 4)
      | _ => s2

/-- CLEAR at the receiver (R141). -/
def State.receiveClear (s : State) : State := s.abandonAll .cleared

end Sys2Proof.Machine
end

