-- ==== Sys2Proof/Machine/Link.lean ====
section
/-! DEFINITION. The trunk line (chapter 6): the link state machine, the events of leaving and reaching UP, and the
trunk commands. -/

namespace Sys2Proof.Machine

/-- The link leaves UP (R120): the transmitter and the receiver act and hand back their counts, which become the
loss counts, the notice queue holds its timer, and the line sends IDLE. -/
def State.leaveUp (s : State) : State :=
  let s0 := s.withLine { s.line with link := .down, idleRun := 0, invalidRun := 0 }
  let lost := s0.transmitterLoss
  let contexts := lost.1.openContexts
  let s1 := lost.1.abandonAll .trunkDown
  let s2 := s1.withLine { s1.line with returned := lost.2.1, discarded := lost.2.2, contexts := contexts }
  s2.syncTimer.trunkIdle

/-- The link reaches UP (R122): the transmitter becomes CLEARING, a TRUNK_RESTORED notice is raised if the link has
been UP before (R124), and the notice queue acts (R184). -/
def State.reachUp (s : State) : State :=
  let s1 := (s.withLine { s.line with link := .up, idleRun := 0, invalidRun := 0, beenUp := true }).withTx
    { s.tx with mode := .clearing }
  let s2 :=
    if s.line.beenUp then s1.raiseNotice (.trunkRestored s.line.returned s.line.discarded s.line.contexts) else s1
  s2.syncTimer.noticeResume

/-- A symbol takes a DOWN link to ALIGNING with an IDLE run of 0 (R116), or restarts the run of an ALIGNING one
(R117). -/
def State.alignFrom (s : State) : State := s.withLine { s.line with link := .aligning, idleRun := 0 }

/-- A valid symbol that reaches the receiver returns the invalid run to 0 (R118). -/
def State.validSymbol (s : State) : State := s.withLine { s.line with invalidRun := 0 }

/-- A valid symbol other than IDLE: not taken while TRK_LOS is asserted (R115), taken by the alignment while the link
is not UP (R116, R117), and handed to the receiver as `f` in UP (R118). -/
def State.trunkSymbol (s : State) (f : State → State) : State :=
  if s.line.los then s
  else
    match s.line.link with
    | .down => s.alignFrom
    | .aligning => s.alignFrom
    | .up => (f s.validSymbol).settle

/-- IDLE on the trunk (R116, R117, R118): the 16th consecutive one in ALIGNING brings the link UP; in UP it is
fill. -/
def State.trunkIdleSymbol (s : State) : State :=
  if s.line.los then s
  else
    match s.line.link with
    | .down => s.alignFrom
    | .aligning =>
      if s.line.idleRun + 1 < Config.alignRun then s.withLine { s.line with idleRun := s.line.idleRun + 1 }
      else s.reachUp
    | .up => s.validSymbol

/-- An invalid symbol on the trunk (R116, R117, R119): the 4th consecutive one in UP takes the link DOWN, the others
are handed to the receiver as a slip. -/
def State.trunkInvalid (s : State) : State :=
  if s.line.los then s
  else
    match s.line.link with
    | .down => s.alignFrom
    | .aligning => s.alignFrom
    | .up =>
      if s.line.invalidRun + 1 < Config.lossRun then
        (s.withLine { s.line with invalidRun := s.line.invalidRun + 1 }).slip.settle
      else s.leaveUp.settle

/-- TRK_LOS is asserted (R115). -/
def State.losAsserted (s : State) : State :=
  let s1 := s.withLine { s.line with los := true }
  match s.line.link with
  | .down => s1
  | .aligning => s1.withLine { s1.line with link := .down, idleRun := 0 }
  | .up => s1.leaveUp.settle

/-- TRK_LOS is deasserted (R115): a DOWN link goes to ALIGNING.  The manual says the event is not possible in
ALIGNING and UP: there only the level is recorded.  DESIGN CHOICE (notes/assumptions/1.md): a DOWN link goes to ALIGNING
also where TRK_LOS was deasserted already (after four invalid symbols); R115 acts on changes of the level and says
nothing of a deassertion that is none. -/
def State.losDeasserted (s : State) : State :=
  let s1 := s.withLine { s.line with los := false }
  match s.line.link with
  | .down => s1.alignFrom
  | _ => s1

/-- TRK_LOS_ASSERTED (R115, R120). -/
def execTrkLosAsserted (s : State) : Host.Outcome State Fault Refusal := .next s.losAsserted

/-- TRK_LOS_DEASSERTED (R115). -/
def execTrkLosDeasserted (s : State) : Host.Outcome State Fault Refusal := .next s.losDeasserted

/-- TRUNK_IDLE_RECEIVED (R116, R117, R122). -/
def execTrunkIdleReceived (s : State) : Host.Outcome State Fault Refusal := .next s.trunkIdleSymbol

/-- OPEN_FIRST (R131). -/
def execOpenFirst (t : Tier) (s : State) : Host.Outcome State Fault Refusal :=
  .next (s.trunkSymbol fun s => s.receiveOpenFirst t)

/-- OPEN_NEXT (R133, R134). -/
def execOpenNext (t : Tier) (i : FragIx) (s : State) : Host.Outcome State Fault Refusal :=
  .next (s.trunkSymbol fun s => s.receiveOpenNext t i)

/-- TRUNK_DATA_OCTET (R132, R135). -/
def execTrunkDataOctet (b : Byte) (s : State) : Host.Outcome State Fault Refusal :=
  .next (s.trunkSymbol fun s => s.receiveData b)

/-- CLOSE_MORE (R137). -/
def execCloseMore (s : State) : Host.Outcome State Fault Refusal := .next (s.trunkSymbol State.receiveCloseMore)

/-- CLOSE_LAST (R138). -/
def execCloseLast (s : State) : Host.Outcome State Fault Refusal := .next (s.trunkSymbol State.receiveCloseLast)

/-- CLEAR_RECEIVED (R141). -/
def execClearReceived (s : State) : Host.Outcome State Fault Refusal := .next (s.trunkSymbol State.receiveClear)

/-- TRUNK_INVALID_SYMBOL (R116, R117, R119, R130). -/
def execTrunkInvalidSymbol (s : State) : Host.Outcome State Fault Refusal := .next s.trunkInvalid

end Sys2Proof.Machine
end

