-- ==== Sys2Proof/Machine/Requests.lean ====
section
/-! DEFINITION. The commands of the management agent (chapter 8): its own events, the retries of a release event,
and the requests, each of which builds the request's body (R200) and delivers it. -/

namespace Sys2Proof.Machine

/-- AGENT_ATTEMPT_EVENT: the IDLE agent attempts the head of its inbox (R149). -/
def execAgentAttemptEvent (s : State) : Host.Outcome State Fault Refusal :=
  .next (if s.agent.state = .idle then s.attempt else s)

/-- AGENT_RETRY: the agent's part of a release event (R13, R149). -/
def execAgentRetry (s : State) : Host.Outcome State Fault Refusal :=
  .next (if s.agent.state = .waiting then s.attempt else s)

/-- NOTICE_CLAIM_RETRY: the notice queue's part of a release event (R13, R178, R180). -/
def execNoticeClaimRetry (s : State) : Host.Outcome State Fault Refusal := .next s.noticeRetry

/-- A request of a kind with its arguments is delivered (R147, R200). -/
def State.request (s : State) (h : ReqHeader) (kind : Byte) (args : List Byte) : State :=
  (s.deliverRequest h.tier (requestBody s.part.node h kind args)).settle

/-- The arguments of a WRITE (R200). -/
def writeArgs (offset count : Byte) (entries : List Byte) : List Byte := [offset, count] ++ entries

/-- MALFORMED_REQUEST (R154). -/
def execMalformedRequest (t : Tier) (broadcast : Bool) (rest : List Byte) (s : State) :
    Host.Outcome State Fault Refusal :=
  .next (s.deliverRequest t (octets2 (requestTag s.part.node broadcast) ++ rest)).settle

/-- SELECT (R159). -/
def execSelect (h : ReqHeader) (table : TableName) (base : BitVec 16) (s : State) :
    Host.Outcome State Fault Refusal :=
  .next (s.request h 0x01 ([tableCode table] ++ octets2 base))

/-- RELEASE (R160); one octet follows the kind, to reach the least body (R153). -/
def execRelease (h : ReqHeader) (s : State) : Host.Outcome State Fault Refusal := .next (s.request h 0x02 [0x00])

/-- READ (R161). -/
def execRead (h : ReqHeader) (offset count : Byte) (s : State) : Host.Outcome State Fault Refusal :=
  .next (s.request h 0x03 [offset, count])

/-- WRITE_STREAM (R24, R25, R31). -/
def execWriteStream (h : ReqHeader) (offset count : Byte) (es : List StreamWords) (s : State) :
    Host.Outcome State Fault Refusal :=
  .next (s.request h 0x04 (writeArgs offset count (es.flatMap StreamWords.octets)))

/-- WRITE_ALLOT (R71, R72). -/
def execWriteAllot (h : ReqHeader) (offset count : Byte) (es : List AllotWords) (s : State) :
    Host.Outcome State Fault Refusal :=
  .next (s.request h 0x04 (writeArgs offset count (es.flatMap AllotWords.octets)))

/-- WRITE_STREAM_TALLY (R192). -/
def execWriteStreamTally (h : ReqHeader) (offset count : Byte) (es : List TallyWords) (s : State) :
    Host.Outcome State Fault Refusal :=
  .next (s.request h 0x04 (writeArgs offset count (es.flatMap TallyWords.octets)))

/-- WRITE_TIER (R81). -/
def execWriteTier (h : ReqHeader) (offset count : Byte) (es : List TierWords) (s : State) :
    Host.Outcome State Fault Refusal :=
  .next (s.request h 0x04 (writeArgs offset count (es.flatMap TierWords.octets)))

/-- WRITE_PORT (R39, R53). -/
def execWritePort (h : ReqHeader) (offset count : Byte) (es : List PortWords) (s : State) :
    Host.Outcome State Fault Refusal :=
  .next (s.request h 0x04 (writeArgs offset count (es.flatMap PortWords.octets)))

/-- WRITE_PART (R164, R74, R184). -/
def execWritePart (h : ReqHeader) (offset count : Byte) (es : List PartWords) (s : State) :
    Host.Outcome State Fault Refusal :=
  .next (s.request h 0x04 (writeArgs offset count (es.flatMap PartWords.octets)))

/-- WRITE_DISCARD (R192). -/
def execWriteDiscard (h : ReqHeader) (offset count : Byte) (es : List (BitVec 32)) (s : State) :
    Host.Outcome State Fault Refusal :=
  .next (s.request h 0x04 (writeArgs offset count (es.flatMap octets4)))

/-- WRITE_NOTICES (R162 step 3). -/
def execWriteNotices (h : ReqHeader) (offset count : Byte) (es : List (BitVec 64)) (s : State) :
    Host.Outcome State Fault Refusal :=
  .next (s.request h 0x04 (writeArgs offset count (es.flatMap octets8)))

/-- APPEND (R69, R166). -/
def execAppend (h : ReqHeader) (tail new : BitVec 16) (s : State) : Host.Outcome State Fault Refusal :=
  .next (s.request h 0x05 (octets2 tail ++ octets2 new))

/-- ACKNOWLEDGE (R167, R182). -/
def execAcknowledge (h : ReqHeader) (sequence : Byte) (s : State) : Host.Outcome State Fault Refusal :=
  .next (s.request h 0x06 [sequence])

/-- STATUS (R168). -/
def execStatus (h : ReqHeader) (s : State) : Host.Outcome State Fault Refusal := .next (s.request h 0x07 [0x00])

/-- RESTART (R170, R19). -/
def execRestart (h : ReqHeader) (s : State) : Host.Outcome State Fault Refusal := .next (s.request h 0x08 [0x00])

/-- PORT_RESET (R169, R54). -/
def execPortReset (h : ReqHeader) (port : Byte) (s : State) : Host.Outcome State Fault Refusal :=
  .next (s.request h 0x09 [port])

end Sys2Proof.Machine
end

