-- ==== Sys2Proof/Machine/Reset.lean ====
section
/-! DEFINITION. Power-on reset (R18 and the reset rules of every chapter). -/

namespace Sys2Proof.Machine

/-- Every block takes its power-on state.  No rule clears the octets of the cell store, which are those last written
(R1), and the commands that wait are outside the part. -/
def State.powerOn (s : State) (straps : BitVec 6) (los : Bool) : State :=
  ((State.powerOnWith straps los).withBuf { handles := [], octets := s.buf.octets }).withPending s.pending

/-- POWER_ON_RESET (R18). -/
def execPowerOnReset (straps : BitVec 6) (los : Bool) (s : State) : Host.Outcome State Fault Refusal :=
  .next (s.powerOn straps los)

end Sys2Proof.Machine
end

