-- ==== Sys2Proof/Machine/Timers.lean ====
section
/-! DEFINITION. The three timers of section 1.10 at their expiries, and one tick of time: the 100 microseconds that
pass when no command is waiting. -/

namespace Sys2Proof.Machine

/-- The window idle timer reaches 250 ms: the holder becomes absent and the timer stops (R158). -/
def State.windowExpiry (s : State) : State := s.withAgent { s.agent with window := none }

/-- EPOCH_EXPIRY (R73). -/
def execEpochExpiry (s : State) : Host.Outcome State Fault Refusal := .next s.epochExpiry

/-- WINDOW_IDLE_TIMEOUT (R158).  The timer of a free window is stopped and nothing changes. -/
def execWindowIdleTimeout (s : State) : Host.Outcome State Fault Refusal := .next s.windowExpiry

/-- RESEND_TIMER_EXPIRY (R180, R181). -/
def execResendTimerExpiry (s : State) : Host.Outcome State Fault Refusal := .next s.resendExpiry

/-- The epoch timer counts one unit, and expires when it reaches the period (R73). -/
def State.tickEpoch (s : State) : State :=
  if s.part.epochPeriod = 0 then s
  else if s.metering.epochElapsed + 1 < s.part.epochPeriod.toNat then
    s.withMetering { s.metering with epochElapsed := s.metering.epochElapsed + 1 }
  else s.epochExpiry

/-- The window idle timer counts one unit while the window is held, and expires at 250 ms (R158). -/
def State.tickWindow (s : State) : State :=
  match s.agent.window with
  | none => s
  | some w =>
    if w.idle + 1 < Config.windowTicks then s.withAgent { s.agent with window := some { w with idle := w.idle + 1 } }
    else s.windowExpiry

/-- The resend timer counts one unit while it runs, and expires at 20 ms (R180). -/
def State.tickResend (s : State) : State :=
  match s.notices.timer with
  | .running e =>
    if e + 1 < Config.resendTicks then s.withNotices { s.notices with timer := .running (e + 1) }
    else s.resendExpiry
  | _ => s

/-- One tick of 100 microseconds.  DESIGN CHOICE (notes/assumptions/5.md): it is what a step does when no command is
waiting, and timers that expire in one tick are taken in this order. -/
def State.tick (s : State) : State := s.tickEpoch.tickWindow.tickResend

end Sys2Proof.Machine
end

