-- ==== Sys2Proof/Machine/Tributary.lean ====
section
/-! DEFINITION. The tributary commands (chapter 3): the symbols at an ingress, and the end of an egress
transmission. -/

namespace Sys2Proof.Machine

/-- Ends the frame in progress at an ingress with a cause: in TAG_WAIT its stream is not known, in RECEIVING its
handle is released; IDLE and SKIPPING hold no frame (R46, R47, R48). -/
def State.endIngress (s : State) (p : Port) (c : Cause) (next : Ingress) : State :=
  match (s.port p).ingress with
  | .idle => s
  | .tagWait _ => (s.setIngress p next).countDiscard c none
  | .receiving h _ => (s.setIngress p next).discard c h
  | .skipping => s

/-- OPEN (R41, R47): a frame in progress is aborted, then the enabled field decides. -/
def State.ingressOpen (s : State) (p : Port) : State :=
  let s1 := s.endIngress p .ingressAborted .idle
  if (s1.port p).enabled then s1.setIngress p (.tagWait none) else s1.setIngress p .idle

/-- The second tag octet (R27, R42): lookup, port check, and the ordinary handle and first cell claims. -/
def State.ingressTag (s : State) (p : Port) (tag : Tag) : State :=
  let skip := s.setIngress p .skipping
  match s.lookup tag with
  | none => skip.countDiscard .unknownTag none
  | some i =>
    if (s.stream i.val).port ≠ p then skip.countDiscard .wrongPort (some i)
    else
      match s.claimHandle false (.ingress p) tag (s.stream i.val).baseTier (some i) with
      | none => skip.countDiscard .noHandle (some i)
      | some (h, s1) =>
        match s1.appendOctets false h (octets2 tag) with
        | (false, s2) => (s2.setIngress p .skipping).discard .noCell h
        | (true, s2) => s2.setIngress p (.receiving h [])

/-- A data octet in RECEIVING (R43): it joins the hold-back, and a full hold-back gives up its oldest octet to the
body. -/
def State.ingressOctet (s : State) (p : Port) (h : Nat) (hold : List Byte) (b : Byte) : State :=
  match hold with
  | [] => s.setIngress p (.receiving h [b])
  | oldest :: rest =>
    if hold.length < Config.ingressHold then s.setIngress p (.receiving h (hold ++ [b]))
    else
      match s.handle? h with
      | none => s
      | some r =>
        if r.bodyLength = Config.maxBody then (s.setIngress p .skipping).discard .ingressLength h
        else
          match s.appendOctet false h oldest with
          | none => (s.setIngress p .skipping).discard .noCell h
          | some s1 => s1.setIngress p (.receiving h (rest ++ [b]))

/-- A data octet (R42, R43, R48). -/
def State.ingressData (s : State) (p : Port) (b : Byte) : State :=
  match (s.port p).ingress with
  | .idle => s
  | .tagWait none => s.setIngress p (.tagWait (some b))
  | .tagWait (some hi) => s.ingressTag p (word16 hi b)
  | .receiving h hold => s.ingressOctet p h hold b
  | .skipping => s

/-- The hand-over of a good frame (R45): the charge, then the offer to the queue of its tier. -/
def State.handOver (s : State) (h : Nat) (i : StreamIx) (len : Nat) : State :=
  let charged := s.charge i len
  match charged.1 with
  | .overbudget => charged.2.discard .overbudget h
  | .chainEnd => charged.2.discard .chainEnd h
  | .fixed t =>
    let offered := (charged.2.fixTier h i t).offerQueue t h
    if offered.1 then offered.2 else offered.2.discard .tierFull h

/-- The close re-check of a frame's stream entry (R28): the stream index when the entry is valid and holds the
frame's tag. -/
def State.recheck (s : State) (r : Handle) : Option StreamIx :=
  r.stream.filter fun i => (s.stream i.val).valid && decide ((s.stream i.val).tag = r.tag)

/-- CLOSE END of a frame in RECEIVING (R44): length, frame check and stream entry, in that order. -/
def State.ingressClose (s : State) (p : Port) (h : Nat) (hold : List Byte) : State :=
  match s.handle? h with
  | none => s
  | some r =>
    let s1 := s.setIngress p .idle
    if hold.length ≠ Config.ingressHold ∨ r.bodyLength < Config.minBody then s1.discard .ingressLength h
    else if hold ≠ octets4 (frameCheck (s.bodyOf h)) then s1.discard .ingressCheck h
    else
      match s.recheck r with
      | none => (s1.modHandle h fun r => { r with stream := none }).discard .unknownTag h
      | some i => s1.handOver h i r.bodyLength

/-- CLOSE END (R44). -/
def State.ingressEnd (s : State) (p : Port) : State :=
  match (s.port p).ingress with
  | .idle => s
  | .tagWait _ => (s.setIngress p .idle).countDiscard .ingressLength none
  | .receiving h hold => s.ingressClose p h hold
  | .skipping => s.setIngress p .idle

/-- CLOSE ABORT (R46). -/
def State.ingressAbort (s : State) (p : Port) : State :=
  let s1 := s.endIngress p .ingressAborted .idle
  s1.setIngress p .idle

/-- TRIBUTARY_OPEN (R41, R47). -/
def execTributaryOpen (p : Port) (s : State) : Host.Outcome State Fault Refusal := .next (s.ingressOpen p).settle

/-- TRIBUTARY_DATA_OCTET (R42, R43, R48). -/
def execTributaryDataOctet (p : Port) (b : Byte) (s : State) : Host.Outcome State Fault Refusal :=
  .next (s.ingressData p b).settle

/-- CLOSE_END (R44, R45). -/
def execCloseEnd (p : Port) (s : State) : Host.Outcome State Fault Refusal := .next (s.ingressEnd p).settle

/-- CLOSE_ABORT (R46). -/
def execCloseAbort (p : Port) (s : State) : Host.Outcome State Fault Refusal := .next (s.ingressAbort p).settle

/-- TRIBUTARY_INVALID_SYMBOL (R48). -/
def execTributaryInvalidSymbol (p : Port) (s : State) : Host.Outcome State Fault Refusal :=
  .next (s.endIngress p .ingressCheck .skipping).settle

/-- TRIBUTARY_IDLE: no effect, in every state (R36). -/
def execTributaryIdle (_p : Port) (s : State) : Host.Outcome State Fault Refusal := .next s

/-- EGRESS_CLOSE_END_SENT (R52).  With no frame in transmission no CLOSE END is sent and nothing changes. -/
def execEgressCloseEndSent (p : Port) (s : State) : Host.Outcome State Fault Refusal := .next (s.egressSent p).settle

end Sys2Proof.Machine
end

