-- ==== Sys2Proof/Machine/TrunkSend.lean ====
section
/-! DEFINITION. The commands of the trunk transmitter (chapter 5): what it has sent. -/

namespace Sys2Proof.Machine

/-- BLOCK_SENT (R94, R95). -/
def execBlockSent (s : State) : Host.Outcome State Fault Refusal := .next s.blockSent

/-- CLOSE_MORE_SENT (R89, R96). -/
def execCloseMoreSent (s : State) : Host.Outcome State Fault Refusal := .next s.closeMoreSent

/-- The selection of step 4 of R100: made unless a request carried out at the release event of step 3 has taken
the transmitter out of SENDING (a soft restart, R107). -/
def State.selectAfterClose (s : State) : State :=
  if s.tx.mode = .sending ∧ s.tx.active = none then s.select else s

/-- CLOSE_LAST_SENT (R100): tallies, release, release event, selection. -/
def execCloseLastSent (s : State) : Host.Outcome State Fault Refusal :=
  match s.completeActive with
  | none => .next s
  | some s1 => .next s1.settle.selectAfterClose

/-- CLEAR_SENT (R105, R123).  Outside a CLEARING period no CLEAR is sent and nothing changes. -/
def execClearSent (s : State) : Host.Outcome State Fault Refusal := .next s.clearSent

end Sys2Proof.Machine
end

