-- ==== Sys2Proof/Machine/Dispatch.lean ====
section
/-! DEFINITION. The meaning of each command: one arm a constructor. -/

namespace Sys2Proof.Machine

def exec (i : Instr) (s : State) : Host.Outcome State Fault Refusal :=
  match i with
  | .powerOnReset straps los => Sys2Proof.Machine.execPowerOnReset straps los s
  | .tributaryOpen p => Sys2Proof.Machine.execTributaryOpen p s
  | .tributaryDataOctet p b => Sys2Proof.Machine.execTributaryDataOctet p b s
  | .closeEnd p => Sys2Proof.Machine.execCloseEnd p s
  | .closeAbort p => Sys2Proof.Machine.execCloseAbort p s
  | .tributaryInvalidSymbol p => Sys2Proof.Machine.execTributaryInvalidSymbol p s
  | .tributaryIdle p => Sys2Proof.Machine.execTributaryIdle p s
  | .egressCloseEndSent p => Sys2Proof.Machine.execEgressCloseEndSent p s
  | .trkLosAsserted => Sys2Proof.Machine.execTrkLosAsserted s
  | .trkLosDeasserted => Sys2Proof.Machine.execTrkLosDeasserted s
  | .trunkIdleReceived => Sys2Proof.Machine.execTrunkIdleReceived s
  | .openFirst t => Sys2Proof.Machine.execOpenFirst t s
  | .openNext t k => Sys2Proof.Machine.execOpenNext t k s
  | .trunkDataOctet b => Sys2Proof.Machine.execTrunkDataOctet b s
  | .closeMore => Sys2Proof.Machine.execCloseMore s
  | .closeLast => Sys2Proof.Machine.execCloseLast s
  | .clearReceived => Sys2Proof.Machine.execClearReceived s
  | .trunkInvalidSymbol => Sys2Proof.Machine.execTrunkInvalidSymbol s
  | .blockSent => Sys2Proof.Machine.execBlockSent s
  | .closeMoreSent => Sys2Proof.Machine.execCloseMoreSent s
  | .closeLastSent => Sys2Proof.Machine.execCloseLastSent s
  | .clearSent => Sys2Proof.Machine.execClearSent s
  | .epochExpiry => Sys2Proof.Machine.execEpochExpiry s
  | .windowIdleTimeout => Sys2Proof.Machine.execWindowIdleTimeout s
  | .resendTimerExpiry => Sys2Proof.Machine.execResendTimerExpiry s
  | .agentAttemptEvent => Sys2Proof.Machine.execAgentAttemptEvent s
  | .agentRetry => Sys2Proof.Machine.execAgentRetry s
  | .noticeClaimRetry => Sys2Proof.Machine.execNoticeClaimRetry s
  | .malformedRequest t b rest => Sys2Proof.Machine.execMalformedRequest t b rest s
  | .select h table base => Sys2Proof.Machine.execSelect h table base s
  | .release h => Sys2Proof.Machine.execRelease h s
  | .read h offset count => Sys2Proof.Machine.execRead h offset count s
  | .writeStream h offset count es => Sys2Proof.Machine.execWriteStream h offset count es s
  | .writeAllot h offset count es => Sys2Proof.Machine.execWriteAllot h offset count es s
  | .writeStreamTally h offset count es => Sys2Proof.Machine.execWriteStreamTally h offset count es s
  | .writeTier h offset count es => Sys2Proof.Machine.execWriteTier h offset count es s
  | .writePort h offset count es => Sys2Proof.Machine.execWritePort h offset count es s
  | .writePart h offset count es => Sys2Proof.Machine.execWritePart h offset count es s
  | .writeDiscard h offset count es => Sys2Proof.Machine.execWriteDiscard h offset count es s
  | .writeNotices h offset count es => Sys2Proof.Machine.execWriteNotices h offset count es s
  | .append h tail new => Sys2Proof.Machine.execAppend h tail new s
  | .acknowledge h sequence => Sys2Proof.Machine.execAcknowledge h sequence s
  | .status h => Sys2Proof.Machine.execStatus h s
  | .restart h => Sys2Proof.Machine.execRestart h s
  | .portReset h port => Sys2Proof.Machine.execPortReset h port s

end Sys2Proof.Machine
end

