-- ==== Sys2Proof/WellFormed.lean ====
section
/-! DEFINITION. Which terms of `Instr` spell a command that can reach the part.  The operand types already bound
ports, tiers, controllers and octets; what is left is that a request's body is a body the receiver can complete
(R132, R153: 8 to 2048 octets) and that a MALFORMED_REQUEST is malformed (R154). -/

namespace Sys2Proof

/-- Fixed argument octets of each request kind by its code; absent for a code that is no kind (R153, R199). -/
def kindArguments : Nat → Option Nat
  | 1 => some 3
  | 2 => some 0
  | 3 => some 2
  | 4 => some 2
  | 5 => some 4
  | 6 => some 1
  | 7 => some 0
  | 8 => some 0
  | 9 => some 1
  | _ => none

/-- R154 on the octets of a request after its stream tag: an unknown kind, a controller above 3, a body that ends
before the kind's fixed arguments, or a SELECT whose table code is none of 0x01 to 0x08. -/
def malformedRest (rest : List Byte) : Bool :=
  match kindArguments (rest.getD 4 0).toNat with
  | none => true
  | some n =>
    decide (4 ≤ (rest.getD 2 0).toNat) || decide (rest.length < 5 + n) ||
      (decide (rest.getD 4 0 = 1) && (decide (rest.getD 5 0 = 0) || decide (8 < (rest.getD 5 0).toNat)))

/-- A request body of `n` octets is one the receiver can complete (R132). -/
def bodyFits (n : Nat) : Bool := decide (Config.minBody ≤ n) && decide (n ≤ Config.maxBody)

/-- A WRITE body with `n` entries of `size` octets fits a frame body (R200). -/
def writeFits (n size : Nat) : Bool := bodyFits (9 + n * size)

/-- The well-formed commands. -/
def Instr.wellFormed : Instr → Bool
  | .powerOnReset _ _ => true
  | .tributaryOpen _ => true
  | .tributaryDataOctet _ _ => true
  | .closeEnd _ => true
  | .closeAbort _ => true
  | .tributaryInvalidSymbol _ => true
  | .tributaryIdle _ => true
  | .egressCloseEndSent _ => true
  | .trkLosAsserted => true
  | .trkLosDeasserted => true
  | .trunkIdleReceived => true
  | .openFirst _ => true
  | .openNext _ _ => true
  | .trunkDataOctet _ => true
  | .closeMore => true
  | .closeLast => true
  | .clearReceived => true
  | .trunkInvalidSymbol => true
  | .blockSent => true
  | .closeMoreSent => true
  | .closeLastSent => true
  | .clearSent => true
  | .epochExpiry => true
  | .windowIdleTimeout => true
  | .resendTimerExpiry => true
  | .agentAttemptEvent => true
  | .agentRetry => true
  | .noticeClaimRetry => true
  | .malformedRequest _ _ rest => bodyFits (2 + rest.length) && malformedRest rest
  | .select _ _ _ => true
  | .release _ => true
  | .read _ _ _ => true
  | .writeStream _ _ _ es => writeFits es.length 14
  | .writeAllot _ _ _ es => writeFits es.length 6
  | .writeStreamTally _ _ _ es => writeFits es.length 16
  | .writeTier _ _ _ es => writeFits es.length 4
  | .writePort _ _ _ es => writeFits es.length 3
  | .writePart _ _ _ es => writeFits es.length 7
  | .writeDiscard _ _ _ es => writeFits es.length 4
  | .writeNotices _ _ _ es => writeFits es.length 8
  | .append _ _ _ => true
  | .acknowledge _ _ => true
  | .status _ => true
  | .restart _ => true
  | .portReset _ _ => true

end Sys2Proof
end

