-- ==== Sys2Proof/Safety.lean ====
section
/-! DEFINITION. The terms the statements about the part use: frames (which blocks an event may change), the
discard of one frame, what a queue of notices becomes at a raise, the answer of a request, and the invariants
that every step keeps. -/

namespace Sys2Proof.Machine

/-! ## Frames -/

/-- The blocks of the state. -/
inductive Block where
  | buf
  | streams
  | metering
  | ports
  | queues
  | tx
  | line
  | rx
  | agent
  | part
  | notices
  | tallies
  | releaseEvents
  | pending
  deriving DecidableEq, Repr

/-- Every block that is not listed stands as it stood. -/
def ChangesOnly (bs : List Block) (s t : State) : Prop :=
  (Block.buf ∈ bs ∨ t.buf = s.buf) ∧ (Block.streams ∈ bs ∨ t.streams = s.streams) ∧
  (Block.metering ∈ bs ∨ t.metering = s.metering) ∧ (Block.ports ∈ bs ∨ t.ports = s.ports) ∧
  (Block.queues ∈ bs ∨ t.queues = s.queues) ∧ (Block.tx ∈ bs ∨ t.tx = s.tx) ∧
  (Block.line ∈ bs ∨ t.line = s.line) ∧ (Block.rx ∈ bs ∨ t.rx = s.rx) ∧
  (Block.agent ∈ bs ∨ t.agent = s.agent) ∧ (Block.part ∈ bs ∨ t.part = s.part) ∧
  (Block.notices ∈ bs ∨ t.notices = s.notices) ∧ (Block.tallies ∈ bs ∨ t.tallies = s.tallies) ∧
  (Block.releaseEvents ∈ bs ∨ t.releaseEvents = s.releaseEvents) ∧
  (Block.pending ∈ bs ∨ t.pending = s.pending)

/-- Every handle but those listed has the record it had. -/
def KeepsHandles (except : List Nat) (s t : State) : Prop := ∀ k, k ∉ except → t.handle? k = s.handle? k

/-- Every octet of the cell store reads as it read. -/
def KeepsOctets (s t : State) : Prop :=
  ∀ a, Memory.read t.buf.octets a = Memory.read s.buf.octets a

/-- Every octet but the one at `x` reads as it read. -/
def KeepsOctetsBut (x : Nat) (s t : State) : Prop :=
  ∀ a, a ≠ x → Memory.read t.buf.octets a = Memory.read s.buf.octets a

/-- Every octet of every cell that a frame held reads as it read. -/
def KeepsHeld (s t : State) : Prop :=
  ∀ a, a / 64 ∈ s.heldCells → Memory.read t.buf.octets a = Memory.read s.buf.octets a

/-- Every tier queue keeps its limit. -/
def KeepsLimits (s t : State) : Prop := ∀ u, (t.queue u).limit = (s.queue u).limit

/-- Every port but `p` stands as it stood. -/
def KeepsPorts (p : Port) (s t : State) : Prop := ∀ q, q ≠ p → t.port q = s.port q

/-! ## Release events and discards -/

/-- No claimer waits for a release event, and no release event is being taken (R13). -/
def State.NoWaiter (s : State) : Prop :=
  s.agent.state = .idle ∧ s.notices.pending = false ∧ s.releaseEvents = 0

/-- The counts after one discard with a cause and a stream, if the stream is known (steps 2 and 3 of R189). -/
def Counted (s t : State) (c : Cause) (stream : Option StreamIx) : Prop :=
  t.discardCount c = s.discardCount c + 1 ∧ (∀ d, d ≠ c → t.discardCount d = s.discardCount d) ∧
  ∀ i, t.tally i =
    if stream = some i then { s.tally i with framesDiscarded := (s.tally i).framesDiscarded + 1 } else s.tally i

/-- The whole discard of the frame held in `h`: handle FREE, no octet or other handle changed, one count, and one
release event raised (R13, R189). -/
def Discarded (s t : State) (c : Cause) (h : Nat) : Prop :=
  t.handle? h = none ∧ KeepsHandles [h] s t ∧ KeepsOctets s t ∧ Counted s t c (s.streamOf h) ∧
  t.releaseEvents = s.releaseEvents + 1

/-- Port `p` keeps all but its ingress, which becomes `v`, and the other ports stand. -/
def SetsIngress (p : Port) (v : Ingress) (s t : State) : Prop :=
  t.port p = { s.port p with ingress := v } ∧ KeepsPorts p s t

/-! ## The receiver -/

/-- The handles that the OPEN contexts of some tiers hold. -/
def State.contextHandles (s : State) (ts : List Tier) : List Nat :=
  ts.flatMap fun t =>
    match s.context t with
    | .opened a => a.handle.toList
    | _ => []

/-- The contexts of some tiers are CLOSED: the frames of the OPEN ones discarded with a cause, against no stream, and
the DISCARDING ones without counting (R127). -/
def AbandonsContexts (ts : List Tier) (c : Cause) (s t : State) : Prop :=
  (∀ u, t.context u = if u ∈ ts then .closed else s.context u) ∧
  t.discardCount c = s.discardCount c + BitVec.ofNat 32 (ts.filter fun u => (s.context u).isOpen).length ∧
  (∀ d, d ≠ c → t.discardCount d = s.discardCount d) ∧ (∀ i, t.tally i = s.tally i) ∧
  (∀ h ∈ s.contextHandles ts, t.handle? h = none) ∧ KeepsHandles (s.contextHandles ts) s t ∧ KeepsOctets s t ∧
  t.releaseEvents = s.releaseEvents + (s.contextHandles ts).length

/-- The OPEN context `u` is DISCARDING with a cause and an expected next index: its frame is discarded against no stream,
its handle, if it holds one, is FREE, and no other context changes (R127, R189). -/
def GivesUp (u : Tier) (c : Cause) (expected : FragIx) (s t : State) : Prop :=
  ∃ a, s.context u = .opened a ∧
    t.context u = .discarding
      { tag := a.tag, declared := a.declared, expected := expected, mgmt := a.mgmt, cause := c } ∧
    (∀ x, x ≠ u → t.context x = s.context x) ∧ Counted s t c none ∧
    match a.handle with
    | none => t.buf = s.buf ∧ t.releaseEvents = s.releaseEvents
    | some h => t.handle? h = none ∧ KeepsHandles [h] s t ∧ KeepsOctets s t ∧
      t.releaseEvents = s.releaseEvents + 1

/-- A framing slip of the first two kinds (R130), or no fragment open: a STORING fragment's context is DISCARDING with
cause FRAGMENT_CHECK and its index not advanced, and no fragment is open afterwards. -/
def Slips (s t : State) : Prop :=
  t.rx.fragment = none ∧
  match s.rx.fragment with
  | none => t = s
  | some f =>
    if f.mode = .storing then
      ChangesOnly [.buf, .rx, .tallies, .releaseEvents] s t ∧
      ∃ a, s.context f.tier = .opened a ∧ GivesUp f.tier .fragmentCheck a.expected s t
    else ChangesOnly [.rx] s t ∧ ∀ x, t.context x = s.context x

/-- The frames on the trunk, the active one first, then the stack from the top (R103). -/
def State.onTrunk (s : State) : List Nat := s.tx.active.toList ++ s.tx.stack

/-- Whether a frame on the trunk survives one more loss (R103). -/
def State.survives (s : State) (h : Nat) : Bool :=
  match s.handle? h with
  | some r => decide (r.restartCount < 2)
  | none => false

/-- What the departure of the link from UP leaves, TRK_LOS at level `los` (R103, R104, R120, R142, R180): the link is
DOWN with its runs at 0 and the three counts stored; the frames on the trunk are back at the heads of their tiers'
queues, from their beginning, or discarded at their third loss; every context is CLOSED; the resend timer is held. -/
def LeavesUp (los : Bool) (s t : State) : Prop :=
  t.line = { s.line with
    link := .down, los := los, idleRun := 0, invalidRun := 0
    returned := (s.onTrunk.filter s.survives).length
    discarded := (s.onTrunk.filter fun h => !s.survives h).length
    contexts := (Tier.all.filter fun u => (s.context u).isOpen).length
    sent := if s.line.sent.getLast? = some .idle then s.line.sent else s.line.sent ++ [.idle] } ∧
  t.tx = { mode := .offline, active := none, fragment := none, stack := [] } ∧
  (∀ u, (t.queue u).limit = (s.queue u).limit ∧
    (t.queue u).members = (s.onTrunk.filter fun h => s.survives h && decide (s.tierOf h = u)) ++ (s.queue u).members) ∧
  (∀ h ∈ s.onTrunk, ∀ r, s.handle? h = some r →
    t.handle? h = if r.restartCount < 2 then
      some { r with restartCount := r.restartCount + 1, sentOffset := 0, nextIndex := 0, resumeHold := false
                    holder := .tierQueue r.tier } else none) ∧
  (∀ h ∈ s.contextHandles Tier.all, t.handle? h = none) ∧
  KeepsHandles (s.onTrunk ++ s.contextHandles Tier.all) s t ∧ KeepsOctets s t ∧
  t.rx.fragment = none ∧ (∀ u, t.context u = .closed) ∧
  t.discardCount .restartLimit =
    s.discardCount .restartLimit + BitVec.ofNat 32 (s.onTrunk.filter fun h => !s.survives h).length ∧
  t.discardCount .trunkDown =
    s.discardCount .trunkDown + BitVec.ofNat 32 (Tier.all.filter fun u => (s.context u).isOpen).length ∧
  (∀ d, d ≠ .restartLimit → d ≠ .trunkDown → t.discardCount d = s.discardCount d) ∧
  (∀ i, t.tally i = { s.tally i with
    framesDiscarded := (s.tally i).framesDiscarded +
      BitVec.ofNat 32 (s.onTrunk.filter fun h => !s.survives h && decide (s.streamOf h = some i)).length }) ∧
  t.notices = { s.notices with timer := match s.notices.timer with
    | .running e => .held e
    | x => x } ∧
  t.releaseEvents = s.releaseEvents + (s.onTrunk.filter fun h => !s.survives h).length +
    (s.contextHandles Tier.all).length ∧
  ChangesOnly [.buf, .queues, .tx, .line, .rx, .notices, .tallies, .releaseEvents] s t

/-! ## Notices -/

/-- The 12 octets of a notice frame (R179, R202), with the notice tag and the node number as they stand. -/
def State.noticeFrame (s : State) (n : Notice) (sequence : Byte) (sends : Nat) (lost : Byte) : List Byte :=
  octets2 s.part.noticeTag ++ [s.part.node.setWidth 8, sequence, noticeKindCode n, noticeSubject n] ++ noticeDetail n ++
    [lost, BitVec.ofNat 8 sends]

/-- The frame of a notice stands in the T0 queue or is the active frame; its handle was FREE. -/
def NoticeFramed (s t : State) (h : Nat) (n : Notice) (sequence : Byte) (sends : Nat) (lost : Byte) : Prop :=
  s.handle? h = none ∧ (h ∈ (t.queue .t0).members ∨ t.tx.active = some h) ∧
  t.bodyOf h = t.noticeFrame n sequence sends lost

/-- A notice frame of the oldest record has been built: `first` is the record's notice, sent with a sequence number, a
number of sends and a lost count; its frame stands at the tail of the T0 queue, or is the active frame where the
transmitter was IDLE; and the resend timer starts from zero (R178, R180). -/
def SendsNotice (s t : State) (first : Notice) (rest : List NoticeRecord) (sequence : Byte) (sends : Nat)
    (lost counter : Byte) : Prop :=
  t.notices = { records := { notice := first, state := .sent sequence sends lost } :: rest, counter := counter
                lost := s.notices.lost, timer := .running 0, pending := false } ∧
  ∃ h, NoticeFramed s t h first sequence sends lost ∧
    (s.tx.mode ≠ .idle → (t.queue .t0).members = (s.queue .t0).members ++ [h] ∧ KeepsHandles [h] s t ∧
      ∃ r, t.handle? h = some r ∧ r.holder = .tierQueue .t0 ∧ r.tier = .t0 ∧ r.stream = none ∧ r.whole = false) ∧
    KeepsLimits s t ∧ KeepsHeld s t ∧
    ChangesOnly (if s.tx.mode = .idle then [.buf, .queues, .tx, .line, .notices] else [.buf, .queues, .notices]) s t

/-- The notice queue after a raise that sends nothing (R175). -/
def NoticeQueue.raised (n : Notice) (q : NoticeQueue) : NoticeQueue :=
  if q.records.any (NoticeRecord.coalesces n) then { q with records := coalesce n q.records }
  else if 16 ≤ q.records.length then { q with lost := min 255 (q.lost + 1) }
  else { q with records := q.records ++ [{ notice := n, state := .queued }] }

/-! ## Requests -/

/-- The header, kind code and argument octets of each request command, with one octet after the kind where the
kind has no argument (R153, R199, R200); absent for the commands that are no well-formed request. -/
def requestParts : Instr → Option (ReqHeader × Byte × List Byte)
  | .select h table base => some (h, 0x01, [tableCode table] ++ octets2 base)
  | .release h => some (h, 0x02, [0x00])
  | .read h offset count => some (h, 0x03, [offset, count])
  | .writeStream h offset count es => some (h, 0x04, [offset, count] ++ es.flatMap StreamWords.octets)
  | .writeAllot h offset count es => some (h, 0x04, [offset, count] ++ es.flatMap AllotWords.octets)
  | .writeStreamTally h offset count es => some (h, 0x04, [offset, count] ++ es.flatMap TallyWords.octets)
  | .writeTier h offset count es => some (h, 0x04, [offset, count] ++ es.flatMap TierWords.octets)
  | .writePort h offset count es => some (h, 0x04, [offset, count] ++ es.flatMap PortWords.octets)
  | .writePart h offset count es => some (h, 0x04, [offset, count] ++ es.flatMap PartWords.octets)
  | .writeDiscard h offset count es => some (h, 0x04, [offset, count] ++ es.flatMap octets4)
  | .writeNotices h offset count es => some (h, 0x04, [offset, count] ++ es.flatMap octets8)
  | .append h tail new => some (h, 0x05, octets2 tail ++ octets2 new)
  | .acknowledge h sequence => some (h, 0x06, [sequence])
  | .status h => some (h, 0x07, [0x00])
  | .restart h => some (h, 0x08, [0x00])
  | .portReset h port => some (h, 0x09, [port])
  | _ => none

/-- The request that each request command spells (R153, R203). -/
def requestOf : Instr → Option Request
  | .select h table base => some ⟨h.controller, h.number, .select table base.toNat⟩
  | .release h => some ⟨h.controller, h.number, .release⟩
  | .read h offset count => some ⟨h.controller, h.number, .read offset.toNat count.toNat⟩
  | .writeStream h offset count es =>
    some ⟨h.controller, h.number, .write offset.toNat count.toNat (es.flatMap StreamWords.octets)⟩
  | .writeAllot h offset count es =>
    some ⟨h.controller, h.number, .write offset.toNat count.toNat (es.flatMap AllotWords.octets)⟩
  | .writeStreamTally h offset count es =>
    some ⟨h.controller, h.number, .write offset.toNat count.toNat (es.flatMap TallyWords.octets)⟩
  | .writeTier h offset count es =>
    some ⟨h.controller, h.number, .write offset.toNat count.toNat (es.flatMap TierWords.octets)⟩
  | .writePort h offset count es =>
    some ⟨h.controller, h.number, .write offset.toNat count.toNat (es.flatMap PortWords.octets)⟩
  | .writePart h offset count es =>
    some ⟨h.controller, h.number, .write offset.toNat count.toNat (es.flatMap PartWords.octets)⟩
  | .writeDiscard h offset count es =>
    some ⟨h.controller, h.number, .write offset.toNat count.toNat (es.flatMap octets4)⟩
  | .writeNotices h offset count es =>
    some ⟨h.controller, h.number, .write offset.toNat count.toNat (es.flatMap octets8)⟩
  | .append h tail new => some ⟨h.controller, h.number, .append tail.toNat new.toNat⟩
  | .acknowledge h sequence => some ⟨h.controller, h.number, .acknowledge sequence⟩
  | .status h => some ⟨h.controller, h.number, .status⟩
  | .restart h => some ⟨h.controller, h.number, .restart⟩
  | .portReset h port => some ⟨h.controller, h.number, .portReset port.toNat⟩
  | _ => none

/-- The body of a request command at a part (R200). -/
def State.bodyOfRequest (s : State) (c : Instr) : List Byte :=
  match requestParts c with
  | some (h, kind, args) => requestBody s.part.node h kind args
  | none => []

/-- Handles and cells of the store are accounted for (R1, R2): the handles are H0 to H511, each listed once; every
cell of a chain is one of 0 to 4095 and lies in one chain, once; and the octets are in canonical form, inside the
store. -/
def StoresOk (s : State) : Prop :=
  Table.risingFrom 0 s.buf.handles = true ∧ (∀ e ∈ s.buf.handles, e.1 < 512) ∧
  s.heldCells.Nodup ∧ (∀ c ∈ s.heldCells, c < 4096) ∧
  Memory.wf s.buf.octets = true ∧ ∀ e ∈ s.buf.octets, e.1 < 4096 * 64

/-- Every chain has the cells its body needs (R6). -/
def ChainsFit (s : State) : Prop := ∀ e ∈ s.buf.handles, e.2.chain.length = cellsFor e.2.bodyLength

/-- The members of the collections of R3, each with the holder that names its collection. -/
def State.members (s : State) : List (Nat × Holder) :=
  allPorts.flatMap (fun p =>
    (match (s.port p).ingress with
     | .receiving h _ => [(h, .ingress p)]
     | _ => []) ++ (s.port p).egress.map fun h => (h, .egress p)) ++
  Tier.all.flatMap (fun t => (s.queue t).members.map fun h => (h, .tierQueue t)) ++
  s.tx.active.toList.map (fun h => (h, .trunkActive)) ++ s.tx.stack.map (fun h => (h, .trunkSuspended)) ++
  Tier.all.flatMap (fun t =>
    match s.context t with
    | .opened a => a.handle.toList.map fun h => (h, .reassembly t)
    | _ => []) ++
  s.agent.inbox.map fun h => (h, .inbox)

/-- Every held handle appears exactly once, in the collection that its holder names, and no FREE handle appears in
any (R3); no handle is left in AGENT_BUILD (R15). -/
def HoldersOk (s : State) : Prop :=
  (s.members.map fun m => m.1).Nodup ∧
  (∀ m ∈ s.members, ∃ r, s.handle? m.1 = some r ∧ r.holder = m.2) ∧
  ∀ e ∈ s.buf.handles, (e.1, e.2.holder) ∈ s.members

/-- How a request comes to be executed (R13, R149): by its own command, where it joins an empty inbox with the agent IDLE
(the model's delivery, notes/assumptions/6.md); or as the head `k` of the inbox with the requests `behind` after it, at the
attempt event of the IDLE agent or at the retry of the WAITING one. -/
inductive Turn where
  | arrival
  | attempt (k : Nat) (behind : List Nat)
  | retry (k : Nat) (behind : List Nat)
  deriving DecidableEq, Repr

/-- The command at which a request, whose own command is `x`, is executed. -/
def Turn.command (x : Instr) : Turn → Instr
  | .arrival => x
  | .attempt _ _ => .agentAttemptEvent
  | .retry _ _ => .agentRetry

/-- The request's handle, where the request holds one before the command. -/
def Turn.asked : Turn → List Nat
  | .arrival => []
  | .attempt k _ => [k]
  | .retry k _ => [k]

/-- The requests that wait behind it. -/
def Turn.behind : Turn → List Nat
  | .arrival => []
  | .attempt _ l => l
  | .retry _ l => l

/-- The head of the inbox is a request of the kind and with the operands of command `x`, and the stores hold a reply of
`n` octets (R150).  Its body may be longer than that of the command (R153). -/
def State.Heads (s : State) (x : Instr) (h : ReqHeader) (n k : Nat) (behind : List Nat) : Prop :=
  HoldersOk s ∧ ChainsFit s ∧ s.agent.inbox = k :: behind ∧ decodeRequest (s.bodyOf k) = requestOf x ∧
  word16At (s.bodyOf k) 2 = h.replyTag ∧ 1 ≤ s.freeHandles ∧ cellsFor n ≤ s.freeCells

/-- The conditions under which the request of command `x` is executed at a turn and answered with a reply of `n` octets.
Its controller has not used its number last (R156).  For an arrival the agent is IDLE with an empty inbox, the body is no
longer than a frame's (R132), and the stores hold a handle and the cells for the request and for the reply (R9, R149,
R150); for the head of the inbox they hold those of the reply. -/
def State.Answers (s : State) (w : Turn) (x : Instr) (h : ReqHeader) (n : Nat) : Prop :=
  StoresOk s ∧ s.releaseEvents = 0 ∧ (∀ r, s.agent.records.get h.controller = some r → r.number ≠ h.number) ∧
  match w with
  | .arrival => (s.bodyOfRequest x).length ≤ 2048 ∧ s.agent.state = .idle ∧ s.agent.inbox = [] ∧ 2 ≤ s.freeHandles ∧
      cellsFor (s.bodyOfRequest x).length + cellsFor n ≤ s.freeCells
  | .attempt k behind => s.agent.state = .idle ∧ s.Heads x h n k behind
  | .retry k behind => s.agent.state = .waiting ∧ s.Heads x h n k behind

/-- The octets of a reply (R201); `kind` is the request's kind code. -/
def State.replyOctets (s : State) (h : ReqHeader) (kind : Byte) (st : Status) (repeated : Bool) (payload : List Byte) :
    List Byte :=
  octets2 h.replyTag ++
    [s.part.node.setWidth 8, BitVec.ofNat 8 h.controller.val, h.number, kind, statusCode st, flagCode repeated] ++ payload

/-- The reply stands behind the frames of the T0 queue, or is the active frame (R90, R151), with the octets of R201. -/
def Replies (s t : State) (h : ReqHeader) (kind : Byte) (st : Status) (repeated : Bool) (payload : List Byte) : Prop :=
  ∃ r, (r ∈ (t.queue .t0).members ∨ t.tx.active = some r) ∧ t.bodyOf r = s.replyOctets h kind st repeated payload

/-- The reply of an execution that also let a notice be sent goes up the trunk ahead of the notice frame (R151, R177): the
two stand in that order behind the frames of the T0 queue, or the reply is the active frame and the notice frame follows
it.  The notice frame's handle was FREE or was the request's own (R13), which is otherwise FREE. -/
def RepliesThenNotifies (w : Turn) (s t : State) (reply notice : List Byte) : Prop :=
  ∃ r k, r ≠ k ∧ t.bodyOf r = reply ∧ t.bodyOf k = notice ∧ s.handle? r = none ∧ (s.handle? k = none ∨ k ∈ w.asked) ∧
    (∀ x ∈ w.asked, x = k ∨ t.handle? x = none) ∧
    (s.tx.mode ≠ .idle → (t.queue .t0).members = (s.queue .t0).members ++ [r, k]) ∧
    (s.tx.mode = .idle → (s.queue .t0).members = [] → s.tx.stack = [] →
      t.tx.active = some r ∧ (t.queue .t0).members = [k])

/-- The agent after an answer: IDLE, the requests behind in the inbox, and the controller's record set, except by a
BAD_REQUEST (R151, R154, R156). -/
def RecordsAnswer (w : Turn) (s t : State) (h : ReqHeader) (st : Status) : Prop :=
  t.agent.state = .idle ∧ t.agent.inbox = w.behind ∧
  t.agent.records = if st = .badRequest then s.agent.records else
    s.agent.records.set h.controller.val (some { number := h.number, status := st })

/-- What the answer of a request leaves beside the effect of the request itself: the frames join the T0 queue alone
(and are selected only where the transmitter was IDLE, R90), the line changes only in what it has sent, and every
frame but those in `gone` keeps its handle and its octets. -/
def AnswerFrame (gone : List Nat) (s t : State) : Prop :=
  t.line = { s.line with sent := t.line.sent } ∧
  (∀ k r, k ∉ gone → s.handle? k = some r → ∀ x ∈ r.chain, ∀ i, i < 64 →
    Memory.read t.buf.octets (64 * x + i) = Memory.read s.buf.octets (64 * x + i)) ∧
  (s.tx.mode ≠ .idle →
    t.tx = s.tx ∧ t.line = s.line ∧ (∀ u, u ≠ .t0 → (t.queue u).members = (s.queue u).members) ∧
    (s.queue .t0).members <+: (t.queue .t0).members ∧
    ∀ k r, k ∉ gone → s.handle? k = some r → t.handle? k = some r)

/-- A request has been answered with a status and a payload: the record, the reply and the frame; and the request's own
handle is FREE, unless the release event of its release sent a notice (R13, R151). -/
def Answered (w : Turn) (gone : List Nat) (s t : State) (h : ReqHeader) (kind : Byte) (st : Status)
    (payload : List Byte) : Prop :=
  RecordsAnswer w s t h st ∧ Replies s t h kind st false payload ∧ AnswerFrame (w.asked ++ gone) s t ∧
  (t.notices = s.notices → ∀ k ∈ w.asked, t.handle? k = none)

/-- The blocks the answering of a request itself may change. -/
def answerBlocks : List Block := [.buf, .queues, .tx, .line, .agent, .notices]

/-- With no notice claim pending, the notice queue stands as it stood. -/
def KeepsNotices (s t : State) : Prop := s.notices.pending = false → t.notices = s.notices

/-- The window after an answer that does not change its holder: its idle timer restarts when the controller octet
names the holder (R151, R158). -/
def touched (controller : Nat) : Option Window → Option Window
  | none => none
  | some w => if controller = w.holder.val then some { w with idle := 0 } else some w

/-- The window is held by controller `c` on a table (R157). -/
def State.Holds (s : State) (c : Controller) (table : TableName) (base : Nat) : Prop :=
  ∃ idle, s.agent.window = some { holder := c, table := table, base := base, idle := idle }

/-- A READ or WRITE lies inside the window and its table (R161, R162). -/
def InWindow (table : TableName) (base offset count most : Nat) : Prop :=
  1 ≤ count ∧ count ≤ most ∧ offset + count ≤ 64 ∧ base + offset + count - 1 < tableEntries table

/-- Entry `k` of a WRITE's octets, and whether its codes fail in a table (R205). -/
def writtenEntry (table : TableName) (data : List Byte) (k : Nat) : List Byte :=
  (data.drop (k * entrySize table)).take (entrySize table)

def entryFails (table : TableName) (l : List Byte) : Prop :=
  match table with
  | .stream => parseStream l = none
  | .allot => parseAllot l = none
  | .tier => parseTier l = none
  | .port => parsePort l = none
  | _ => False

/-- The written values `l` are those that the first `count` entries of a WRITE spell. -/
def Spell {α β : Type} (parse : List Byte → Option β) (octets : α → List Byte) (es : List α) (count : Nat)
    (l : List β) : Prop :=
  l.length = count ∧ ∀ (k : Nat) (v : β), l[k]? = some v → ∃ e, es[k]? = some e ∧ parse (octets e) = some v

/-- The verdicts on a head request that change at most the window: BAD_REQUEST, an answer from the repeat filter, a
refusal, a SELECT or a RELEASE. -/
def Verdict.plain : Verdict → Bool
  | .malformed => true
  | .repeated _ => true
  | .fresh _ (.refuse _) => true
  | .fresh _ (.done (.select _ _)) => true
  | .fresh _ (.done .release) => true
  | _ => false

/-- The octets in which a runtime reads (R204, R205): its state, cursor and remaining budget, with 0 where a field has no
meaning. -/
def runtimeReads : Runtime → List Byte
  | .unmetered => [0x00, 0x00, 0x00, 0x00, 0x00, 0x00]
  | .metered c .unbounded => [0x01] ++ octets2 (BitVec.ofNat 16 c.val) ++ [0x00, 0x00, 0x00]
  | .metered c (.octets n) => [0x01] ++ octets2 (BitVec.ofNat 16 c.val) ++ octets3 (BitVec.ofNat 24 n)
  | .exhausted c => [0x02] ++ octets2 (BitVec.ofNat 16 c.val) ++ [0x00, 0x00, 0x00]

/-- The octets in which a notice record reads (R165, R199, R202, R204): kind, subject, detail, and the sequence number and
sends, which are 0 while it is QUEUED. -/
def noticeReads (r : NoticeRecord) : List Byte :=
  (match r.notice with
   | .announce c node => [0x01, 0x00, if c = .power then 0x01 else 0x02, node.setWidth 8, 0x00, 0x00]
   | .chainEnd i a => [0x02, BitVec.ofNat 8 i.val, 0x00, 0x00] ++ octets2 (BitVec.ofNat 16 a.val)
   | .sequenceFault q f => [0x03, BitVec.ofNat 8 q.ix.val] ++
       (match f with
        | .gap => [0x01]
        | .reopen => [0x02]
        | .nesting => [0x03]
        | .orphan => [0x04]) ++ [0x00, 0x00, 0x00]
   | .trunkRestored a b c => [0x04, 0x00, BitVec.ofNat 8 a, BitVec.ofNat 8 b, BitVec.ofNat 8 c, 0x00]) ++
  match r.state with
  | .queued => [0x00, 0x00]
  | .sent q k _ => [q, BitVec.ofNat 8 k]

/-- The code of a record index, or of its absence (R199). -/
def indexReads : Option RecordIx → List Byte
  | none => [0xFF, 0xFF]
  | some r => octets2 (BitVec.ofNat 16 r.val)

/-- The causes in the order of the DISCARD table (R188). -/
def causeOrder : List Cause :=
  [.ingressCheck, .ingressLength, .ingressAborted, .noCell, .noHandle, .unknownTag, .wrongPort, .portDisabled, .tierFull,
    .chainEnd, .overbudget, .egressFull, .fragmentCheck, .frameCheck, .sequence, .cleared, .trunkDown, .restartLimit,
    .inboxFull, .flush]

/-- The octets of every entry of the eight tables (R165, R199, R204, R205), read-only fields included. -/
def State.EntriesRead (s : State) : Prop :=
  (∀ i : StreamIx, ∃ flags,
    s.entryOctets .stream i.val = [flags] ++ octets2 (s.stream i.val).tag ++
      [BitVec.ofNat 8 (s.stream i.val).port.val, BitVec.ofNat 8 (s.stream i.val).baseTier.ix.val,
        if (s.stream i.val).endAction = .drop then 0x00 else 0x01] ++
      indexReads (s.stream i.val).chainHead ++ runtimeReads (s.runtime i.val) ∧
    flags.toNat < 8 ∧ flags.getLsbD 0 = (s.stream i.val).valid ∧ flags.getLsbD 1 = (s.stream i.val).whole ∧
    (flags.getLsbD 2 = true ↔ ∃ c, s.runtime i.val = .metered c .unbounded)) ∧
  (∀ r : RecordIx, s.entryOctets .allot r.val = octets3 (s.record r).budget ++
    [match (s.record r).tier with
     | none => 0x04
     | some q => BitVec.ofNat 8 q.ix.val] ++ indexReads (s.record r).next) ∧
  (∀ i : StreamIx, s.entryOctets .streamTally i.val =
    octets4 (s.tally i).framesToTrunk ++ octets4 (s.tally i).octetsToTrunk ++ octets4 (s.tally i).framesDelivered ++
      octets4 (s.tally i).framesDiscarded) ∧
  (∀ q : Tier, s.entryOctets .tier q.ix.val =
    octets2 (BitVec.ofNat 16 (s.queue q).limit) ++ octets2 (BitVec.ofNat 16 (s.queue q).members.length)) ∧
  (∀ p : Port, s.entryOctets .port p.val =
    [if (s.port p).enabled then 0x01 else 0x00, if (s.port p).ingress = .idle then 0x00 else 0x01,
      BitVec.ofNat 8 (s.port p).egress.length]) ∧
  s.entryOctets .part 0 = octets2 s.part.epochPeriod ++ octets2 s.part.noticeTag ++
    [s.part.node.setWidth 8, if s.part.cause = .power then 0x01 else 0x02,
      match s.line.link with
      | .down => 0x00
      | .aligning => 0x01
      | .up => 0x02] ∧
  (∀ (k : Nat) (c : Cause), causeOrder[k]? = some c → s.entryOctets .discard k = octets4 (s.discardCount c)) ∧
  ∀ k, s.entryOctets .notices k = match s.notices.records[k]? with
    | none => [0x00, 0x00, 0x00, 0x00, 0x00, 0x00, 0x00, 0x00]
    | some r => noticeReads r

/-! ## Invariants -/

/-- What an OPEN context holds while its fragment is being stored (R126, R128, R132): no handle before its header has
arrived, a declared length from the header's second octet, and a handle and a tag from its fourth; between fragments
a context always holds a handle.  The received length is the handle's body length and at most the declared length, and the frame's stream is not known.
A STORING fragment belongs to an OPEN context, a TRACKING one to a DISCARDING context and an IGNORED one to a CLOSED
context. -/
def ReceiverOk (s : State) : Prop :=
  (∀ f, s.rx.fragment = some f →
    match f.mode with
    | .storing => ∃ a, s.context f.tier = .opened a ∧
        (f.kind = .first → f.header.length < 4 → a.handle = none) ∧
        (f.kind = .first → 2 ≤ f.header.length → a.declared ≠ none) ∧
        ((f.kind = .next ∨ f.header.length = 4) →
          a.handle ≠ none ∧ a.declared ≠ none ∧ a.tag ≠ none)
    | .tracking => (s.context f.tier).isDiscarding = true
    | .ignored => s.context f.tier = .closed) ∧
  (∀ t a, s.context t = .opened a → (∀ f, s.rx.fragment = some f → f.tier ≠ t) →
    a.handle ≠ none ∧ a.declared ≠ none ∧ a.tag ≠ none) ∧
  ∀ t a, s.context t = .opened a →
    (∀ d, a.declared = some d → 8 ≤ d ∧ d ≤ 2048 ∧ a.received ≤ d) ∧ (a.handle = none → a.received = 0) ∧
    ∀ h r, a.handle = some h → s.handle? h = some r →
      r.holder = .reassembly t ∧ r.stream = none ∧ r.bodyLength = a.received ∧ a.tag = some r.tag

/-- The transmitter is in order (R83, R84, R85, R91 to R95): SENDING is the mode with an active frame and its fragment
record; IDLE leaves no queue and no stack to serve; the active frame and the stack have strictly rising tier numbers;
the fragment record agrees with the active frame's handle; a suspended frame was cut as R95 allows; a queued frame has
its queue's tier; and every frame that is not on the trunk is one to be sent from its beginning. -/
def TransmitterOk (s : State) : Prop :=
  (s.tx.active.isSome = decide (s.tx.mode = .sending)) ∧ (s.tx.fragment.isSome = s.tx.active.isSome) ∧
  (s.tx.mode = .idle → (∀ t, (s.queue t).members = []) ∧ s.tx.stack = []) ∧
  (s.tx.active.toList ++ s.tx.stack).Pairwise (fun a b => (s.tierOf a).moreUrgent (s.tierOf b) = true) ∧
  (∀ h f r, s.tx.active = some h → s.tx.fragment = some f → s.handle? h = some r →
    f.tier = r.tier ∧ f.index = r.nextIndex ∧ f.carried ≤ r.sentOffset ∧
    (f.kind = .first → f.index = 0 ∧ f.carried = r.sentOffset ∧ r.resumeHold = false) ∧
    (f.kind = .next → r.resumeHold = decide (f.carried < 128)) ∧
    (f.closing = .last → r.sentOffset = r.bodyLength) ∧
    (f.closing = .more → 64 ≤ f.carried ∧ 64 ≤ r.bodyLength - r.sentOffset ∧ r.tier ≠ .t0 ∧ r.whole = false ∧
      r.resumeHold = false)) ∧
  (∀ h ∈ s.tx.stack, ∀ r, s.handle? h = some r →
    64 ≤ r.bodyLength - r.sentOffset ∧ r.tier ≠ .t0 ∧ r.whole = false ∧ r.resumeHold = false) ∧
  (∀ t, ∀ h ∈ (s.queue t).members, s.tierOf h = t) ∧
  ∀ e ∈ s.buf.handles, e.2.sentOffset ≤ e.2.bodyLength ∧ e.2.restartCount ≤ 2 ∧
    (e.2.holder ≠ .trunkActive → e.2.holder ≠ .trunkSuspended →
      e.2.sentOffset = 0 ∧ e.2.nextIndex = 0 ∧ e.2.resumeHold = false)

/-- The tables behind the window are in canonical form and hold no index beyond their last (R21, R57, R59, R191). -/
def TablesOk (s : State) : Prop :=
  (Table.wf StreamEntry.invalid s.streams = true ∧ ∀ e ∈ s.streams, e.1 < 256) ∧
  (Table.wf AllotRecord.powerOn s.metering.records = true ∧ ∀ e ∈ s.metering.records, e.1 < 1024) ∧
  (Table.wf Runtime.unmetered s.metering.runtimes = true ∧ ∀ e ∈ s.metering.runtimes, e.1 < 256) ∧
  (Table.wf StreamTally.zero s.tallies.streams = true ∧ ∀ e ∈ s.tallies.streams, e.1 < 256)

/-- What a runtime may be beside its entry (R59): UNMETERED for an entry that is invalid or has no chain head, and
METERED or EXHAUSTED, with at most 16 777 215 octets remaining, for the others. -/
def runtimeAgrees (e : StreamEntry) : Runtime → Prop
  | .unmetered => e.valid = false ∨ e.chainHead = none
  | .metered _ .unbounded => e.valid = true ∧ e.chainHead ≠ none
  | .metered _ (.octets n) => e.valid = true ∧ e.chainHead ≠ none ∧ n < 16777216
  | .exhausted _ => e.valid = true ∧ e.chainHead ≠ none

/-- The stream table and the metering runtimes agree: no two valid entries hold one tag and none holds 0x0000
(R23, R24), an entry that is not valid has the power-on values (R21), and the runtimes agree with the entries
(R59). -/
def StreamsOk (s : State) : Prop :=
  TablesOk s ∧ (validTags s.streams).Nodup ∧ (∀ e ∈ s.streams, e.2.valid = true ∧ e.2.tag ≠ 0) ∧
  ∀ i, runtimeAgrees (s.stream i) (s.runtime i)

/-- The link, the transmitter and the receiver agree (R83, R114 to R119, R122). -/
def LinkOk (s : State) : Prop :=
  (s.line.los = true → s.line.link = .down) ∧ s.line.idleRun ≤ 15 ∧ s.line.invalidRun ≤ 3 ∧
  (s.line.link ≠ .aligning → s.line.idleRun = 0) ∧ (s.line.link ≠ .up → s.line.invalidRun = 0) ∧
  (s.line.link = .up → s.line.beenUp = true) ∧ (s.line.link = .up ↔ s.tx.mode ≠ .offline) ∧
  (s.tx.mode ≠ .sending → s.tx.active = none ∧ s.tx.fragment = none ∧ s.tx.stack = []) ∧
  (s.line.link ≠ .up → s.rx.fragment = none ∧ ∀ t, s.context t = .closed)

/-- The record at the head is SENT with fewer or as many sends as given. -/
def NoticeQueue.headSent (q : NoticeQueue) (most : Nat) : Prop :=
  ∃ n seq k lost rest, q.records = { notice := n, state := .sent seq k lost } :: rest ∧ 1 ≤ k ∧ k ≤ most

/-- The notice queue is in order (R173, R174, R177, R180): at most 16 records, only the first may be SENT, no two
QUEUED records share kind and subject; the resend timer runs or is held beside a SENT record, as the link and the
notice tag ask, and is stopped otherwise or while a claim is pending; and no first send that could be made waits. -/
def NoticesOk (s : State) : Prop :=
  s.notices.records.length ≤ 16 ∧ (∀ r ∈ s.notices.records.tail, r.state = .queued) ∧
  (s.notices.records.filter fun r => !r.isSent).Pairwise (fun a b => a.notice.sameMatter b.notice = false) ∧
  s.notices.lost ≤ 255 ∧
  (match s.notices.timer with
   | .stopped =>
     (s.notices.pending = false → ∀ r ∈ s.notices.records, r.state = .queued) ∧
     (s.notices.pending = true →
       s.notices.records ≠ [] ∧ ((∀ r ∈ s.notices.records, r.state = .queued) ∨ s.notices.headSent 3))
   | .running _ => s.notices.headSent 4 ∧ s.notices.pending = false ∧ s.noticesOpen = true
   | .held _ => s.notices.headSent 4 ∧ s.notices.pending = false ∧ s.noticesOpen = false) ∧
  s.firstSendReady = false

/-- The bounds of the ports' queues and hold-backs, the limits, the receiver's fragment record and the inbox
(R40, R51, R81, R128, R148). -/
def BoundsOk (s : State) : Prop :=
  (∀ p, (s.port p).egress.length ≤ 32 ∧
    ∀ h hold, (s.port p).ingress = .receiving h hold → hold.length ≤ 4) ∧
  (∀ t, 1 ≤ (s.queue t).limit ∧ (s.queue t).limit ≤ 511) ∧
  (∀ f, s.rx.fragment = some f → f.header.length ≤ 4 ∧ f.hold.length ≤ 6) ∧
  s.agent.inbox.length ≤ 4

end Sys2Proof.Machine
end

