-- ==== Sys2Proof/Certificates/Slice0/Obligations.lean ====
section
/-! DEFINITION. The statements about the part, chapter by chapter.  The terms they use (frames, discards, answers,
invariants) are in Safety.lean. -/

open Sys2Proof Sys2Proof.Machine

/-! ## The command queue, the tick and power-on reset -/

/-- A step takes the command at the front of the queue and runs it with the queue's rest. -/
def Obligations.StepRunsFrontCommand : Prop :=
  ∀ (x : Instr) (s : State) (rest : List Instr), s.pending = x :: rest → step s = exec x (s.withPending rest)

/-- No command stops the part; no command touches the commands that wait; a command leaves no release event untaken
(R13); and the node number is latched by power-on reset and stands until the next one (R147), a request being
addressed by it or by the broadcast tag, at an unnumbered part by the broadcast tag alone.  The model's choices in it:
a command whose event cannot occur in its state answers all the same (notes/assumptions/1.md), POWER_ON_RESET leaves
the commands that wait (notes/assumptions/3.md), and the release events of a command are all taken within it
(notes/assumptions/7.md). -/
def Obligations.WhatEveryCommandKeeps : Prop :=
  (∀ (x : Instr) (s : State), ∃ t, exec x s = .next t ∧ t.pending = s.pending ∧
    (s.releaseEvents = 0 → t.releaseEvents = 0) ∧
    t.part.node = match x with
      | .powerOnReset straps _ => straps
      | _ => s.part.node) ∧
  (∀ s t : State, s.pending = [] → step s = .next t → t.part.node = s.part.node) ∧
  ∀ (node : BitVec 6) (tag : Tag), addressesPart node tag = true ↔
    tag = 0xFFFF ∨ (node ≠ 63 ∧ tag = 0xFFC0 + node.setWidth 16)

/-- The step on an empty queue is one tick of 100 microseconds (the model's choice, notes/assumptions/5.md): the
epoch timer counts to its period (R73), the window idle timer to 250 ms (R158), the resend timer to 20 ms (R180), and
each expiry is the command of that expiry. -/
def Obligations.EmptyQueueStepIsATick : Prop :=
  ∀ s : State, s.pending = [] →
    ∃ u t, step s = .next t ∧ ChangesOnly [.metering, .agent] s u ∧
      (s.part.epochPeriod = 0 → u.metering = s.metering) ∧
      (s.part.epochPeriod ≠ 0 → s.metering.epochElapsed + 1 < s.part.epochPeriod.toNat →
        u.metering = { s.metering with epochElapsed := s.metering.epochElapsed + 1 }) ∧
      (s.part.epochPeriod ≠ 0 → s.part.epochPeriod.toNat ≤ s.metering.epochElapsed + 1 →
        ∃ v, exec .epochExpiry s = .next v ∧ u.metering = v.metering) ∧
      u.agent = { s.agent with
        window := match s.agent.window with
          | none => none
          | some w => if w.idle + 1 < 2500 then some { w with idle := w.idle + 1 } else none } ∧
      (match s.notices.timer with
       | .running e =>
         (e + 1 < 200 → t = u.withNotices { s.notices with timer := .running (e + 1) }) ∧
         (200 ≤ e + 1 → exec .resendTimerExpiry u = .next t)
       | _ => t = u)

/-- After power-on reset every handle and every cell is free, and the first grants are H0 and cell 0. -/
def Obligations.PowerOnStoresAreFree : Prop :=
  ∀ (straps : BitVec 6) (los : Bool) (s : State), ∃ t, exec (.powerOnReset straps los) s = .next t ∧
    (∀ h, h < 512 → t.handle? h = none) ∧ (∀ i, i < 4096 → i ∉ t.heldCells) ∧ t.members = [] ∧ t.NoWaiter ∧
    t.freeHandles = 512 ∧ t.freeCells = 4096 ∧
    (∀ u : State, u.handleGranted false = decide (16 < u.freeHandles) ∧
      u.cellGranted false = decide (128 < u.freeCells)) ∧
    (∀ mgmt holder tag tier stream, ∃ u, t.claimHandle mgmt holder tag tier stream = some (0, u) ∧
      ∀ m b, ∃ v r, u.appendOctet m 0 b = some v ∧ v.handle? 0 = some r ∧ r.chain = [0]) ∧
    ∀ tag n, 1 ≤ cellsFor n → cellsFor n ≤ 4096 →
      ∃ u r, t.claimCompound tag n = some (0, u) ∧ u.handle? 0 = some r ∧ r.chain.head? = some 0

/-- Power-on reset sets every block (R18, R34, R56, R78, R108, R114, R145, R172, R186, R195), the node number and
the link state from the straps and the level of TRK_LOS; the octets of the cell store and the commands that wait are
left (the model's choice, notes/assumptions/3.md). -/
def Obligations.PowerOnResetSetsEveryBlock : Prop :=
  ∀ (straps : BitVec 6) (los : Bool) (s : State), ∃ t, exec (.powerOnReset straps los) s = .next t ∧
    t.buf = { handles := [], octets := s.buf.octets } ∧ t.pending = s.pending ∧
    (∀ i, t.stream i = { valid := false, tag := 0, port := 0, baseTier := .t3, whole := false, chainHead := none,
                         endAction := .drop } ∧ t.runtime i = .unmetered) ∧
    (∀ r, t.record r = { budget := 0, tier := none, next := none }) ∧ t.metering.epochElapsed = 0 ∧
    (∀ p, (t.port p).enabled = false ∧ (t.port p).ingress = .idle ∧ (t.port p).egress = [] ∧
      (t.port p).sent = [.idle]) ∧
    (∀ q, t.queue q = { limit := 128, members := [] }) ∧
    t.tx = { mode := .offline, active := none, fragment := none, stack := [] } ∧
    t.line.link = (if los then .down else .aligning) ∧ t.line.los = los ∧ t.line.idleRun = 0 ∧
    t.line.invalidRun = 0 ∧ t.line.beenUp = false ∧ t.line.returned = 0 ∧ t.line.discarded = 0 ∧
    t.line.contexts = 0 ∧ t.line.sent = [.idle] ∧
    (∀ q, t.context q = .closed) ∧ t.rx.fragment = none ∧
    t.agent.state = .idle ∧ t.agent.inbox = [] ∧ t.agent.window = none ∧ (∀ i, t.agent.records.get i = none) ∧
    t.part = { epochPeriod := 0, noticeTag := 0, node := straps, cause := .power } ∧
    t.notices = { records := [{ notice := .announce .power straps, state := .queued }], counter := 0, lost := 0,
                  timer := .stopped, pending := false } ∧
    (∀ k, t.discardCount k = 0) ∧
    (∀ i, t.tally i = { framesToTrunk := 0, octetsToTrunk := 0, framesDelivered := 0, framesDiscarded := 0 }) ∧
    t.releaseEvents = 0

/-- The state after power-on reset meets every invariant of this file, whatever the straps and TRK_LOS. -/
def Obligations.ResetMeetsEveryInvariant : Prop :=
  ∀ (straps : BitVec 6) (los : Bool), StoresOk (State.powerOnWith straps los) ∧
    ChainsFit (State.powerOnWith straps los) ∧ HoldersOk (State.powerOnWith straps los) ∧
    ReceiverOk (State.powerOnWith straps los) ∧ TransmitterOk (State.powerOnWith straps los) ∧
    StreamsOk (State.powerOnWith straps los) ∧ LinkOk (State.powerOnWith straps los) ∧
    NoticesOk (State.powerOnWith straps los) ∧ BoundsOk (State.powerOnWith straps los) ∧
    (State.powerOnWith straps los).NoWaiter

/-! ## Line codes, requests and entries -/

/-- The codes of every symbol decode to it on its own line, and the received marker codes are those of R196. -/
def Obligations.LineCodesRoundTrip : Prop :=
  (∀ x : TrunkSymbol, decodeTrunkCode (encodeTrunkSymbol x) = x) ∧
  (∀ x : TribSymbol, decodeTribCode (encodeTribSymbol x) = x) ∧
  (∀ v, decodeTrunkCode (.data v) = .data v ∧ decodeTribCode (.data v) = .data v) ∧
  decodeTrunkCode .undecodable = .invalid ∧ decodeTribCode .undecodable = .invalid ∧
  (∀ v : Byte, decodeTrunkCode (.marker v) = .invalid ↔ ¬ (v.toNat < 4 ∨ 16 ≤ v.toNat ∧ v.toNat < 20 ∨
    32 ≤ v.toNat ∧ v.toNat < 64)) ∧
  (∀ v : Byte, decodeTribCode (.marker v) = .invalid ↔ ¬ (v.toNat = 0 ∨ v.toNat = 0x40 ∨ v.toNat = 0x41 ∨
    v.toNat = 0x42)) ∧
  (∀ v : Byte, decodeTrunkCode (.marker v) ≠ .invalid → encodeTrunkSymbol (decodeTrunkCode (.marker v)) = .marker v) ∧
  ∀ v : Byte, decodeTribCode (.marker v) ≠ .invalid → encodeTribSymbol (decodeTribCode (.marker v)) = .marker v

/-- The body of every request command decodes to that request, with every operand (R153, R200, R203), and the command
delivers that body to the agent whole, in one event; that delivery, and the broadcast tag on a request to the own tag
of an unnumbered part, are the model's choices (notes/assumptions/6.md). -/
def Obligations.RequestBodiesDecode : Prop :=
  ∀ (x : Instr) (s : State) (h : ReqHeader) (kind : Byte) (args : List Byte), requestParts x = some (h, kind, args) →
    decodeRequest (s.bodyOfRequest x) = requestOf x ∧ (requestOf x).isSome = true ∧
    word16At (s.bodyOfRequest x) 0 = requestTag s.part.node h.broadcast ∧
    word16At (s.bodyOfRequest x) 2 = h.replyTag ∧ 8 ≤ (s.bodyOfRequest x).length ∧
    exec x s = .next (s.deliverRequest h.tier (s.bodyOfRequest x)).settle

/-- What a READ returns of an entry, written back, is that entry (R204): for each of the writable tables the
octets have the entry size of R161 and parse to what was read. -/
def Obligations.TableEntriesRoundTrip : Prop :=
  (∀ (e : StreamEntry) (rt : Runtime), (e.valid = true → e.tag ≠ 0) → (e.valid = false → e = StreamEntry.invalid) →
    (streamOctets e rt).length = 14 ∧ parseStream (streamOctets e rt) = some e) ∧
  (∀ r : AllotRecord, (allotOctets r).length = 6 ∧ parseAllot (allotOctets r) = some r) ∧
  (∀ v : StreamTally, (tallyOctets v).length = 16 ∧ parseTally (tallyOctets v) = some v) ∧
  (∀ (s : State) (q : Tier), 1 ≤ (s.queue q).limit → (s.queue q).limit ≤ 511 →
    (s.entryOctets .tier q.ix.val).length = 4 ∧ parseTier (s.entryOctets .tier q.ix.val) = some (s.queue q).limit) ∧
  (∀ (s : State) (p : Port), (s.entryOctets .port p.val).length = 3 ∧
    parsePort (s.entryOctets .port p.val) = some (s.port p).enabled) ∧
  (∀ s : State, (s.entryOctets .part 0).length = 7 ∧
    parsePart (s.entryOctets .part 0) = some (s.part.epochPeriod, s.part.noticeTag)) ∧
  (∀ (s : State) (i : Fin 20), (s.entryOctets .discard i.val).length = 4 ∧
    parseDiscard (s.entryOctets .discard i.val) = some (s.tallies.discards.get i)) ∧
  ∀ (s : State) (i : Nat), (s.entryOctets .notices i).length = 8

/-- The codes that fail in a written entry are those of R205, and a written entry that passes has the value its
octets spell. -/
def Obligations.WrittenCodesThatFail : Prop :=
  (∀ e : StreamWords,
    (e.flags.getLsbD 0 = false → parseStream (StreamWords.octets e) = some StreamEntry.invalid) ∧
    (e.flags.getLsbD 0 = true →
      ((e.tag = 0 ∨ 7 < e.port.toNat ∨ 3 < e.baseTier.toNat ∨ 1 < e.endAction.toNat ∨
          (1024 ≤ e.chainHead.toNat ∧ e.chainHead ≠ 0xFFFF)) ↔ parseStream (StreamWords.octets e) = none) ∧
      ∀ v, parseStream (StreamWords.octets e) = some v →
        v.valid = true ∧ v.tag = e.tag ∧ v.port.val = e.port.toNat ∧ tierCode v.baseTier = e.baseTier ∧
        v.whole = e.flags.getLsbD 1 ∧ recordCode v.chainHead = e.chainHead ∧ endActionCode v.endAction = e.endAction)) ∧
  (∀ e : AllotWords,
    ((4 < e.tier.toNat ∨ (1024 ≤ e.next.toNat ∧ e.next ≠ 0xFFFF)) ↔ parseAllot (AllotWords.octets e) = none) ∧
    ∀ v, parseAllot (AllotWords.octets e) = some v →
      v.budget = e.budget ∧ recordCode v.next = e.next ∧ (v.tier = none ↔ e.tier = 4) ∧
      ∀ q, v.tier = some q → tierCode q = e.tier) ∧
  (∀ e : TallyWords, parseTally (TallyWords.octets e) =
    some { framesToTrunk := e.framesToTrunk, octetsToTrunk := e.octetsToTrunk, framesDelivered := e.framesDelivered
           framesDiscarded := e.framesDiscarded }) ∧
  (∀ e : TierWords, parseTier (TierWords.octets e) =
    if 1 ≤ e.limit.toNat ∧ e.limit.toNat ≤ 511 then some e.limit.toNat else none) ∧
  (∀ e : PortWords, parsePort (PortWords.octets e) =
    if e.enabled = 0 then some false else if e.enabled = 1 then some true else none) ∧
  (∀ e : PartWords, parsePart (PartWords.octets e) = some (e.epochPeriod, e.noticeTag)) ∧
  ∀ v : BitVec 32, parseDiscard (octets4 v) = some v

/-! ## Invariants that every step keeps -/

/-- The two free stores: the handles listed are H0 to H511 once each, no cell is in two chains, and free and held
always make up 512 handles and 4096 cells (R1, R2). -/
def Obligations.StoresStayAccounted : Prop :=
  ∀ s t : State, StoresOk s → step s = .next t →
    StoresOk t ∧ t.freeHandles + t.buf.handles.length = 512 ∧ t.freeCells + t.heldCells.length = 4096

/-- Every held handle is in exactly the collection its holder names, once, and no FREE handle is in any (R3, R15);
the contexts hold what their fragments have brought (R126, R128, R132). -/
def Obligations.HoldersStayAccounted : Prop :=
  ∀ s t : State, StoresOk s → LinkOk s → ReceiverOk s → HoldersOk s → step s = .next t → ReceiverOk t ∧ HoldersOk t

/-- A chain always has the cells its body needs: its length divided by 64 and rounded up (R6). -/
def Obligations.ChainsStayFit : Prop :=
  ∀ s t : State, StoresOk s → LinkOk s → ReceiverOk s → HoldersOk s → ChainsFit s → step s = .next t → ChainsFit t

/-- The stream table holds no two valid entries with one tag (R24) and no valid entry with tag 0x0000 (R23), an
invalid entry has the power-on values (R21), and every runtime is one its entry allows (R59).
A lookup answers the one valid entry that holds a tag (R26), and none for 0x0000 (R22). -/
def Obligations.StreamsStayUnique : Prop :=
  (∀ s t : State, StreamsOk s → step s = .next t → StreamsOk t) ∧
  ∀ (s : State) (tag : Tag), StreamsOk s →
    (∀ i : StreamIx, s.lookup tag = some i ↔ (s.stream i.val).valid = true ∧ (s.stream i.val).tag = tag) ∧
    (s.lookup tag = none ↔ ∀ i : StreamIx, (s.stream i.val).valid = true → (s.stream i.val).tag ≠ tag) ∧
    s.lookup 0 = none

/-- The link state, TRK_LOS, the runs, the transmitter's mode and the receiver agree (R83, R114 to R122), and the
bounds of the queues, hold-backs, limits and the inbox hold (R40, R51, R81, R128, R148), after every step. -/
def Obligations.LinkStaysInOrder : Prop :=
  (∀ s t : State, LinkOk s → step s = .next t → LinkOk t) ∧
  ∀ s t : State, BoundsOk s → step s = .next t → BoundsOk t

/-- The notice queue stays in order (R173 to R184). -/
def Obligations.NoticesStayInOrder : Prop :=
  ∀ s t : State, NoticesOk s → step s = .next t → NoticesOk t

/-- The active frame, its fragment, the stack and the queues stay in order (R83 to R85, R91 to R95). -/
def Obligations.TransmitterStaysInOrder : Prop :=
  ∀ s t : State, StoresOk s → LinkOk s → ReceiverOk s → HoldersOk s → TransmitterOk s → step s = .next t →
    TransmitterOk t ∧ t.tx.stack.length ≤ 3

/-! ## The buffer manager -/

/-- Handle claims (R4, R8, R9, R10): an ordinary claim is granted while more than 16 handles are free, a management
claim while one is; a grant takes the lowest-numbered FREE handle and writes its first values; a refusal leaves no
changed state.
A compound claim (R9) takes one handle and the cells of an n-octet body in one event, or nothing. -/
def Obligations.ClaimsTakeTheLowest : Prop :=
  (∀ (s : State) (mgmt : Bool) (holder : Holder) (tag : Tag) (tier : Tier) (stream : Option StreamIx), StoresOk s →
     ((if mgmt then 1 ≤ s.freeHandles else 16 < s.freeHandles) →
       ∃ h u, s.claimHandle mgmt holder tag tier stream = some (h, u) ∧ h < 512 ∧ s.handle? h = none ∧
         (∀ k, k < h → s.handle? k ≠ none) ∧
         u.handle? h = some { holder := holder, tag := tag, stream := stream, tier := tier, bodyLength := 0, chain := []
                              sentOffset := 0, nextIndex := 0, restartCount := 0, whole := false, resumeHold := false } ∧
         KeepsHandles [h] s u ∧ u.buf.octets = s.buf.octets ∧ u.freeHandles + 1 = s.freeHandles ∧
         u.freeCells = s.freeCells ∧ ChangesOnly [.buf] s u) ∧
     (¬ (if mgmt then 1 ≤ s.freeHandles else 16 < s.freeHandles) →
       s.claimHandle mgmt holder tag tier stream = none)) ∧
  ∀ (s : State) (tag : Tag) (n : Nat), StoresOk s →
    (1 ≤ s.freeHandles → cellsFor n ≤ s.freeCells →
      ∃ h u cells, s.claimCompound tag n = some (h, u) ∧ s.handle? h = none ∧ (∀ k, k < h → s.handle? k ≠ none) ∧
        u.handle? h = some { holder := .agentBuild, tag := tag, stream := none, tier := .t0, bodyLength := 0
                             chain := cells, sentOffset := 0, nextIndex := 0, restartCount := 0, whole := false
                             resumeHold := false } ∧
        cells.length = (n + 63) / 64 ∧ (∀ x ∈ cells, x ∉ s.heldCells) ∧ StoresOk u ∧ KeepsHandles [h] s u ∧
        u.buf.octets = s.buf.octets ∧ u.freeHandles + 1 = s.freeHandles ∧
        u.freeCells + (n + 63) / 64 = s.freeCells ∧ ChangesOnly [.buf] s u) ∧
    (¬ (1 ≤ s.freeHandles ∧ (n + 63) / 64 ≤ s.freeCells) → s.claimCompound tag n = none)

/-- Storing a body octet (R1, R6, R8, R9, R10): at an offset that is a multiple of 64 a cell is claimed first, the
lowest-numbered free one, ordinary claims while more than 128 are free and management claims while one is; the octet
becomes body octet k, at position k mod 64 of the cell at place k div 64; every other octet of the store stands. -/
def Obligations.OctetsAreStoredInOrder : Prop :=
  ∀ (s : State) (mgmt : Bool) (h : Nat) (b : Byte) (r : Handle), StoresOk s → s.handle? h = some r →
    r.chain.length = cellsFor r.bodyLength →
    (r.bodyLength % 64 = 0 → ¬ (if mgmt then 1 ≤ s.freeCells else 128 < s.freeCells) →
      s.appendOctet mgmt h b = none) ∧
    ((r.bodyLength % 64 = 0 → if mgmt then 1 ≤ s.freeCells else 128 < s.freeCells) →
      ∃ u v, s.appendOctet mgmt h b = some u ∧
        u.handle? h = some { r with bodyLength := r.bodyLength + 1, chain := v } ∧
        (r.bodyLength % 64 ≠ 0 → v = r.chain) ∧
        (r.bodyLength % 64 = 0 → ∃ x, v = r.chain ++ [x] ∧ x < 4096 ∧ x ∉ s.heldCells ∧ ∀ y, y < x → y ∈ s.heldCells) ∧
        u.bodyOf h = s.bodyOf h ++ [b] ∧ KeepsHandles [h] s u ∧ ChangesOnly [.buf] s u ∧
        KeepsOctetsBut (64 * v.getD (r.bodyLength / 64) 0 + r.bodyLength % 64) s u)

/-- A release (R12, R13, R14): the handle is FREE, its cells are free, and one release event is raised; a discard
counts its cause and its stream besides (R189, R190).

The order of a release event (R13): the agent's retry first, then the notice queue's, unless the agent's was
refused; none where nothing waits.  An event's release events are taken one after another when it ends (the model's
choice, notes/assumptions/7.md). -/
def Obligations.ReleasesAndTheirEvents : Prop :=
  (∀ (s : State) (h : Nat) (r : Handle), StoresOk s → s.handle? h = some r →
     (s.release h).handle? h = none ∧ KeepsHandles [h] s (s.release h) ∧ (∀ x ∈ r.chain, x ∉ (s.release h).heldCells) ∧
     (s.release h).freeHandles = s.freeHandles + 1 ∧ (s.release h).freeCells = s.freeCells + r.chain.length ∧
     (s.release h).buf.octets = s.buf.octets ∧ (s.release h).releaseEvents = s.releaseEvents + 1 ∧
     ChangesOnly [.buf, .releaseEvents] s (s.release h) ∧
     ∀ k, Discarded s (s.discard k h) k h ∧ (s.discard k h).buf = (s.release h).buf ∧
       ChangesOnly [.buf, .tallies, .releaseEvents] s (s.discard k h)) ∧
  ∀ s : State,
    (s.agent.state = .idle → s.notices.pending = false → s.settle = s.withReleaseEvents 0) ∧
    (s.releaseEvents = 0 → s.settle = s) ∧
    (s.agent.state = .idle → exec .noticeClaimRetry s = .next s.releaseEvent) ∧
    (s.agent.state = .waiting → ∃ u, exec .agentRetry s = .next u ∧
      (u.agent.state = .waiting → s.releaseEvent = u) ∧
      (u.agent.state = .idle → exec .noticeClaimRetry u = .next s.releaseEvent)) ∧
    ∀ n, s.releaseEvents = n + 1 →
      s.settle = ((s.withReleaseEvents 0).releaseEvent.withReleaseEvents n).settle

/-! ## The tributaries -/

/-- OPEN on a tributary (R41, R47): a frame in progress is discarded with cause INGRESS_ABORTED, and the enabled
field decides between TAG_WAIT and IDLE. -/
def Obligations.TributaryOpenFollowsEnabled : Prop :=
  ∀ (p : Port) (s : State), ∃ u, exec (.tributaryOpen p) s = .next u.settle ∧
    SetsIngress p (if (s.port p).enabled then .tagWait none else .idle) s u ∧
    match (s.port p).ingress with
    | .idle => ChangesOnly [.ports] s u
    | .skipping => ChangesOnly [.ports] s u
    | .tagWait _ => ChangesOnly [.ports, .tallies] s u ∧ Counted s u .ingressAborted none
    | .receiving h _ => ChangesOnly [.buf, .ports, .tallies, .releaseEvents] s u ∧ Discarded s u .ingressAborted h

/-- The tag octets (R42, R27): the first is held; at the second the entry, the port, the handle claim and the first
cell claim decide, in that order.  Data octets in IDLE and SKIPPING have no effect (R36, R48).

A data octet in RECEIVING (R43): the hold-back of 4; then the oldest octet is body octet k, refused at k = 2048
(INGRESS_LENGTH) or for want of a cell (NO_CELL). -/
def Obligations.TributaryDataIsTaken : Prop :=
  (∀ (p : Port) (b : Byte) (s : State), StoresOk s →
     match (s.port p).ingress with
     | .idle => exec (.tributaryDataOctet p b) s = .next s.settle
     | .skipping => exec (.tributaryDataOctet p b) s = .next s.settle
     | .receiving _ _ => True
     | .tagWait none => ∃ u, exec (.tributaryDataOctet p b) s = .next u.settle ∧
         SetsIngress p (.tagWait (some b)) s u ∧ ChangesOnly [.ports] s u
     | .tagWait (some a) => ∃ u, exec (.tributaryDataOctet p b) s = .next u.settle ∧ KeepsPorts p s u ∧
       match s.lookup (a ++ b) with
       | none => SetsIngress p .skipping s u ∧ ChangesOnly [.ports, .tallies] s u ∧ Counted s u .unknownTag none
       | some i =>
         if (s.stream i.val).port ≠ p then
           SetsIngress p .skipping s u ∧ ChangesOnly [.ports, .tallies] s u ∧ Counted s u .wrongPort (some i)
         else if s.freeHandles ≤ 16 then
           SetsIngress p .skipping s u ∧ ChangesOnly [.ports, .tallies] s u ∧ Counted s u .noHandle (some i)
         else if s.freeCells ≤ 128 then
           SetsIngress p .skipping s u ∧ ChangesOnly [.ports, .tallies, .releaseEvents] s u ∧
           Counted s u .noCell (some i) ∧ u.releaseEvents = s.releaseEvents + 1
         else ∃ h x, SetsIngress p (.receiving h []) s u ∧ ChangesOnly [.buf, .ports] s u ∧ s.handle? h = none ∧
           (∀ k, k < h → s.handle? k ≠ none) ∧ x ∉ s.heldCells ∧ (∀ y, y < x → y ∈ s.heldCells) ∧
           u.handle? h = some { holder := .ingress p, tag := a ++ b, stream := some i
                                tier := (s.stream i.val).baseTier, bodyLength := 2, chain := [x], sentOffset := 0
                                nextIndex := 0, restartCount := 0, whole := false, resumeHold := false } ∧
           u.bodyOf h = [a, b] ∧ KeepsHandles [h] s u ∧
           ∀ z, z ≠ 64 * x → z ≠ 64 * x + 1 → Memory.read u.buf.octets z = Memory.read s.buf.octets z) ∧
  ∀ (p : Port) (b : Byte) (s : State) (h : Nat) (hold : List Byte) (r : Handle), StoresOk s →
    (s.port p).ingress = .receiving h hold → s.handle? h = some r → r.chain.length = cellsFor r.bodyLength →
    r.bodyLength ≤ 2048 → hold.length ≤ 4 →
    ∃ u, exec (.tributaryDataOctet p b) s = .next u.settle ∧
      (hold.length < 4 → SetsIngress p (.receiving h (hold ++ [b])) s u ∧ ChangesOnly [.ports] s u) ∧
      (hold.length = 4 → r.bodyLength = 2048 →
        SetsIngress p .skipping s u ∧ ChangesOnly [.buf, .ports, .tallies, .releaseEvents] s u ∧
        Discarded s u .ingressLength h) ∧
      (hold.length = 4 → r.bodyLength < 2048 → r.bodyLength % 64 = 0 → s.freeCells ≤ 128 →
        SetsIngress p .skipping s u ∧ ChangesOnly [.buf, .ports, .tallies, .releaseEvents] s u ∧
        Discarded s u .noCell h) ∧
      (∀ x rest, hold = x :: rest → rest.length = 3 → r.bodyLength < 2048 →
        (r.bodyLength % 64 = 0 → 128 < s.freeCells) →
        SetsIngress p (.receiving h (rest ++ [b])) s u ∧ ChangesOnly [.buf, .ports] s u ∧
        ∃ v, u.handle? h = some { r with bodyLength := r.bodyLength + 1, chain := v } ∧
          v.length = cellsFor (r.bodyLength + 1) ∧ r.chain <+: v ∧
          u.bodyOf h = s.bodyOf h ++ [x] ∧ KeepsHandles [h] s u ∧
          KeepsOctetsBut (64 * v.getD (r.bodyLength / 64) 0 + r.bodyLength % 64) s u)

/-- CLOSE END of a good frame (R44, R45, R79, R80): the charge fixes the tier or ends the frame, and a frame whose
tier is fixed joins the tail of that tier's queue, with a selection where the transmitter is IDLE (R90), or is
discarded with cause TIER_FULL at a queue at its limit.  What the charge does is stated in ChargeWithinBudget and
ChargeBeyondBudget. -/
def Obligations.GoodFrameIsHandedOver : Prop :=
  ∀ (p : Port) (s : State) (h : Nat) (hold : List Byte) (r : Handle) (i : StreamIx),
    (s.port p).ingress = .receiving h hold → s.handle? h = some r → 8 ≤ r.bodyLength →
    hold = octets4 (frameCheck (s.bodyOf h)) → r.stream = some i → (s.stream i.val).valid = true →
    (s.stream i.val).tag = r.tag →
    ∃ a v u, SetsIngress p .idle s a ∧ ChangesOnly [.ports] s a ∧ a.charge i r.bodyLength = v ∧
      exec (.closeEnd p) s = .next u.settle ∧
      ∀ q, v.2.handle? h = some q →
      match v.1 with
      | .overbudget => Discarded v.2 u .overbudget h ∧ ChangesOnly [.buf, .tallies, .releaseEvents] v.2 u
      | .chainEnd => Discarded v.2 u .chainEnd h ∧ ChangesOnly [.buf, .tallies, .releaseEvents] v.2 u
      | .fixed t =>
        if (v.2.queue t).members.length < (v.2.queue t).limit then
          ∃ w, (w.queue t).members = (v.2.queue t).members ++ [h] ∧
            (∀ x, x ≠ t → (w.queue x).members = (v.2.queue x).members) ∧ KeepsLimits v.2 w ∧
            w.handle? h = some { q with tier := t, whole := (v.2.stream i.val).whole, holder := .tierQueue t } ∧
            KeepsHandles [h] v.2 w ∧ KeepsOctets v.2 w ∧ ChangesOnly [.buf, .queues] v.2 w ∧
            u = if v.2.tx.mode = .idle then w.select else w
        else u.handle? h = none ∧ KeepsHandles [h] v.2 u ∧ KeepsOctets v.2 u ∧ Counted v.2 u .tierFull q.stream ∧
          u.releaseEvents = v.2.releaseEvents + 1 ∧ ChangesOnly [.buf, .tallies, .releaseEvents] v.2 u

/-- CLOSE END of a bad frame (R44): the length, the frame check and the stream entry are tested in that order, the
first that fails gives the cause, and the ingress returns to IDLE; in TAG_WAIT the cause is INGRESS_LENGTH, in SKIPPING
nothing is counted, and in IDLE CLOSE END has no effect. -/
def Obligations.BadFrameIsDiscarded : Prop :=
  ∀ (p : Port) (s : State),
    match (s.port p).ingress with
    | .idle => exec (.closeEnd p) s = .next s.settle
    | .skipping => ∃ u, exec (.closeEnd p) s = .next u.settle ∧ SetsIngress p .idle s u ∧ ChangesOnly [.ports] s u
    | .tagWait _ => ∃ u, exec (.closeEnd p) s = .next u.settle ∧ SetsIngress p .idle s u ∧
        ChangesOnly [.ports, .tallies] s u ∧ Counted s u .ingressLength none
    | .receiving h hold => ∀ r, s.handle? h = some r →
      let short := hold.length ≠ 4 ∨ r.bodyLength < 8
      let wrong := hold ≠ octets4 (frameCheck (s.bodyOf h))
      let stale := ∀ i, r.stream = some i → (s.stream i.val).valid = false ∨ (s.stream i.val).tag ≠ r.tag
      (short ∨ wrong ∨ stale) →
      ∃ u, exec (.closeEnd p) s = .next u.settle ∧ SetsIngress p .idle s u ∧
        ChangesOnly [.buf, .ports, .tallies, .releaseEvents] s u ∧
        (short → Discarded s u .ingressLength h) ∧ (¬ short → wrong → Discarded s u .ingressCheck h) ∧
        (¬ short → ¬ wrong → stale → u.handle? h = none ∧ KeepsHandles [h] s u ∧ KeepsOctets s u ∧
          Counted s u .unknownTag none ∧ u.releaseEvents = s.releaseEvents + 1)

/-- CLOSE ABORT on a tributary (R46). -/
def Obligations.CloseAbortThrowsTheFrameAway : Prop :=
  ∀ (p : Port) (s : State), ∃ u, exec (.closeAbort p) s = .next u.settle ∧ SetsIngress p .idle s u ∧
    match (s.port p).ingress with
    | .idle => u = s
    | .skipping => ChangesOnly [.ports] s u
    | .tagWait _ => ChangesOnly [.ports, .tallies] s u ∧ Counted s u .ingressAborted none
    | .receiving h _ => ChangesOnly [.buf, .ports, .tallies, .releaseEvents] s u ∧ Discarded s u .ingressAborted h ∧
      ∀ r, s.handle? h = some r → StoresOk s → ∀ x ∈ r.chain, x ∉ u.heldCells

/-- SKIPPING holds no frame, and an invalid symbol ends the frame in progress (R48). -/
def Obligations.SkippingAndInvalidSymbols : Prop :=
  ∀ (p : Port) (s : State),
    (match (s.port p).ingress with
     | .skipping =>
       (∀ b, exec (.tributaryDataOctet p b) s = .next s.settle) ∧ exec (.tributaryIdle p) s = .next s ∧
       exec (.tributaryInvalidSymbol p) s = .next s.settle ∧
       (∃ u, exec (.closeEnd p) s = .next u.settle ∧ SetsIngress p .idle s u ∧ ChangesOnly [.ports] s u) ∧
       (∃ u, exec (.closeAbort p) s = .next u.settle ∧ SetsIngress p .idle s u ∧ ChangesOnly [.ports] s u) ∧
       ∃ u, exec (.tributaryOpen p) s = .next u.settle ∧ ChangesOnly [.ports] s u ∧
         SetsIngress p (if (s.port p).enabled then .tagWait none else .idle) s u
     | .idle => exec (.tributaryInvalidSymbol p) s = .next s.settle
     | .tagWait _ => ∃ u, exec (.tributaryInvalidSymbol p) s = .next u.settle ∧ SetsIngress p .skipping s u ∧
         ChangesOnly [.ports, .tallies] s u ∧ Counted s u .ingressCheck none
     | .receiving h _ => ∃ u, exec (.tributaryInvalidSymbol p) s = .next u.settle ∧ SetsIngress p .skipping s u ∧
         ChangesOnly [.buf, .ports, .tallies, .releaseEvents] s u ∧ Discarded s u .ingressCheck h) ∧
    exec (.tributaryIdle p) s = .next s

/-- The egress has sent the CLOSE END of its head frame (R52): what stands on the line is the body read from the
cells, the frame check over it and CLOSE END; the handle is released without a tally; and the next head's OPEN, or
IDLE, follows.  An empty queue sends no CLOSE END (the model's choice, notes/assumptions/1.md). -/
def Obligations.EgressFrameCompletes : Prop :=
  ∀ (p : Port) (s : State),
    match (s.port p).egress with
    | [] => exec (.egressCloseEndSent p) s = .next s.settle
    | h :: rest => ∀ r, s.handle? h = some r → ∃ u, exec (.egressCloseEndSent p) s = .next u.settle ∧
        u.port p = { s.port p with
          egress := rest
          sent := (s.port p).sent ++ (s.bodyOf h).map TribSymbol.data ++
            (octets4 (frameCheck (s.bodyOf h))).map TribSymbol.data ++ [.closeEnd] ++
            [if rest = [] then .idle else .opened] } ∧
        KeepsPorts p s u ∧ u.handle? h = none ∧ KeepsHandles [h] s u ∧ KeepsOctets s u ∧
        u.releaseEvents = s.releaseEvents + 1 ∧ ChangesOnly [.buf, .ports, .releaseEvents] s u

/-! ## The allotment unit and the timers -/

/-- A charge that needs no advance (R62, R63, R64). -/
def Obligations.ChargeWithinBudget : Prop :=
  ∀ (s : State) (i : StreamIx) (len : Nat),
    (s.runtime i.val = .unmetered → s.charge i len = (.fixed (s.stream i.val).baseTier, s)) ∧
    (∀ r, s.runtime i.val = .metered r .unbounded →
      s.charge i len = (.fixed ((s.record r).tier.getD (s.stream i.val).baseTier), s)) ∧
    ∀ r left, s.runtime i.val = .metered r (.octets left) → len ≤ left →
      ∃ u, s.charge i len = (.fixed ((s.record r).tier.getD (s.stream i.val).baseTier), u) ∧
        u.runtime i.val = .metered r (.octets (left - len)) ∧ (∀ j, j ≠ i.val → u.runtime j = s.runtime j) ∧
        (∀ x, u.record x = s.record x) ∧ u.metering.epochElapsed = s.metering.epochElapsed ∧ ChangesOnly [.metering] s u

/-- A charge that does not fit (R65, R66, R67): one advance to the next record and one judgement there; at the end
of the chain the stream is exhausted, a CHAIN_END notice is raised, and the end action decides; an exhausted stream is
treated by its end action without a notice. -/
def Obligations.ChargeBeyondBudget : Prop :=
  ∀ (s : State) (i : StreamIx) (len : Nat),
    let ended := match (s.stream i.val).endAction with
      | .drop => ChargeOutcome.chainEnd
      | .demote => .fixed .t3
    (∀ r, s.runtime i.val = .exhausted r → s.charge i len = (ended, s)) ∧
    ∀ r left, s.runtime i.val = .metered r (.octets left) → left < len →
      ∃ u, (∀ j, j ≠ i.val → u.runtime j = s.runtime j) ∧ (∀ x, u.record x = s.record x) ∧
        u.metering.epochElapsed = s.metering.epochElapsed ∧ ChangesOnly [.metering] s u ∧
        match (s.record r).next with
        | none => u.runtime i.val = .exhausted r ∧ s.charge i len = (ended, u.raiseNotice (.chainEnd i r))
        | some n =>
          let tier := (s.record n).tier.getD (s.stream i.val).baseTier
          if (s.record n).budget = 0 then u.runtime i.val = .metered n .unbounded ∧ s.charge i len = (.fixed tier, u)
          else if len ≤ (s.record n).budget.toNat then
            u.runtime i.val = .metered n (.octets ((s.record n).budget.toNat - len)) ∧ s.charge i len = (.fixed tier, u)
          else u.runtime i.val = .metered n (.octets (s.record n).budget.toNat) ∧ s.charge i len = (.overbudget, u)

/-- EPOCH_EXPIRY (R73) and WINDOW_IDLE_TIMEOUT (R158). -/
def Obligations.TimersExpire : Prop :=
  (∀ s : State, TablesOk s → ∃ u, exec .epochExpiry s = .next u ∧ ChangesOnly [.metering] s u ∧
    (s.part.epochPeriod = 0 → u = s) ∧
    (s.part.epochPeriod ≠ 0 → u.metering.epochElapsed = 0 ∧ u.metering.records = s.metering.records ∧
      ∀ i : StreamIx, u.runtime i.val =
        match (s.stream i.val).valid, (s.stream i.val).chainHead with
        | true, some r =>
          .metered r (if (s.record r).budget = 0 then .unbounded else .octets (s.record r).budget.toNat)
        | _, _ => s.runtime i.val)) ∧
  ∀ s : State, ∃ u, exec .windowIdleTimeout s = .next u ∧ u.agent = { s.agent with window := none } ∧
    ChangesOnly [.agent] s u

/-! ## The tier queues and the transmitter -/

/-- A selection (R91, R92, R93, R86, R87): the head of the most urgent queue that is not empty, where the stack is
empty or its top less urgent, opens as a new frame; else the top of the stack is resumed with its hold set; else the
transmitter is IDLE. -/
def Obligations.SelectionRule : Prop :=
  ∀ s : State,
    (∀ q h rest r, (s.queue q).members = h :: rest →
      (∀ x : Tier, x.moreUrgent q = true → (s.queue x).members = []) →
      (∀ top below, s.tx.stack = top :: below → q.moreUrgent (s.tierOf top) = true) → s.handle? h = some r →
      (s.select.queue q).members = rest ∧ (∀ x, x ≠ q → (s.select.queue x).members = (s.queue x).members) ∧
      KeepsLimits s s.select ∧ s.select.handle? h = some { r with holder := .trunkActive } ∧
      KeepsHandles [h] s s.select ∧ s.select.buf.octets = s.buf.octets ∧
      s.select.tx = { mode := .sending, active := some h, stack := s.tx.stack
                      fragment := some { kind := .first, tier := r.tier, index := 0, carried := 0, closing := .none } } ∧
      s.select.line = { s.line with
        sent := s.line.sent ++ [.openFirst r.tier] ++ (octets2 (BitVec.ofNat 16 r.bodyLength)).map TrunkSymbol.data } ∧
      ChangesOnly [.buf, .queues, .tx, .line] s s.select) ∧
    (∀ top below r, s.tx.stack = top :: below →
      (∀ x : Tier, x.moreUrgent (s.tierOf top) = true → (s.queue x).members = []) → s.handle? top = some r →
      s.select.handle? top = some { r with holder := .trunkActive, resumeHold := true } ∧
      KeepsHandles [top] s s.select ∧ s.select.buf.octets = s.buf.octets ∧
      s.select.tx = { mode := .sending, active := some top, stack := below
                      fragment := some { kind := .next, tier := r.tier, index := r.nextIndex, carried := 0
                                         closing := .none } } ∧
      s.select.line = { s.line with sent := s.line.sent ++ [.openNext r.tier r.nextIndex] } ∧
      ChangesOnly [.buf, .tx, .line] s s.select) ∧
    ((∀ x, (s.queue x).members = []) → s.tx.stack = [] →
      s.select.tx = { mode := .idle, active := none, fragment := none, stack := [] } ∧
      s.select.line = { s.line with
        sent := if s.line.sent.getLast? = some .idle then s.line.sent else s.line.sent ++ [.idle] } ∧
      ChangesOnly [.tx, .line] s s.select)

/-- BLOCK_SENT (R88, R94, R95): a block of 16 octets, or the rest, has gone out; the offset, the carried count and the
resume hold advance; and the fragment closes with LAST at the end of the body, with MORE where every condition of the
cut check holds, and otherwise goes on.  Without a block under way the command has no effect (notes/assumptions/1.md).
-/
def Obligations.BlockSentAdvancesAndCuts : Prop :=
  ∀ s : State,
    (∀ h f r, s.tx.active = some h → s.tx.fragment = some f → f.closing = .none → s.handle? h = some r →
      r.sentOffset ≤ r.bodyLength →
      let n := min 16 (r.bodyLength - r.sentOffset)
      let hold := r.resumeHold && decide (f.carried + n < 128)
      let cut := (∃ q : Tier, q.moreUrgent r.tier = true ∧ (s.queue q).members ≠ []) ∧ r.tier ≠ .t0 ∧ r.whole = false ∧
        64 ≤ f.carried + n ∧ 64 ≤ r.bodyLength - (r.sentOffset + n) ∧ hold = false
      ∃ u closing, exec .blockSent s = .next u ∧
        u.handle? h = some { r with sentOffset := r.sentOffset + n, resumeHold := hold } ∧ KeepsHandles [h] s u ∧
        u.buf.octets = s.buf.octets ∧
        u.tx = { s.tx with fragment := some { f with carried := f.carried + n, closing := closing } } ∧
        (r.sentOffset + n = r.bodyLength → closing = .last) ∧
        (r.sentOffset + n ≠ r.bodyLength → cut → closing = .more) ∧
        (r.sentOffset + n ≠ r.bodyLength → ¬ cut → closing = .none) ∧
        u.line = { s.line with
          sent := s.line.sent ++ (((s.bodyOf h).drop r.sentOffset).take n).map TrunkSymbol.data } ∧
        ChangesOnly [.buf, .tx, .line] s u) ∧
    ((∀ h f, s.tx.active = some h → s.tx.fragment = some f → f.closing = .none → s.handle? h = none) →
      exec .blockSent s = .next s)

/-- CLOSE_MORE_SENT (R89, R96): the fragment check over the declared length of a first fragment and the data, then
CLOSE MORE; the index advances; the frame joins the top of the stack; a selection follows.  Without a CLOSE MORE under
way the command has no effect (notes/assumptions/1.md).

CLEAR_SENT (R105, R123): the CLEAR of a CLEARING period, and a selection on the queues as they stand.  Outside
CLEARING no CLEAR is sent and the command has no effect (notes/assumptions/1.md). -/
def Obligations.CloseMoreAndClearSent : Prop :=
  (∀ s : State,
     (∀ h f r, s.tx.active = some h → s.tx.fragment = some f → f.closing = .more → s.handle? h = some r →
       f.carried ≤ r.sentOffset → r.sentOffset ≤ r.bodyLength →
       let data := ((s.bodyOf h).drop (r.sentOffset - f.carried)).take f.carried
       let octets := match f.kind with
         | .first => octets2 (BitVec.ofNat 16 r.bodyLength) ++ data
         | .next => data
       ∃ u, exec .closeMoreSent s = .next u.select ∧
         u.handle? h = some { r with nextIndex := r.nextIndex + 1, holder := .trunkSuspended } ∧ KeepsHandles [h] s u ∧
         u.buf.octets = s.buf.octets ∧
         u.tx = { s.tx with active := none, fragment := none, stack := h :: s.tx.stack } ∧
         u.line = { s.line with
           sent := s.line.sent ++ (octets2 (fragmentCheck octets)).map TrunkSymbol.data ++ [.closeMore] } ∧
         ChangesOnly [.buf, .tx, .line] s u) ∧
     ((∀ h f, s.tx.active = some h → s.tx.fragment = some f → f.closing = .more → s.handle? h = none) →
       exec .closeMoreSent s = .next s)) ∧
  ∀ s : State,
    (s.tx.mode = .clearing → ∃ u, exec .clearSent s = .next u.select ∧
      u.line = { s.line with sent := s.line.sent ++ [.clear] } ∧ ChangesOnly [.line] s u) ∧
    (s.tx.mode ≠ .clearing → exec .clearSent s = .next s)

/-- CLOSE_LAST_SENT (R89, R100): the frame check over the whole body and the fragment check, then CLOSE LAST; the
stream's frames and octets to trunk advance; the handle is released; its release event is taken, and then a selection
is made, unless a soft restart carried out at that release event has already taken the transmitter out of SENDING
(notes/assumptions/7.md).  Without a CLOSE LAST under way the command has no effect (notes/assumptions/1.md). -/
def Obligations.CloseLastSentCompletes : Prop :=
  ∀ s : State,
    (∀ h f r, s.tx.active = some h → s.tx.fragment = some f → f.closing = .last → s.handle? h = some r →
      f.carried ≤ r.sentOffset → r.sentOffset = r.bodyLength →
      let data := (s.bodyOf h).drop (r.bodyLength - f.carried)
      let frame := octets4 (frameCheck (s.bodyOf h))
      let octets := match f.kind with
        | .first => octets2 (BitVec.ofNat 16 r.bodyLength) ++ data ++ frame
        | .next => data ++ frame
      ∃ u, exec .closeLastSent s =
          .next (if u.settle.tx.mode = .sending ∧ u.settle.tx.active = none then u.settle.select else u.settle) ∧
        u.handle? h = none ∧ KeepsHandles [h] s u ∧ KeepsOctets s u ∧ u.releaseEvents = s.releaseEvents + 1 ∧
        u.tx = { s.tx with active := none, fragment := none } ∧
        u.line = { s.line with
          sent := s.line.sent ++ frame.map TrunkSymbol.data ++ (octets2 (fragmentCheck octets)).map TrunkSymbol.data ++
            [.closeLast] } ∧
        (∀ i, u.tally i = if r.stream = some i then
          { s.tally i with
            framesToTrunk := (s.tally i).framesToTrunk + 1
            octetsToTrunk := (s.tally i).octetsToTrunk + BitVec.ofNat 32 r.bodyLength } else s.tally i) ∧
        (∀ k, u.discardCount k = s.discardCount k) ∧
        ChangesOnly [.buf, .tx, .line, .tallies, .releaseEvents] s u) ∧
    ((∀ h f, s.tx.active = some h → s.tx.fragment = some f → f.closing = .last → s.handle? h = none) →
      exec .closeLastSent s = .next s)

/-! ## The trunk line -/

/-- The link leaves UP when TRK_LOS is asserted (R115) and at the 4th consecutive invalid symbol (R119), with the
events of R103, R104, R120 and R142. -/
def Obligations.LeavingUpReturnsFrames : Prop :=
  ∀ s : State, StoresOk s → LinkOk s → ReceiverOk s → HoldersOk s → TransmitterOk s → NoticesOk s → s.line.link = .up →
    (∃ u, exec .trkLosAsserted s = .next u.settle ∧ LeavesUp true s u) ∧
    (s.line.invalidRun = 3 → ∃ u, exec .trunkInvalidSymbol s = .next u.settle ∧ LeavesUp false s u)

/-- TRK_LOS (R115) while the link is not UP, and the symbols that arrive while it is asserted.  The model's choices
(notes/assumptions/1.md): in ALIGNING and UP, where the manual says a deassertion is not possible, only the level is
recorded; and in DOWN a deassertion takes the link to ALIGNING also where TRK_LOS was deasserted before, which is no
change of level and of which R115 says nothing.

While the link is ALIGNING (R117), IDLE below 15 advances the run and every other symbol returns it to 0; none reaches
the receiver. -/
def Obligations.TrkLosAndAlignment : Prop :=
  (∀ s : State,
     (s.line.link = .down → ∃ u, exec .trkLosAsserted s = .next u ∧ u.line = { s.line with los := true } ∧
       ChangesOnly [.line] s u) ∧
     (s.line.link = .aligning → ∃ u, exec .trkLosAsserted s = .next u ∧
       u.line = { s.line with los := true, link := .down, idleRun := 0 } ∧ ChangesOnly [.line] s u) ∧
     (s.line.link = .down → ∃ u, exec .trkLosDeasserted s = .next u ∧
       u.line = { s.line with los := false, link := .aligning, idleRun := 0 } ∧ ChangesOnly [.line] s u) ∧
     (s.line.link ≠ .down → ∃ u, exec .trkLosDeasserted s = .next u ∧ u.line = { s.line with los := false } ∧
       ChangesOnly [.line] s u) ∧
     (s.line.los = true → ∀ x, exec (trunkArrival x) s = .next s)) ∧
  ∀ (s : State) (x : TrunkSymbol), s.line.link = .aligning → s.line.los = false →
    (x ≠ .idle → ∃ u, exec (trunkArrival x) s = .next u ∧ u.line = { s.line with idleRun := 0 } ∧
      ChangesOnly [.line] s u) ∧
    (x = .idle → s.line.idleRun < 15 → ∃ u, exec (trunkArrival x) s = .next u ∧
      u.line = { s.line with idleRun := s.line.idleRun + 1 } ∧ ChangesOnly [.line] s u)

/-- While the link is DOWN with TRK_LOS deasserted, the first symbol of any kind takes it to ALIGNING with an IDLE
run of 0 (R116). -/
def Obligations.AnySymbolStartsAlignment : Prop :=
  ∀ (s : State) (x : TrunkSymbol), s.line.link = .down → s.line.los = false →
    ∃ u, exec (trunkArrival x) s = .next u ∧ u.line = { s.line with link := .aligning, idleRun := 0 } ∧
      ChangesOnly [.line] s u

/-- The 16th consecutive IDLE brings the link UP (R117, R122, R124): the transmitter is CLEARING, a TRUNK_RESTORED
notice with the loss counts is raised where the link has been UP before, and the notice queue acts (R184).  With a
notice tag of 0x0000 the raise sends nothing and the queue is exactly that of R175. -/
def Obligations.SixteenIdlesBringTheLinkUp : Prop :=
  ∀ s : State, LinkOk s → NoticesOk s → s.line.link = .aligning → s.line.idleRun = 15 →
    ∃ u v t, exec .trunkIdleReceived s = .next t ∧
      u.line = { s.line with link := .up, idleRun := 0, invalidRun := 0, beenUp := true } ∧
      u.tx = { mode := .clearing, active := none, fragment := none, stack := [] } ∧ ChangesOnly [.line, .tx] s u ∧
      v = (if s.line.beenUp then
        u.raiseNotice (.trunkRestored s.line.returned s.line.discarded s.line.contexts) else u) ∧
      t.line = u.line ∧ t.tx = u.tx ∧ ChangesOnly [.buf, .queues, .tx, .line, .notices] s t ∧
      (s.part.noticeTag = 0 → ChangesOnly [.notices] u t ∧
        t.notices = if s.line.beenUp then
          s.notices.raised (.trunkRestored s.line.returned s.line.discarded s.line.contexts) else s.notices) ∧
      (s.part.noticeTag ≠ 0 →
        (s.notices.pending = true → exec .noticeClaimRetry v = .next t) ∧
        (s.notices.pending = false → ∀ e, s.notices.timer = .held e →
          t = v.withNotices { v.notices with timer := .running e }) ∧
        (s.notices.pending = false → s.notices.timer = .stopped → t = v.noticeAttempt))

/-! ## The receiver.  Here `v` is the state after the trunk line's part, with the invalid run back at 0 (R118) -/

/-- While the link is UP, an invalid symbol below the 4th advances the run and is a framing slip where a fragment is
open (R119, R130); IDLE returns the run to 0 and is fill (R118, R129).

CLEAR_RECEIVED (R141): every OPEN context's frame is discarded with cause CLEARED, every DISCARDING one closes
without counting, and the fragment record is cleared, with no notice. -/
def Obligations.InvalidSymbolsAndClear : Prop :=
  (∀ s : State, LinkOk s → ReceiverOk s → s.line.link = .up →
     (s.line.invalidRun < 3 → ∃ u v, exec .trunkInvalidSymbol s = .next v.settle ∧
       u.line = { s.line with invalidRun := s.line.invalidRun + 1 } ∧ ChangesOnly [.line] s u ∧ Slips u v) ∧
     ∃ u, exec .trunkIdleReceived s = .next u ∧ u.line = { s.line with invalidRun := 0 } ∧ ChangesOnly [.line] s u) ∧
  ∀ s : State, LinkOk s → ReceiverOk s → HoldersOk s → s.line.link = .up →
    ∃ v u, exec .clearReceived s = .next u.settle ∧ v.line = { s.line with invalidRun := 0 } ∧ ChangesOnly [.line] s v ∧
      AbandonsContexts Tier.all .cleared v u ∧ (∀ t, u.context t = .closed) ∧ u.rx.fragment = none ∧
      ChangesOnly [.buf, .rx, .tallies, .releaseEvents] v u

/-- OPEN_FIRST (R130, R131): the slip of an open fragment, the nesting check with its notice, the close of every more
urgent context, the reopen with its notice, and the opening of context `t` with a FIRST fragment in STORING mode. -/
def Obligations.OpenFirstOpensTheContext : Prop :=
  ∀ (t : Tier) (s : State), StoresOk s → LinkOk s → ReceiverOk s → HoldersOk s → s.line.link = .up →
    ∃ v a b w x y u, exec (.openFirst t) s = .next u.settle ∧
      v.line = { s.line with invalidRun := 0 } ∧ ChangesOnly [.line] s v ∧ Slips v a ∧
      AbandonsContexts (Tier.all.filter fun z => z.moreUrgent t) .sequence a b ∧
      ChangesOnly [.buf, .rx, .tallies, .releaseEvents] a b ∧
      w = (if (Tier.all.filter fun z => z.moreUrgent t).any fun z => (a.context z).isOpen then
        b.raiseNotice (.sequenceFault t .nesting) else b) ∧
      AbandonsContexts [t] .sequence w x ∧ ChangesOnly [.buf, .rx, .tallies, .releaseEvents] w x ∧
      y = (if (w.context t).isOpen then x.raiseNotice (.sequenceFault t .reopen) else x) ∧
      u.context t = .opened { handle := none, tag := none, declared := none, received := 0, expected := 0, mgmt := false } ∧
      (∀ z, u.context z = if z = t then u.context t else if z.moreUrgent t then .closed else a.context z) ∧
      u.rx.fragment = some { tier := t, kind := .first, mode := .storing, header := [], hold := []
                             check := fragmentStart } ∧
      ChangesOnly [.rx] y u

/-- OPEN_NEXT (R130, R133, R134): on a CLOSED context an orphan, reported and ignored; else the nesting check, the
close of every more urgent context, the index check with its notice, and a NEXT fragment that is stored or tracked. -/
def Obligations.OpenNextContinuesTheContext : Prop :=
  ∀ (t : Tier) (i : FragIx) (s : State), StoresOk s → LinkOk s → ReceiverOk s → HoldersOk s → s.line.link = .up →
    ∃ v a u, exec (.openNext t i) s = .next u.settle ∧ v.line = { s.line with invalidRun := 0 } ∧
      ChangesOnly [.line] s v ∧ Slips v a ∧
      (a.context t = .closed →
        (∀ z, u.context z = a.context z) ∧ ChangesOnly [.rx] (a.raiseNotice (.sequenceFault t .orphan)) u ∧
        u.rx.fragment = some { tier := t, kind := .next, mode := .ignored, header := [], hold := []
                               check := fragmentStart }) ∧
      (a.context t ≠ .closed → ∃ b w x y,
        AbandonsContexts (Tier.all.filter fun z => z.moreUrgent t) .sequence a b ∧
        ChangesOnly [.buf, .rx, .tallies, .releaseEvents] a b ∧
        w = (if (Tier.all.filter fun z => z.moreUrgent t).any fun z => (a.context z).isOpen then
          b.raiseNotice (.sequenceFault t .nesting) else b) ∧
        (∀ z, u.context z = if z = t then u.context t else if z.moreUrgent t then .closed else a.context z) ∧
        (∀ g, w.context t = .opened g → g.expected = i → y = w ∧ u.context t = .opened g) ∧
        (∀ g, w.context t = .opened g → g.expected ≠ i →
          GivesUp t .sequence i w x ∧ ChangesOnly [.buf, .rx, .tallies, .releaseEvents] w x ∧
          y = x.raiseNotice (.sequenceFault t .gap) ∧ u.context t = x.context t) ∧
        (∀ g, w.context t = .discarding g → y = w ∧ u.context t = .discarding { g with expected := i }) ∧
        u.rx.fragment = some { tier := t, kind := .next, header := [], hold := [], check := fragmentStart
                               mode := if (u.context t).isOpen then .storing else .tracking } ∧
        ChangesOnly [.rx] y u)

/-- A header octet of a FIRST fragment (R132): counted; the declared length at the second, outside 8 to 2048 with
cause FRAME_CHECK; the tag, the management flag, the handle claim and the first cell claim of its kind at the fourth.
-/
def Obligations.HeaderOctetsClaimTheHandle : Prop :=
  ∀ (b : Byte) (s : State) (f : RxFragment), StoresOk s → LinkOk s → ReceiverOk s → HoldersOk s → s.line.link = .up →
    s.rx.fragment = some f → f.kind = .first → f.header.length < 4 →
    ∃ v u g, exec (.trunkDataOctet b) s = .next u.settle ∧ v.line = { s.line with invalidRun := 0 } ∧
      ChangesOnly [.line] s v ∧ u.rx.fragment = some g ∧
      g = { f with header := f.header ++ [b], check := checkOctet fragmentGenerator f.check b, mode := g.mode } ∧
      ChangesOnly [.buf, .rx, .tallies, .releaseEvents] v u ∧
      (f.mode ≠ .storing ∨ f.header.length = 0 ∨ f.header.length = 2 →
        g.mode = f.mode ∧ ChangesOnly [.rx] v u ∧ ∀ z, u.context z = s.context z) ∧
      ∀ a, f.mode = .storing → s.context f.tier = .opened a →
        (∀ x, f.header = [x] → 8 ≤ (x ++ b).toNat → (x ++ b).toNat ≤ 2048 →
          g.mode = .storing ∧ ChangesOnly [.rx] v u ∧
          u.context f.tier = .opened { a with declared := some (x ++ b).toNat } ∧
          ∀ z, z ≠ f.tier → u.context z = s.context z) ∧
        (∀ x, f.header = [x] → (x ++ b).toNat < 8 ∨ 2048 < (x ++ b).toNat →
          g.mode = .tracking ∧ GivesUp f.tier .frameCheck a.expected v u) ∧
        (∀ x y z, f.header = [x, y, z] →
          let mgmt := addressesPart s.part.node (z ++ b)
          (¬ (if mgmt then 1 ≤ s.freeHandles else 16 < s.freeHandles) →
            g.mode = .tracking ∧ u.buf = s.buf ∧ Counted v u .noHandle none ∧
            u.context f.tier = .discarding { tag := some (z ++ b), declared := a.declared, expected := a.expected
                                             mgmt := mgmt, cause := .noHandle }) ∧
          ((if mgmt then 1 ≤ s.freeHandles else 16 < s.freeHandles) →
            ¬ (if mgmt then 1 ≤ s.freeCells else 128 < s.freeCells) →
            g.mode = .tracking ∧ u.buf = s.buf ∧ Counted v u .noCell none ∧
            u.releaseEvents = s.releaseEvents + 1 ∧
            u.context f.tier = .discarding { tag := some (z ++ b), declared := a.declared, expected := a.expected
                                             mgmt := mgmt, cause := .noCell }) ∧
          ((if mgmt then 1 ≤ s.freeHandles else 16 < s.freeHandles) →
            (if mgmt then 1 ≤ s.freeCells else 128 < s.freeCells) →
            g.mode = .storing ∧ ∃ h c, s.handle? h = none ∧ (∀ k, k < h → s.handle? k ≠ none) ∧ c ∉ s.heldCells ∧
              u.handle? h = some { holder := .reassembly f.tier, tag := z ++ b, stream := none, tier := f.tier
                                   bodyLength := 2, chain := [c], sentOffset := 0, nextIndex := 0, restartCount := 0
                                   whole := false, resumeHold := false } ∧
              u.bodyOf h = [z, b] ∧ KeepsHandles [h] s u ∧ KeepsHeld s u ∧ ChangesOnly [.buf, .rx] v u ∧
              u.context f.tier = .opened { a with tag := some (z ++ b), mgmt := mgmt, handle := some h, received := 2 }) ∧
          ∀ w, w ≠ f.tier → u.context w = s.context w)

/-- A data octet after the header (R129, R135): with no fragment open no effect; it joins the hold-back; the oldest
of 6 is body octet k of the OPEN context, given up beyond the declared length (FRAME_CHECK) or for want of a cell
(NO_CELL); in TRACKING and IGNORED it is disregarded. -/
def Obligations.DataOctetsAreReassembled : Prop :=
  ∀ (b : Byte) (s : State), StoresOk s → LinkOk s → ReceiverOk s → HoldersOk s → ChainsFit s → s.line.link = .up →
    ∃ v, v.line = { s.line with invalidRun := 0 } ∧ ChangesOnly [.line] s v ∧
      (s.rx.fragment = none → exec (.trunkDataOctet b) s = .next v.settle) ∧
      ∀ f, s.rx.fragment = some f → (f.kind = .next ∨ f.header.length = 4) → f.hold.length ≤ 6 →
        (f.hold.length < 6 → ∃ u, exec (.trunkDataOctet b) s = .next u.settle ∧ ChangesOnly [.rx] v u ∧
          u.rx.fragment = some { f with hold := f.hold ++ [b] } ∧ ∀ z, u.context z = s.context z) ∧
        ∀ x rest, f.hold = x :: rest → rest.length = 5 → ∃ u g, exec (.trunkDataOctet b) s = .next u.settle ∧
          u.rx.fragment = some g ∧
          g = { f with hold := rest ++ [b], check := checkOctet fragmentGenerator f.check x, mode := g.mode } ∧
          (f.mode ≠ .storing → g.mode = f.mode ∧ ChangesOnly [.rx] v u ∧ ∀ z, u.context z = s.context z) ∧
          ∀ a h d r, f.mode = .storing → s.context f.tier = .opened a → a.handle = some h → a.declared = some d →
            s.handle? h = some r →
            (a.received = d → g.mode = .tracking ∧ GivesUp f.tier .frameCheck a.expected v u ∧
              ChangesOnly [.buf, .rx, .tallies, .releaseEvents] v u) ∧
            (a.received ≠ d → a.received % 64 = 0 → ¬ (if a.mgmt then 1 ≤ s.freeCells else 128 < s.freeCells) →
              g.mode = .tracking ∧ GivesUp f.tier .noCell a.expected v u ∧
              ChangesOnly [.buf, .rx, .tallies, .releaseEvents] v u) ∧
            (a.received ≠ d → (a.received % 64 = 0 → if a.mgmt then 1 ≤ s.freeCells else 128 < s.freeCells) →
              g.mode = .storing ∧ u.context f.tier = .opened { a with received := a.received + 1 } ∧
              (∀ z, z ≠ f.tier → u.context z = s.context z) ∧
              (∃ c, u.handle? h = some { r with bodyLength := r.bodyLength + 1, chain := c }) ∧
              u.bodyOf h = s.bodyOf h ++ [x] ∧ KeepsHandles [h] s u ∧ ChangesOnly [.buf, .rx] v u ∧
              ∀ k q, k ≠ h → s.handle? k = some q → u.bodyOf k = s.bodyOf k)

/-- CLOSE_MORE (R129, R136, R137): with no fragment open no effect; a failing check of a STORING fragment gives the
frame up; a passing one stores the held data and advances the index, in TRACKING mode the index alone; and the
fragment is cleared.  The fragment check is the last 2 held octets against the running check over the others. -/
def Obligations.CloseMoreKeepsTheContext : Prop :=
  ∀ s : State, StoresOk s → LinkOk s → ReceiverOk s → HoldersOk s → s.line.link = .up →
    ∃ v u, exec .closeMore s = .next u.settle ∧ v.line = { s.line with invalidRun := 0 } ∧ ChangesOnly [.line] s v ∧
      u.rx.fragment = none ∧ (s.rx.fragment = none → u = v) ∧
      ∀ f, s.rx.fragment = some f →
        let passes := 2 ≤ f.hold.length ∧ (f.kind = .next ∨ f.header.length = 4) ∧
          octets2 (fragmentCheckFrom f.check (f.hold.take (f.hold.length - 2))) = f.hold.drop (f.hold.length - 2)
        (f.mode = .ignored → ChangesOnly [.rx] v u ∧ ∀ z, u.context z = s.context z) ∧
        (f.mode = .tracking → ¬ passes → ChangesOnly [.rx] v u ∧ ∀ z, u.context z = s.context z) ∧
        (f.mode = .tracking → passes → ChangesOnly [.rx] v u ∧
          ∀ z, u.context z = match s.context z with
            | .discarding g => if z = f.tier then .discarding { g with expected := g.expected + 1 } else .discarding g
            | x => x) ∧
        (f.mode = .storing → ¬ passes → ∃ a, s.context f.tier = .opened a ∧
          GivesUp f.tier .fragmentCheck a.expected v u ∧ ChangesOnly [.buf, .rx, .tallies, .releaseEvents] v u) ∧
        (f.mode = .storing → passes → ∃ a, s.context f.tier = .opened a ∧
          (∀ z, z ≠ f.tier → u.context z = s.context z) ∧
          (f.hold.length = 2 → ChangesOnly [.rx] v u ∧
            u.context f.tier = .opened { a with expected := a.expected + 1 }) ∧
          (f.hold.length ≤ 6 → ∀ h d, a.handle = some h → a.declared = some d →
            a.received + (f.hold.length - 2) ≤ d → (if a.mgmt then 1 ≤ s.freeCells else 128 < s.freeCells) →
            ChainsFit s →
            u.context f.tier = .opened { a with received := a.received + (f.hold.length - 2)
                                                expected := a.expected + 1 } ∧
            u.bodyOf h = s.bodyOf h ++ f.hold.take (f.hold.length - 2) ∧ KeepsHandles [h] s u ∧
            ChangesOnly [.buf, .rx] v u) ∧
          (∀ h d, a.handle = some h → a.declared = some d → d < a.received + (f.hold.length - 2) →
            (if a.mgmt then 1 ≤ s.freeCells else 128 < s.freeCells) → f.hold.length ≤ 6 →
            u.context f.tier = .discarding { tag := a.tag, declared := a.declared, expected := a.expected + 1
                                             mgmt := a.mgmt, cause := .frameCheck } ∧
            u.handle? h = none ∧ KeepsHandles [h] s u ∧ Counted v u .frameCheck none) ∧
          (∀ h d, a.handle = some h → a.declared = some d → a.received < d → a.received % 64 = 0 → 2 < f.hold.length →
            ¬ (if a.mgmt then 1 ≤ s.freeCells else 128 < s.freeCells) →
            u.context f.tier = .discarding { tag := a.tag, declared := a.declared, expected := a.expected + 1
                                             mgmt := a.mgmt, cause := .noCell } ∧
            u.handle? h = none ∧ KeepsHandles [h] s u ∧ KeepsOctets s u ∧ Counted v u .noCell none))

/-- CLOSE_LAST (R129, R136, R138, R139, R140): with no fragment open no effect; the fragment and the context are
closed; a STORING fragment that fails its check gives the frame up; and a frame whose frame check and length agree is
offered to the inbox or routed by its stream entry. -/
def Obligations.CloseLastRoutesTheFrame : Prop :=
  ∀ s : State, StoresOk s → LinkOk s → ReceiverOk s → HoldersOk s → StreamsOk s → s.line.link = .up →
    ∃ v u, exec .closeLast s = .next u.settle ∧ v.line = { s.line with invalidRun := 0 } ∧ ChangesOnly [.line] s v ∧
      (s.rx.fragment = none → u = v) ∧
      ∀ f, s.rx.fragment = some f →
        let passes := 6 ≤ f.hold.length ∧ (f.kind = .next ∨ f.header.length = 4) ∧
          octets2 (fragmentCheckFrom f.check (f.hold.take (f.hold.length - 2))) = f.hold.drop (f.hold.length - 2)
        (f.mode = .ignored → u.rx.fragment = none ∧ ChangesOnly [.rx] v u ∧ ∀ z, u.context z = s.context z) ∧
        (f.mode = .tracking → u.rx.fragment = none ∧ ChangesOnly [.rx] v u ∧
          ∀ z, u.context z = if z = f.tier then .closed else s.context z) ∧
        (f.mode = .storing → ¬ passes → u.rx.fragment = none ∧
          AbandonsContexts [f.tier] .fragmentCheck v u ∧ ChangesOnly [.buf, .rx, .tallies, .releaseEvents] v u) ∧
        ∀ a h r, f.mode = .storing → passes → s.context f.tier = .opened a → a.handle = some h →
          s.handle? h = some r →
          let good := f.hold.take 4 = octets4 (frameCheck (s.bodyOf h)) ∧ a.declared = some a.received
          (¬ good → u.rx.fragment = none ∧ AbandonsContexts [f.tier] .frameCheck v u ∧
            ChangesOnly [.buf, .rx, .tallies, .releaseEvents] v u) ∧
          (good → a.mgmt = true → 4 ≤ s.agent.inbox.length → u.rx.fragment = none ∧
            AbandonsContexts [f.tier] .inboxFull v u ∧ ChangesOnly [.buf, .rx, .tallies, .releaseEvents] v u) ∧
          (good → a.mgmt = true → s.agent.inbox.length < 4 → ∃ w, w.rx.fragment = none ∧
            (∀ z, w.context z = if z = f.tier then .closed else s.context z) ∧
            w.agent = { s.agent with inbox := s.agent.inbox ++ [h] } ∧
            w.handle? h = some { r with holder := .inbox } ∧ KeepsHandles [h] s w ∧ w.buf.octets = s.buf.octets ∧
            ChangesOnly [.buf, .rx, .agent] v w ∧
            (s.agent.inbox = [] → exec .agentAttemptEvent w = .next u) ∧ (s.agent.inbox ≠ [] → u = w)) ∧
          (good → a.mgmt = false → s.lookup r.tag = none → u.rx.fragment = none ∧
            AbandonsContexts [f.tier] .unknownTag v u ∧ ChangesOnly [.buf, .rx, .tallies, .releaseEvents] v u) ∧
          ∀ i, good → a.mgmt = false → s.lookup r.tag = some i →
            let p := (s.stream i.val).port
            u.rx.fragment = none ∧ (∀ z, u.context z = if z = f.tier then .closed else s.context z) ∧
            KeepsHandles [h] s u ∧ KeepsOctets s u ∧
            ((s.port p).enabled = false → u.handle? h = none ∧ Counted v u .portDisabled (some i) ∧
              u.releaseEvents = s.releaseEvents + 1 ∧ ChangesOnly [.buf, .rx, .tallies, .releaseEvents] v u) ∧
            ((s.port p).enabled = true → 32 ≤ (s.port p).egress.length → u.handle? h = none ∧
              Counted v u .egressFull (some i) ∧ u.releaseEvents = s.releaseEvents + 1 ∧
              ChangesOnly [.buf, .rx, .tallies, .releaseEvents] v u) ∧
            ((s.port p).enabled = true → (s.port p).egress.length < 32 →
              u.handle? h = some { r with stream := some i, holder := .egress p } ∧ KeepsPorts p s u ∧
              u.port p = { s.port p with
                egress := (s.port p).egress ++ [h]
                sent := if (s.port p).egress = [] then (s.port p).sent ++ [.opened] else (s.port p).sent } ∧
              (∀ k, u.discardCount k = s.discardCount k) ∧
              (∀ j, u.tally j = if j = i then
                { s.tally j with framesDelivered := (s.tally j).framesDelivered + 1 } else s.tally j) ∧
              ChangesOnly [.buf, .ports, .rx, .tallies] v u)

/-! ## The management agent.  `turn` is the way the request comes to be executed: its own command, which delivers it
to the agent in one event whatever the link state (the model's choice, notes/assumptions/6.md), or an attempt on it as
the head of an inbox that may hold more, by AGENT_ATTEMPT_EVENT or AGENT_RETRY (R149) -/

/-- SELECT (R159) and RELEASE (R160), with their replies. -/
def Obligations.SelectAndReleaseMoveTheWindow : Prop :=
  (∀ (turn : Turn) (h : ReqHeader) (table : TableName) (base : BitVec 16) (s : State),
    s.Answers turn (.select h table base) h 8 →
    ∃ t st, exec (turn.command (.select h table base)) s = .next t ∧
      st = (if tableEntries table ≤ base.toNat then Status.range else
        match s.agent.window with
        | none => .done
        | some w => if w.holder = h.controller then .done else .windowHeld) ∧
      Answered turn [] s t h 0x01 st [] ∧
      t.agent.window = (if st = .done then
        some { holder := h.controller, table := table, base := base.toNat, idle := 0 }
        else touched h.controller.val s.agent.window) ∧
      KeepsLimits s t ∧ KeepsNotices s t ∧ ChangesOnly answerBlocks s t) ∧
  ∀ (turn : Turn) (h : ReqHeader) (s : State), s.Answers turn (.release h) h 8 →
    ∃ t st, exec (turn.command (.release h)) s = .next t ∧
      st = (match s.agent.window with
        | none => Status.notHolder
        | some w => if w.holder = h.controller then .done else .notHolder) ∧
      Answered turn [] s t h 0x02 st [] ∧ t.agent.window = (if st = .done then none else s.agent.window) ∧
      KeepsLimits s t ∧ KeepsNotices s t ∧ ChangesOnly answerBlocks s t

/-- READ (R161, R201, R204) and STATUS (R16, R168, R201): the payloads, each value as it stands at the execution, with
the request and the reply held and the request counted in the inbox; and the octets of every entry of the eight
tables, read-only fields included (R165, R188, R199, R204, R205). -/
def Obligations.ReadAndStatusReport : Prop :=
  (∀ (turn : Turn) (h : ReqHeader) (offset count : Byte) (s : State),
    let st := match s.agent.window with
      | none => Status.noWindow
      | some w => if w.holder ≠ h.controller then .windowHeld
        else if 1 ≤ count.toNat ∧ count.toNat ≤ 16 ∧ offset.toNat + count.toNat ≤ 64 ∧
          w.base + offset.toNat + count.toNat - 1 < tableEntries w.table then .done else .range
    let payload := match s.agent.window with
      | some w => if st = .done then
          octets2 (BitVec.ofNat 16 (w.base + offset.toNat)) ++
            (List.range' (w.base + offset.toNat) count.toNat).flatMap (s.entryOctets w.table) else []
      | none => []
    s.Answers turn (.read h offset count) h (8 + payload.length) →
    ∃ t, exec (turn.command (.read h offset count)) s = .next t ∧ Answered turn [] s t h 0x03 st payload ∧
      t.agent.window = touched h.controller.val s.agent.window ∧
      KeepsLimits s t ∧ KeepsNotices s t ∧ ChangesOnly answerBlocks s t) ∧
  (∀ (turn : Turn) (h : ReqHeader) (s : State), s.Answers turn (.status h) h 31 →
    let claimed := 2 - turn.asked.length
    ∃ t, exec (turn.command (.status h)) s = .next t ∧
      Answered turn [] s t h 0x07 .done
        ([linkCode s.line.link] ++ octets2 (BitVec.ofNat 16 (s.freeHandles - claimed)) ++
          octets2 (BitVec.ofNat 16 (s.freeCells - claimed)) ++
          octets2 (BitVec.ofNat 16 (s.queue .t0).members.length) ++
          octets2 (BitVec.ofNat 16 (s.queue .t1).members.length) ++
          octets2 (BitVec.ofNat 16 (s.queue .t2).members.length) ++
          octets2 (BitVec.ofNat 16 (s.queue .t3).members.length) ++
          [BitVec.ofNat 8 s.tx.stack.length, contextCode (s.context .t0), contextCode (s.context .t1),
            contextCode (s.context .t2), contextCode (s.context .t3),
            BitVec.ofNat 8 (1 + turn.behind.length)] ++
          (match s.agent.window with
           | none => [0xFF, 0x00]
           | some w => [BitVec.ofNat 8 w.holder.val, tableCode w.table]) ++
          [BitVec.ofNat 8 s.notices.records.length, s.part.node.setWidth 8]) ∧
      t.agent.window = touched h.controller.val s.agent.window ∧
      KeepsLimits s t ∧ KeepsNotices s t ∧ ChangesOnly answerBlocks s t) ∧
  ∀ s : State, s.EntriesRead

/-- The answers of a WRITE that stores nothing (R162, R205), in the order of their judgement, for every row that
writes a table (WRITE_STREAM, WRITE_ALLOT, WRITE_STREAM_TALLY, WRITE_TIER, WRITE_PORT, WRITE_PART, WRITE_DISCARD,
WRITE_NOTICES): the octets are read as entries of the window's table, and INVALID_ENTRY names the first entry that
fails.  A WRITE_NOTICES to the NOTICES table is READ_ONLY, its own effect. -/
def Obligations.RefusedWritesStoreNothing : Prop :=
  (∀ (turn : Turn) (h : ReqHeader) (offset count : Byte) (es : List (BitVec 64)) (s : State) (base : Nat),
    s.Answers turn (.writeNotices h offset count es) h 8 → s.Holds h.controller .notices base →
    ∃ t, exec (turn.command (.writeNotices h offset count es)) s = .next t ∧ Answered turn [] s t h 0x04 .readOnly [] ∧
      t.agent.window = touched h.controller.val s.agent.window ∧
      KeepsLimits s t ∧ KeepsNotices s t ∧ ChangesOnly answerBlocks s t) ∧
  ∀ (turn : Turn) (x : Instr) (s : State) (h : ReqHeader) (args : List Byte) (offset count : Nat) (data : List Byte),
    requestParts x = some (h, 0x04, args) → requestOf x = some ⟨h.controller, h.number, .write offset count data⟩ →
    s.Answers turn x h 10 →
    let refused := fun (st : Status) (payload : List Byte) =>
      ∃ t, exec (turn.command x) s = .next t ∧ Answered turn [] s t h 0x04 st payload ∧
        t.agent.window = touched h.controller.val s.agent.window ∧
        KeepsLimits s t ∧ KeepsNotices s t ∧ ChangesOnly answerBlocks s t
    (s.agent.window = none → refused .noWindow []) ∧
    ∀ w, s.agent.window = some w →
      (w.holder ≠ h.controller → refused .windowHeld []) ∧
      (w.holder = h.controller → w.table = .notices → refused .readOnly []) ∧
      (w.holder = h.controller → w.table ≠ .notices → ¬ InWindow w.table w.base offset count 8 → refused .range []) ∧
      (w.holder = h.controller → w.table ≠ .notices → InWindow w.table w.base offset count 8 →
        (data.length < count * entrySize w.table → refused .badRequest []) ∧
        (count * entrySize w.table ≤ data.length → ∀ k, k < count → entryFails w.table (writtenEntry w.table data k) →
          (∀ j, j < k → ¬ entryFails w.table (writtenEntry w.table data j)) →
          refused .invalidEntry (octets2 (BitVec.ofNat 16 (w.base + offset + k)))))

/-- WRITE_STREAM of entries that pass their codes (R23, R24, R25, R31): DUPLICATE_TAG where the table would hold one
tag twice; else each entry is stored whole and its metering runtime is kept, loaded or made UNMETERED as R31 gives. -/
def Obligations.WriteStreamStoresEntries : Prop :=
  ∀ (turn : Turn) (h : ReqHeader) (offset count : Byte) (es : List StreamWords) (s : State) (base : Nat)
    (l : List StreamEntry),
    s.Answers turn (.writeStream h offset count es) h 8 → StreamsOk s → s.Holds h.controller .stream base →
    InWindow .stream base offset.toNat count.toNat 8 → Spell parseStream StreamWords.octets es count.toNat l →
    let first := base + offset.toNat
    let written := fun i => if first ≤ i then l[i - first]? else none
    let entry := fun i => (written i).getD (s.stream i)
    let clash := ∃ i j, i < j ∧ j < 256 ∧ (entry i).valid = true ∧ (entry j).valid = true ∧ (entry i).tag = (entry j).tag
    ∃ t, exec (turn.command (.writeStream h offset count es)) s = .next t ∧ KeepsLimits s t ∧ KeepsNotices s t ∧
      t.agent.window = touched h.controller.val s.agent.window ∧
      (clash → Answered turn [] s t h 0x04 .duplicateTag [] ∧ ChangesOnly answerBlocks s t) ∧
      (¬ clash → Answered turn [] s t h 0x04 .done [] ∧ ChangesOnly (answerBlocks ++ [.streams, .metering]) s t ∧
        t.metering.records = s.metering.records ∧ t.metering.epochElapsed = s.metering.epochElapsed ∧
        ∀ i, t.stream i = entry i ∧
          t.runtime i = match written i with
            | none => s.runtime i
            | some e =>
              if (s.stream i).valid = true ∧ e.valid = true ∧ (s.stream i).chainHead = e.chainHead then s.runtime i
              else match e.valid, e.chainHead with
                | true, some r =>
                  .metered r (if (s.record r).budget = 0 then .unbounded else .octets (s.record r).budget.toNat)
                | _, _ => .unmetered)

/-- WRITE_ALLOT (R71, R72: no runtime changes), WRITE_TIER (R81: the limits alone), WRITE_STREAM_TALLY and
WRITE_DISCARD (R192) of entries that pass their codes: each entry is stored whole, and nothing else of its table
changes. -/
def Obligations.WritesStoreTableEntries : Prop :=
  ∀ (turn : Turn) (h : ReqHeader) (offset count : Byte) (s : State) (base : Nat),
    let first := base + offset.toNat
    (∀ es l, s.Answers turn (.writeAllot h offset count es) h 8 → s.Holds h.controller .allot base →
      InWindow .allot base offset.toNat count.toNat 8 → Spell parseAllot AllotWords.octets es count.toNat l →
      ∃ t, exec (turn.command (.writeAllot h offset count es)) s = .next t ∧ Answered turn [] s t h 0x04 .done [] ∧
        KeepsLimits s t ∧ KeepsNotices s t ∧ t.agent.window = touched h.controller.val s.agent.window ∧
        (∀ r : RecordIx, t.record r = if first ≤ r.val then l.getD (r.val - first) (s.record r) else s.record r) ∧
        t.metering.runtimes = s.metering.runtimes ∧ t.metering.epochElapsed = s.metering.epochElapsed ∧
        ChangesOnly (answerBlocks ++ [.metering]) s t) ∧
    (∀ es l, s.Answers turn (.writeTier h offset count es) h 8 → s.Holds h.controller .tier base →
      InWindow .tier base offset.toNat count.toNat 8 → Spell parseTier TierWords.octets es count.toNat l →
      ∃ t, exec (turn.command (.writeTier h offset count es)) s = .next t ∧ Answered turn [] s t h 0x04 .done [] ∧
        KeepsNotices s t ∧ t.agent.window = touched h.controller.val s.agent.window ∧
        (∀ q : Tier, (t.queue q).limit =
          if first ≤ q.ix.val then l.getD (q.ix.val - first) (s.queue q).limit else (s.queue q).limit) ∧
        ChangesOnly answerBlocks s t) ∧
    (∀ es l, s.Answers turn (.writeStreamTally h offset count es) h 8 → s.Holds h.controller .streamTally base →
      InWindow .streamTally base offset.toNat count.toNat 8 → Spell parseTally TallyWords.octets es count.toNat l →
      ∃ t, exec (turn.command (.writeStreamTally h offset count es)) s = .next t ∧ Answered turn [] s t h 0x04 .done [] ∧
        KeepsLimits s t ∧ KeepsNotices s t ∧ t.agent.window = touched h.controller.val s.agent.window ∧
        (∀ i : StreamIx, t.tally i = if first ≤ i.val then l.getD (i.val - first) (s.tally i) else s.tally i) ∧
        (∀ k, t.discardCount k = s.discardCount k) ∧ ChangesOnly (answerBlocks ++ [.tallies]) s t) ∧
    ∀ es l, s.Answers turn (.writeDiscard h offset count es) h 8 → s.Holds h.controller .discard base →
      InWindow .discard base offset.toNat count.toNat 8 → Spell parseDiscard octets4 es count.toNat l →
      ∃ t, exec (turn.command (.writeDiscard h offset count es)) s = .next t ∧ Answered turn [] s t h 0x04 .done [] ∧
        KeepsLimits s t ∧ KeepsNotices s t ∧ t.agent.window = touched h.controller.val s.agent.window ∧
        (∀ k : Cause, t.discardCount k =
          if first ≤ k.ix.val then l.getD (k.ix.val - first) (s.discardCount k) else s.discardCount k) ∧
        (∀ i, t.tally i = s.tally i) ∧ ChangesOnly (answerBlocks ++ [.tallies]) s t

/-- WRITE_PORT (R39, R53): the enabled fields are set; a port changed from set to clear keeps the frame in
transmission, and every frame behind it is discarded with cause PORT_DISABLED; nothing else of a port changes. -/
def Obligations.WritePortEnablesAndDisables : Prop :=
  ∀ (turn : Turn) (h : ReqHeader) (offset count : Byte) (es : List PortWords) (s : State) (base : Nat) (l : List Bool),
    s.Answers turn (.writePort h offset count es) h 8 → HoldersOk s → s.Holds h.controller .port base →
    InWindow .port base offset.toNat count.toNat 8 → Spell parsePort PortWords.octets es count.toNat l →
    let first := base + offset.toNat
    let on := fun p : Port => if first ≤ p.val then l.getD (p.val - first) (s.port p).enabled else (s.port p).enabled
    let off := fun p : Port => (s.port p).enabled && !on p
    let gone := allPorts.flatMap fun p => if off p then (s.port p).egress.drop 1 else []
    ∃ t, exec (turn.command (.writePort h offset count es)) s = .next t ∧ Answered turn gone s t h 0x04 .done [] ∧
      KeepsLimits s t ∧ KeepsNotices s t ∧ t.agent.window = touched h.controller.val s.agent.window ∧
      (∀ p, t.port p = { s.port p with
        enabled := on p
        egress := if off p then (s.port p).egress.take 1 else (s.port p).egress }) ∧
      (s.notices.pending = false → ∀ x ∈ gone, t.handle? x = none) ∧
      t.discardCount .portDisabled = s.discardCount .portDisabled + BitVec.ofNat 32 gone.length ∧
      (∀ k, k ≠ .portDisabled → t.discardCount k = s.discardCount k) ∧
      (∀ i, t.tally i = { s.tally i with
        framesDiscarded := (s.tally i).framesDiscarded +
          BitVec.ofNat 32 (gone.filter fun x => decide (s.streamOf x = some i)).length }) ∧
      ChangesOnly (answerBlocks ++ [.ports, .tallies]) s t

/-- WRITE_PART (R74, R164, R184): the epoch period and the notice tag are set and the epoch timer starts from zero; the
resend timer is held or resumed with the tag; and a tag that leaves 0x0000 with the link UP lets the oldest QUEUED
notice be sent, its frame behind the reply (R177). -/
def Obligations.WritePartSetsPeriodAndTag : Prop :=
  ∀ (turn : Turn) (h : ReqHeader) (offset count : Byte) (e : PartWords) (more : List PartWords) (s : State) (base : Nat),
    s.Answers turn (.writePart h offset count (e :: more)) h 8 → NoticesOk s → s.Holds h.controller .part base →
    InWindow .part base offset.toNat count.toNat 8 →
    ∃ t, exec (turn.command (.writePart h offset count (e :: more))) s = .next t ∧
      Answered turn [] s t h 0x04 .done [] ∧ KeepsLimits s t ∧ t.agent.window = touched h.controller.val s.agent.window ∧
      t.part = { s.part with epochPeriod := e.epochPeriod, noticeTag := e.noticeTag } ∧
      t.metering = { s.metering with epochElapsed := 0 } ∧
      (s.notices.pending = false →
        (∀ k, s.notices.timer = .running k → t.notices = { s.notices with
          timer := if e.noticeTag = 0 then .held k else .running k }) ∧
        (∀ k, s.notices.timer = .held k → t.notices = { s.notices with
          timer := if s.line.link = .up ∧ e.noticeTag ≠ 0 then .running k else .held k }) ∧
        (s.notices.timer = .stopped → (s.line.link ≠ .up ∨ e.noticeTag = 0 ∨ s.notices.records = []) →
          t.notices = s.notices) ∧
        ∀ n rest, s.notices.timer = .stopped → s.line.link = .up → e.noticeTag ≠ 0 → s.notices.records = n :: rest →
          t.notices = { s.notices with
            records := { n with state := .sent s.notices.counter 1 (BitVec.ofNat 8 s.notices.lost) } :: rest
            counter := s.notices.counter + 1, timer := .running 0 } ∧
          RepliesThenNotifies turn s t (s.replyOctets h 0x04 .done false [])
            (t.noticeFrame n.notice s.notices.counter 1 (BitVec.ofNat 8 s.notices.lost))) ∧
      ChangesOnly (answerBlocks ++ [.part, .metering]) s t

/-- APPEND (R69, R70, R166) and ACKNOWLEDGE (R167, R182).  An acknowledged record leaves the queue, and the
lost-notice count returns to 0 where the record carried a non-zero one; the next record is sent, its frame behind the
reply, where the link is UP with the notice tag set (R177). -/
def Obligations.AppendAndAcknowledge : Prop :=
  (∀ (turn : Turn) (h : ReqHeader) (tail new : BitVec 16) (s : State),
    s.Answers turn (.append h tail new) h 10 → TablesOk s →
    ∃ t, exec (turn.command (.append h tail new)) s = .next t ∧ KeepsLimits s t ∧ KeepsNotices s t ∧
      t.agent.window = touched h.controller.val s.agent.window ∧
      (1024 ≤ tail.toNat ∨ 1024 ≤ new.toNat → Answered turn [] s t h 0x05 .range [] ∧ ChangesOnly answerBlocks s t) ∧
      ∀ r n : RecordIx, r.val = tail.toNat → n.val = new.toNat →
        ((s.record r).next ≠ none → Answered turn [] s t h 0x05 .chainNotEnd [] ∧ ChangesOnly answerBlocks s t) ∧
        ((s.record r).next = none →
          Answered turn [] s t h 0x05 .done (octets2 (BitVec.ofNat 16
            ((List.range 256).filter fun i => decide (s.runtime i = .exhausted r)).length)) ∧
          t.record r = { s.record r with next := some n } ∧ (∀ q, q ≠ r → t.record q = s.record q) ∧
          (∀ i : StreamIx, t.runtime i.val = if s.runtime i.val = .exhausted r then
            .metered n (if (s.record n).budget = 0 then .unbounded else .octets (s.record n).budget.toNat)
            else s.runtime i.val) ∧
          t.metering.epochElapsed = s.metering.epochElapsed ∧ ChangesOnly (answerBlocks ++ [.metering]) s t)) ∧
  ∀ (turn : Turn) (h : ReqHeader) (sequence : Byte) (s : State),
    s.Answers turn (.acknowledge h sequence) h 8 → NoticesOk s →
    ∃ t, exec (turn.command (.acknowledge h sequence)) s = .next t ∧ KeepsLimits s t ∧
      t.agent.window = touched h.controller.val s.agent.window ∧ ChangesOnly answerBlocks s t ∧
      ((∀ n ∈ s.notices.records, ∀ q k lost, n.state = .sent q k lost → q ≠ sequence) →
        Answered turn [] s t h 0x06 .notFound [] ∧ KeepsNotices s t) ∧
      ∀ n k lost rest, s.notices.records = { notice := n, state := .sent sequence k lost } :: rest →
        Answered turn [] s t h 0x06 .done [] ∧
        let left := if lost = 0 then s.notices.lost else 0
        ((rest = [] ∨ s.line.link ≠ .up ∨ s.part.noticeTag = 0) →
          t.notices = { records := rest, counter := s.notices.counter, lost := left, timer := .stopped
                        pending := false }) ∧
        ∀ m more, rest = m :: more → s.line.link = .up → s.part.noticeTag ≠ 0 →
          t.notices = { records := { m with state := .sent s.notices.counter 1 (BitVec.ofNat 8 left) } :: more
                        counter := s.notices.counter + 1, lost := left, timer := .running 0, pending := false } ∧
          RepliesThenNotifies turn s t (s.replyOctets h 0x06 .done false [])
            (t.noticeFrame m.notice s.notices.counter 1 (BitVec.ofNat 8 left))

/-- RESTART (R19, R34, R55, R78, R107, R144, R170, R186): every frame but the request's and the reply's, the requests
behind it in the inbox among them, is discarded with cause FLUSH, once; each block takes its restart values; the reply
is the first frame of the T0 queue, and the ANNOUNCE frame stands behind it where the link is UP with the notice tag
set. -/
def Obligations.RestartFlushesThePart : Prop :=
  ∀ (turn : Turn) (h : ReqHeader) (s : State), s.Answers turn (.restart h) h 8 → HoldersOk s → ReceiverOk s →
    TablesOk s →
    ∃ t r, exec (turn.command (.restart h)) s = .next t ∧
      t.agent = { state := .idle, inbox := [], window := none
                  records := (Vector.replicate 4 none).set h.controller.val
                    (some { number := h.number, status := .done }) } ∧
      t.bodyOf r = octets2 h.replyTag ++
        [s.part.node.setWidth 8, BitVec.ofNat 8 h.controller.val, h.number, 0x08, 0x00, 0x00] ∧
      t.part = { s.part with cause := .soft } ∧
      (∀ p, t.port p = { s.port p with
        ingress := .idle, egress := []
        sent := if (s.port p).egress = [] then (s.port p).sent else (s.port p).sent ++ [.closeAbort, .idle] }) ∧
      t.tx = { mode := if s.line.link = .up then .clearing else .offline, active := none, fragment := none, stack := [] } ∧
      (∀ u, u ≠ .t0 → (t.queue u).members = []) ∧ KeepsLimits s t ∧
      (∀ u, t.context u = .closed) ∧ t.rx.fragment = none ∧
      t.metering.records = s.metering.records ∧ t.metering.epochElapsed = 0 ∧
      (∀ i : StreamIx, t.runtime i.val =
        match (s.stream i.val).valid, (s.stream i.val).chainHead with
        | true, some r =>
          .metered r (if (s.record r).budget = 0 then .unbounded else .octets (s.record r).budget.toNat)
        | _, _ => .unmetered) ∧
      t.discardCount .flush = s.discardCount .flush + BitVec.ofNat 32 (s.buf.handles.length - turn.asked.length +
        (allPorts.filter fun p => match (s.port p).ingress with
          | .tagWait _ => true
          | _ => false).length +
        (Tier.all.filter fun u => match s.context u with
          | .opened a => a.handle.isNone
          | _ => false).length) ∧
      (∀ k, k ≠ .flush → t.discardCount k = s.discardCount k) ∧
      (∀ i, t.tally i = { s.tally i with
        framesDiscarded := (s.tally i).framesDiscarded +
          BitVec.ofNat 32 (s.buf.handles.filter fun e => decide (e.2.stream = some i ∧ e.1 ∉ turn.asked)).length }) ∧
      (s.line.link ≠ .up ∨ s.part.noticeTag = 0 →
        (t.queue .t0).members = [r] ∧ t.freeHandles = 511 ∧ t.freeCells = 4095 ∧
        t.notices = { records := [{ notice := .announce .soft s.part.node, state := .queued }]
                      counter := s.notices.counter, lost := s.notices.lost, timer := .stopped, pending := false }) ∧
      (s.line.link = .up → s.part.noticeTag ≠ 0 → ∃ k, (t.queue .t0).members = [r, k] ∧ t.freeHandles = 510 ∧
        t.freeCells = 4094 ∧
        t.bodyOf k = octets2 s.part.noticeTag ++
          [s.part.node.setWidth 8, s.notices.counter, 0x01, 0x00, 0x02, s.part.node.setWidth 8, 0x00, 0x00,
            BitVec.ofNat 8 s.notices.lost, 0x01] ∧
        t.notices = { records := [{ notice := .announce .soft s.part.node
                                    state := .sent s.notices.counter 1 (BitVec.ofNat 8 s.notices.lost) }]
                      counter := s.notices.counter + 1, lost := s.notices.lost, timer := .running 0
                      pending := false }) ∧
      ChangesOnly (answerBlocks ++ [.metering, .ports, .rx, .part, .tallies]) s t ∧ t.line = s.line

/-- PORT_RESET (R20, R54, R169): RANGE above port 7; else the ingress is IDLE and the egress queue empty, a frame in
transmission ended by CLOSE ABORT, and every frame of the port is discarded with cause FLUSH; the enabled field and the
other ports stand. -/
def Obligations.PortResetFlushesThePort : Prop :=
  ∀ (turn : Turn) (h : ReqHeader) (port : Byte) (s : State), s.Answers turn (.portReset h port) h 8 → HoldersOk s →
    ∃ t, exec (turn.command (.portReset h port)) s = .next t ∧ KeepsLimits s t ∧ KeepsNotices s t ∧
      t.agent.window = touched h.controller.val s.agent.window ∧
      (8 ≤ port.toNat → Answered turn [] s t h 0x09 .range [] ∧ ChangesOnly answerBlocks s t) ∧
      ∀ p : Port, p.val = port.toNat →
        let held := match (s.port p).ingress with
          | .receiving x _ => [x]
          | _ => []
        let waiting := match (s.port p).ingress with
          | .tagWait _ => 1
          | _ => 0
        let gone := held ++ (s.port p).egress
        Answered turn gone s t h 0x09 .done [] ∧ KeepsPorts p s t ∧
        t.port p = { s.port p with
          ingress := .idle, egress := []
          sent := if (s.port p).egress = [] then (s.port p).sent else (s.port p).sent ++ [.closeAbort, .idle] } ∧
        (s.notices.pending = false → ∀ x ∈ gone, t.handle? x = none) ∧
        t.discardCount .flush = s.discardCount .flush + BitVec.ofNat 32 (gone.length + waiting) ∧
        (∀ k, k ≠ .flush → t.discardCount k = s.discardCount k) ∧
        (∀ i, t.tally i = { s.tally i with
          framesDiscarded := (s.tally i).framesDiscarded +
            BitVec.ofNat 32 (gone.filter fun x => decide (s.streamOf x = some i)).length }) ∧
        ChangesOnly (answerBlocks ++ [.ports, .tallies]) s t

/-- MALFORMED_REQUEST (R154): BAD_REQUEST with the received octets echoed, and no record changed; and the repeat
filter (R156): a request of any kind but READ and STATUS that repeats its controller's last number is answered with
the recorded status, the repeat flag and no payload, and changes nothing but the window idle timer of its holder.  Both at their own delivery (notes/assumptions/6.md); at an attempt
on the head of the inbox they are stated in AttemptsAnswerTheHead. -/
def Obligations.MalformedAndRepeatedRequests : Prop :=
  (∀ (tier : Tier) (broadcast : Bool) (rest : List Byte) (s : State),
    (Instr.malformedRequest tier broadcast rest).wellFormed = true → StoresOk s → s.agent.state = .idle →
    s.agent.inbox = [] → s.releaseEvents = 0 → 2 ≤ s.freeHandles → cellsFor (2 + rest.length) + 1 ≤ s.freeCells →
    ∃ t r, exec (.malformedRequest tier broadcast rest) s = .next t ∧
      (r ∈ (t.queue .t0).members ∨ t.tx.active = some r) ∧
      t.bodyOf r = [rest.getD 0 0, rest.getD 1 0, s.part.node.setWidth 8, rest.getD 2 0, rest.getD 3 0, rest.getD 4 0,
        0x0A, 0x00] ∧
      t.agent = { s.agent with window := touched (rest.getD 2 0).toNat s.agent.window } ∧
      AnswerFrame [] s t ∧ KeepsLimits s t ∧ KeepsNotices s t ∧ ChangesOnly answerBlocks s t) ∧
  ∀ (x : Instr) (s : State) (h : ReqHeader) (kind : Byte) (args : List Byte) (last : CtlRecord),
    requestParts x = some (h, kind, args) → kind ≠ 0x03 → kind ≠ 0x07 → x.wellFormed = true →
    s.agent.records.get h.controller = some last → last.number = h.number → StoresOk s → s.agent.state = .idle →
    s.agent.inbox = [] → s.releaseEvents = 0 → 2 ≤ s.freeHandles →
    cellsFor (s.bodyOfRequest x).length + 1 ≤ s.freeCells →
    ∃ t, exec x s = .next t ∧ Replies s t h kind last.status true [] ∧
      t.agent = { s.agent with window := touched h.controller.val s.agent.window } ∧
      AnswerFrame [] s t ∧ KeepsLimits s t ∧ KeepsNotices s t ∧ ChangesOnly answerBlocks s t

/-- What a request meets before it can be answered (R9, R132, R139, R148, R149, R150): its own management claims; the
inbox of four; a head already there; and a refused reply claim, which leaves the agent WAITING with nothing carried
out. That a request command is the delivery of the whole frame in one event, whatever the link state, is the model's
choice, and that a body above 2048 octets is counted as FRAME_CHECK is deduced from R132 (notes/assumptions/6.md). -/
def Obligations.RequestsWaitInTheInbox : Prop :=
  ∀ (x : Instr) (s : State) (h : ReqHeader) (kind : Byte) (args : List Byte), requestParts x = some (h, kind, args) →
    StoresOk s →
    let body := s.bodyOfRequest x
    ∃ u, exec x s = .next u.settle ∧
      (2048 < body.length → Counted s u .frameCheck none ∧ ChangesOnly [.tallies] s u) ∧
      (body.length ≤ 2048 → s.freeHandles = 0 → Counted s u .noHandle none ∧ ChangesOnly [.tallies] s u) ∧
      (body.length ≤ 2048 → 1 ≤ s.freeHandles → s.freeCells < cellsFor body.length →
        Counted s u .noCell none ∧ KeepsHandles [] s u ∧ KeepsHeld s u ∧ u.releaseEvents = s.releaseEvents + 1 ∧
        ChangesOnly [.buf, .tallies, .releaseEvents] s u) ∧
      (body.length ≤ 2048 → 1 ≤ s.freeHandles → cellsFor body.length ≤ s.freeCells →
        (4 ≤ s.agent.inbox.length → Counted s u .inboxFull none ∧ KeepsHandles [] s u ∧ KeepsHeld s u ∧
          u.releaseEvents = s.releaseEvents + 1 ∧ ChangesOnly [.buf, .tallies, .releaseEvents] s u) ∧
        (s.agent.inbox.length < 4 → s.agent.inbox ≠ [] ∨ s.agent.state = .waiting → ∃ k r, s.handle? k = none ∧
          u.handle? k = some r ∧ r.holder = .inbox ∧ r.tier = h.tier ∧ r.stream = none ∧ u.bodyOf k = body ∧
          KeepsHandles [k] s u ∧ KeepsHeld s u ∧ u.agent = { s.agent with inbox := s.agent.inbox ++ [k] } ∧
          ChangesOnly [.buf, .agent] s u) ∧
        (s.agent.inbox = [] → s.agent.state = .idle →
          s.freeHandles = 1 ∨ s.freeCells = cellsFor body.length → ∃ k r, s.handle? k = none ∧
          u.handle? k = some r ∧ r.holder = .inbox ∧ u.bodyOf k = body ∧ KeepsHandles [k] s u ∧ KeepsHeld s u ∧
          u.agent = { s.agent with inbox := [k], state := .waiting } ∧ ChangesOnly [.buf, .agent] s u))

/-- AGENT_ATTEMPT_EVENT and AGENT_RETRY (R13, R149, R150, R151): the IDLE agent's attempt on its head, and the WAITING
agent's at a release event, are one attempt: refused, the agent is WAITING; granted, the head is answered, its reply
joins the T0 queue and its handle is released.  Stated here for the verdicts that change at most the window; an
attempt on a READ, WRITE, APPEND, ACKNOWLEDGE, STATUS, RESTART or PORT-RESET is stated with those commands, whose
`turn` it is.  An attempt in the other state of the agent does not occur (notes/assumptions/1.md). -/
def Obligations.AttemptsAnswerTheHead : Prop :=
  ∀ s : State,
    (s.agent.inbox = [] → exec .agentAttemptEvent s = .next s ∧ exec .agentRetry s = .next s) ∧
    (s.agent.state = .waiting → exec .agentAttemptEvent s = .next s) ∧
    (s.agent.state = .idle → exec .agentRetry s = .next s) ∧
    ∀ x k rest, StoresOk s → HoldersOk s → s.agent.inbox = k :: rest →
      (x = .agentAttemptEvent ∧ s.agent.state = .idle ∨ x = .agentRetry ∧ s.agent.state = .waiting) →
      (s.freeHandles = 0 ∨ s.freeCells < cellsFor (s.verdict (s.bodyOf k)).replyLength →
        ∃ t, exec x s = .next t ∧ t.agent = { s.agent with state := .waiting } ∧ ChangesOnly [.agent] s t) ∧
      (1 ≤ s.freeHandles → 1 ≤ s.freeCells → (s.verdict (s.bodyOf k)).plain = true →
        let body := s.bodyOf k
        let v := s.verdict body
        ∃ t r, exec x s = .next t ∧ (r ∈ (t.queue .t0).members ∨ t.tx.active = some r) ∧
          t.bodyOf r = [octetAt body 2, octetAt body 3, s.part.node.setWidth 8, octetAt body 4, octetAt body 5,
            octetAt body 6, statusCode v.status, flagCode v.isRepeat] ∧
          t.agent.state = .idle ∧ t.agent.inbox = rest ∧
          (∀ c : Controller, t.agent.records.get c = match v with
            | .fresh q a => if q.controller = c ∧ a.status ≠ .badRequest then
                some { number := q.number, status := a.status } else s.agent.records.get c
            | _ => s.agent.records.get c) ∧
          t.agent.window = (match v with
            | .fresh q (.done (.select table base)) =>
              some { holder := q.controller, table := table, base := base, idle := 0 }
            | .fresh _ (.done .release) => none
            | _ => touched (octetAt body 4).toNat s.agent.window) ∧
          (s.notices.pending = false → t.handle? k = none) ∧
          AnswerFrame [k] s t ∧ KeepsLimits s t ∧ KeepsNotices s t ∧ ChangesOnly answerBlocks s t)

/-! ## The notice queue -/

/-- A raise (R175): the QUEUED record of the same kind and subject takes the new detail; else a full queue drops the
notice and the lost count advances, up to 255 (R185); else a QUEUED record is appended, and a first send is attempted
where it is now possible (R177). -/
def Obligations.RaisesCoalesceDropOrAppend : Prop :=
  (∀ a b : Notice, a.sameMatter b = true ↔ noticeKindCode a = noticeKindCode b ∧ noticeSubject a = noticeSubject b) ∧
  ∀ (s : State) (n : Notice),
    (∀ (k : Nat) (r : NoticeRecord), s.notices.records[k]? = some r → r.state = .queued → r.notice.sameMatter n = true →
      (∀ (j : Nat) (q : NoticeRecord), j < k → s.notices.records[j]? = some q →
        q.state = .queued → q.notice.sameMatter n = false) →
      s.raiseNotice n = s.withNotices { s.notices with
        records := s.notices.records.set k { notice := n, state := .queued } }) ∧
    ((∀ r ∈ s.notices.records, r.state = .queued → r.notice.sameMatter n = false) →
      (16 ≤ s.notices.records.length →
        s.raiseNotice n = s.withNotices { s.notices with lost := min 255 (s.notices.lost + 1) }) ∧
      (s.notices.records.length < 16 →
        s.raiseNotice n = (s.withNotices { s.notices with
          records := s.notices.records ++ [{ notice := n, state := .queued }] }).noticeAttempt))

/-- The sends of a notice: the first send (R177, R178), NOTICE_CLAIM_RETRY (R13, R178, R180) and RESEND_TIMER_EXPIRY
(R180, R181), each with its frame (R179, R202), or the send pending mark where the claim is
refused.  NOTICE_CLAIM_RETRY with no claim pending or no sending allowed, and RESEND_TIMER_EXPIRY with a timer that is
not running, are events that do not occur, and change nothing (the model's choice, notes/assumptions/1.md). -/
def Obligations.NoticesAreSentAndResent : Prop :=
  ∀ s : State, StoresOk s →
    let isOpen := s.line.link = .up ∧ s.part.noticeTag ≠ 0
    let pends := fun t : State => t.notices = { s.notices with pending := true, timer := .stopped } ∧
      ChangesOnly [.notices] s t
    let room := 1 ≤ s.freeHandles ∧ 1 ≤ s.freeCells
    let lost := BitVec.ofNat 8 s.notices.lost
    (¬ (isOpen ∧ s.notices.records ≠ [] ∧ (∀ r ∈ s.notices.records, r.state = .queued) ∧ s.notices.pending = false) →
      s.noticeAttempt = s) ∧
    (∀ n rest, isOpen → s.notices.records = n :: rest → (∀ r ∈ s.notices.records, r.state = .queued) →
      s.notices.pending = false →
      (room → SendsNotice s s.noticeAttempt n.notice rest s.notices.counter 1 lost (s.notices.counter + 1)) ∧
      (¬ room → pends s.noticeAttempt)) ∧
    (¬ (isOpen ∧ s.notices.records ≠ [] ∧ s.notices.pending = true) → exec .noticeClaimRetry s = .next s) ∧
    (∀ n rest, isOpen → s.notices.pending = true → s.notices.records = n :: rest →
      ∃ t, exec .noticeClaimRetry s = .next t ∧ (¬ room → pends t) ∧
        (room → n.state = .queued → SendsNotice s t n.notice rest s.notices.counter 1 lost (s.notices.counter + 1)) ∧
        (room → ∀ q k carried, n.state = .sent q k carried →
          SendsNotice s t n.notice rest q (k + 1) carried s.notices.counter)) ∧
    ((∀ e, s.notices.timer ≠ .running e) → exec .resendTimerExpiry s = .next s) ∧
    ∀ e n q k carried rest, s.notices.timer = .running e →
      s.notices.records = { notice := n, state := .sent q k carried } :: rest →
      (k < 4 → ∃ t, exec .resendTimerExpiry s = .next t ∧ (¬ room → pends t) ∧
        (room → SendsNotice s t n rest q (k + 1) carried s.notices.counter)) ∧
      (4 ≤ k → ∃ u, exec .resendTimerExpiry s = .next u.noticeAttempt ∧
        u.notices = { s.notices with
          records := rest, timer := .stopped, pending := false, lost := min 255 (s.notices.lost + 1) } ∧
        ChangesOnly [.notices] s u)
end

