-- ==== Sys2Proof/Laws/State.lean ====
section
/-! SUPPORT. Each field of the state after each update of one block. -/

namespace Sys2Proof.Machine.State

variable (s : State)

@[simp] theorem withBuf_buf (v : Buffers) : (s.withBuf v).buf = v := rfl
@[simp] theorem withBuf_streams (v : Buffers) : (s.withBuf v).streams = s.streams := rfl
@[simp] theorem withBuf_metering (v : Buffers) : (s.withBuf v).metering = s.metering := rfl
@[simp] theorem withBuf_ports (v : Buffers) : (s.withBuf v).ports = s.ports := rfl
@[simp] theorem withBuf_queues (v : Buffers) : (s.withBuf v).queues = s.queues := rfl
@[simp] theorem withBuf_tx (v : Buffers) : (s.withBuf v).tx = s.tx := rfl
@[simp] theorem withBuf_line (v : Buffers) : (s.withBuf v).line = s.line := rfl
@[simp] theorem withBuf_rx (v : Buffers) : (s.withBuf v).rx = s.rx := rfl
@[simp] theorem withBuf_agent (v : Buffers) : (s.withBuf v).agent = s.agent := rfl
@[simp] theorem withBuf_part (v : Buffers) : (s.withBuf v).part = s.part := rfl
@[simp] theorem withBuf_notices (v : Buffers) : (s.withBuf v).notices = s.notices := rfl
@[simp] theorem withBuf_tallies (v : Buffers) : (s.withBuf v).tallies = s.tallies := rfl
@[simp] theorem withBuf_releaseEvents (v : Buffers) : (s.withBuf v).releaseEvents = s.releaseEvents := rfl
@[simp] theorem withBuf_pending (v : Buffers) : (s.withBuf v).pending = s.pending := rfl
@[simp] theorem withBuf_withBuf (v w : Buffers) : (s.withBuf v).withBuf w = s.withBuf w := rfl
@[simp] theorem withBuf_self : s.withBuf s.buf = s := rfl

@[simp] theorem withStreams_buf (v : List (Nat × StreamEntry)) : (s.withStreams v).buf = s.buf := rfl
@[simp] theorem withStreams_streams (v : List (Nat × StreamEntry)) : (s.withStreams v).streams = v := rfl
@[simp] theorem withStreams_metering (v : List (Nat × StreamEntry)) : (s.withStreams v).metering = s.metering := rfl
@[simp] theorem withStreams_ports (v : List (Nat × StreamEntry)) : (s.withStreams v).ports = s.ports := rfl
@[simp] theorem withStreams_queues (v : List (Nat × StreamEntry)) : (s.withStreams v).queues = s.queues := rfl
@[simp] theorem withStreams_tx (v : List (Nat × StreamEntry)) : (s.withStreams v).tx = s.tx := rfl
@[simp] theorem withStreams_line (v : List (Nat × StreamEntry)) : (s.withStreams v).line = s.line := rfl
@[simp] theorem withStreams_rx (v : List (Nat × StreamEntry)) : (s.withStreams v).rx = s.rx := rfl
@[simp] theorem withStreams_agent (v : List (Nat × StreamEntry)) : (s.withStreams v).agent = s.agent := rfl
@[simp] theorem withStreams_part (v : List (Nat × StreamEntry)) : (s.withStreams v).part = s.part := rfl
@[simp] theorem withStreams_notices (v : List (Nat × StreamEntry)) : (s.withStreams v).notices = s.notices := rfl
@[simp] theorem withStreams_tallies (v : List (Nat × StreamEntry)) : (s.withStreams v).tallies = s.tallies := rfl
@[simp] theorem withStreams_releaseEvents (v : List (Nat × StreamEntry)) : (s.withStreams v).releaseEvents = s.releaseEvents := rfl
@[simp] theorem withStreams_pending (v : List (Nat × StreamEntry)) : (s.withStreams v).pending = s.pending := rfl
@[simp] theorem withStreams_withStreams (v w : List (Nat × StreamEntry)) : (s.withStreams v).withStreams w = s.withStreams w := rfl
@[simp] theorem withStreams_self : s.withStreams s.streams = s := rfl

@[simp] theorem withMetering_buf (v : Metering) : (s.withMetering v).buf = s.buf := rfl
@[simp] theorem withMetering_streams (v : Metering) : (s.withMetering v).streams = s.streams := rfl
@[simp] theorem withMetering_metering (v : Metering) : (s.withMetering v).metering = v := rfl
@[simp] theorem withMetering_ports (v : Metering) : (s.withMetering v).ports = s.ports := rfl
@[simp] theorem withMetering_queues (v : Metering) : (s.withMetering v).queues = s.queues := rfl
@[simp] theorem withMetering_tx (v : Metering) : (s.withMetering v).tx = s.tx := rfl
@[simp] theorem withMetering_line (v : Metering) : (s.withMetering v).line = s.line := rfl
@[simp] theorem withMetering_rx (v : Metering) : (s.withMetering v).rx = s.rx := rfl
@[simp] theorem withMetering_agent (v : Metering) : (s.withMetering v).agent = s.agent := rfl
@[simp] theorem withMetering_part (v : Metering) : (s.withMetering v).part = s.part := rfl
@[simp] theorem withMetering_notices (v : Metering) : (s.withMetering v).notices = s.notices := rfl
@[simp] theorem withMetering_tallies (v : Metering) : (s.withMetering v).tallies = s.tallies := rfl
@[simp] theorem withMetering_releaseEvents (v : Metering) : (s.withMetering v).releaseEvents = s.releaseEvents := rfl
@[simp] theorem withMetering_pending (v : Metering) : (s.withMetering v).pending = s.pending := rfl
@[simp] theorem withMetering_withMetering (v w : Metering) : (s.withMetering v).withMetering w = s.withMetering w := rfl
@[simp] theorem withMetering_self : s.withMetering s.metering = s := rfl

@[simp] theorem withPorts_buf (v : Vector PortState 8) : (s.withPorts v).buf = s.buf := rfl
@[simp] theorem withPorts_streams (v : Vector PortState 8) : (s.withPorts v).streams = s.streams := rfl
@[simp] theorem withPorts_metering (v : Vector PortState 8) : (s.withPorts v).metering = s.metering := rfl
@[simp] theorem withPorts_ports (v : Vector PortState 8) : (s.withPorts v).ports = v := rfl
@[simp] theorem withPorts_queues (v : Vector PortState 8) : (s.withPorts v).queues = s.queues := rfl
@[simp] theorem withPorts_tx (v : Vector PortState 8) : (s.withPorts v).tx = s.tx := rfl
@[simp] theorem withPorts_line (v : Vector PortState 8) : (s.withPorts v).line = s.line := rfl
@[simp] theorem withPorts_rx (v : Vector PortState 8) : (s.withPorts v).rx = s.rx := rfl
@[simp] theorem withPorts_agent (v : Vector PortState 8) : (s.withPorts v).agent = s.agent := rfl
@[simp] theorem withPorts_part (v : Vector PortState 8) : (s.withPorts v).part = s.part := rfl
@[simp] theorem withPorts_notices (v : Vector PortState 8) : (s.withPorts v).notices = s.notices := rfl
@[simp] theorem withPorts_tallies (v : Vector PortState 8) : (s.withPorts v).tallies = s.tallies := rfl
@[simp] theorem withPorts_releaseEvents (v : Vector PortState 8) : (s.withPorts v).releaseEvents = s.releaseEvents := rfl
@[simp] theorem withPorts_pending (v : Vector PortState 8) : (s.withPorts v).pending = s.pending := rfl
@[simp] theorem withPorts_withPorts (v w : Vector PortState 8) : (s.withPorts v).withPorts w = s.withPorts w := rfl
@[simp] theorem withPorts_self : s.withPorts s.ports = s := rfl

@[simp] theorem withQueues_buf (v : Vector TierQueue 4) : (s.withQueues v).buf = s.buf := rfl
@[simp] theorem withQueues_streams (v : Vector TierQueue 4) : (s.withQueues v).streams = s.streams := rfl
@[simp] theorem withQueues_metering (v : Vector TierQueue 4) : (s.withQueues v).metering = s.metering := rfl
@[simp] theorem withQueues_ports (v : Vector TierQueue 4) : (s.withQueues v).ports = s.ports := rfl
@[simp] theorem withQueues_queues (v : Vector TierQueue 4) : (s.withQueues v).queues = v := rfl
@[simp] theorem withQueues_tx (v : Vector TierQueue 4) : (s.withQueues v).tx = s.tx := rfl
@[simp] theorem withQueues_line (v : Vector TierQueue 4) : (s.withQueues v).line = s.line := rfl
@[simp] theorem withQueues_rx (v : Vector TierQueue 4) : (s.withQueues v).rx = s.rx := rfl
@[simp] theorem withQueues_agent (v : Vector TierQueue 4) : (s.withQueues v).agent = s.agent := rfl
@[simp] theorem withQueues_part (v : Vector TierQueue 4) : (s.withQueues v).part = s.part := rfl
@[simp] theorem withQueues_notices (v : Vector TierQueue 4) : (s.withQueues v).notices = s.notices := rfl
@[simp] theorem withQueues_tallies (v : Vector TierQueue 4) : (s.withQueues v).tallies = s.tallies := rfl
@[simp] theorem withQueues_releaseEvents (v : Vector TierQueue 4) : (s.withQueues v).releaseEvents = s.releaseEvents := rfl
@[simp] theorem withQueues_pending (v : Vector TierQueue 4) : (s.withQueues v).pending = s.pending := rfl
@[simp] theorem withQueues_withQueues (v w : Vector TierQueue 4) : (s.withQueues v).withQueues w = s.withQueues w := rfl
@[simp] theorem withQueues_self : s.withQueues s.queues = s := rfl

@[simp] theorem withTx_buf (v : Transmitter) : (s.withTx v).buf = s.buf := rfl
@[simp] theorem withTx_streams (v : Transmitter) : (s.withTx v).streams = s.streams := rfl
@[simp] theorem withTx_metering (v : Transmitter) : (s.withTx v).metering = s.metering := rfl
@[simp] theorem withTx_ports (v : Transmitter) : (s.withTx v).ports = s.ports := rfl
@[simp] theorem withTx_queues (v : Transmitter) : (s.withTx v).queues = s.queues := rfl
@[simp] theorem withTx_tx (v : Transmitter) : (s.withTx v).tx = v := rfl
@[simp] theorem withTx_line (v : Transmitter) : (s.withTx v).line = s.line := rfl
@[simp] theorem withTx_rx (v : Transmitter) : (s.withTx v).rx = s.rx := rfl
@[simp] theorem withTx_agent (v : Transmitter) : (s.withTx v).agent = s.agent := rfl
@[simp] theorem withTx_part (v : Transmitter) : (s.withTx v).part = s.part := rfl
@[simp] theorem withTx_notices (v : Transmitter) : (s.withTx v).notices = s.notices := rfl
@[simp] theorem withTx_tallies (v : Transmitter) : (s.withTx v).tallies = s.tallies := rfl
@[simp] theorem withTx_releaseEvents (v : Transmitter) : (s.withTx v).releaseEvents = s.releaseEvents := rfl
@[simp] theorem withTx_pending (v : Transmitter) : (s.withTx v).pending = s.pending := rfl
@[simp] theorem withTx_withTx (v w : Transmitter) : (s.withTx v).withTx w = s.withTx w := rfl
@[simp] theorem withTx_self : s.withTx s.tx = s := rfl

@[simp] theorem withLine_buf (v : TrunkLine) : (s.withLine v).buf = s.buf := rfl
@[simp] theorem withLine_streams (v : TrunkLine) : (s.withLine v).streams = s.streams := rfl
@[simp] theorem withLine_metering (v : TrunkLine) : (s.withLine v).metering = s.metering := rfl
@[simp] theorem withLine_ports (v : TrunkLine) : (s.withLine v).ports = s.ports := rfl
@[simp] theorem withLine_queues (v : TrunkLine) : (s.withLine v).queues = s.queues := rfl
@[simp] theorem withLine_tx (v : TrunkLine) : (s.withLine v).tx = s.tx := rfl
@[simp] theorem withLine_line (v : TrunkLine) : (s.withLine v).line = v := rfl
@[simp] theorem withLine_rx (v : TrunkLine) : (s.withLine v).rx = s.rx := rfl
@[simp] theorem withLine_agent (v : TrunkLine) : (s.withLine v).agent = s.agent := rfl
@[simp] theorem withLine_part (v : TrunkLine) : (s.withLine v).part = s.part := rfl
@[simp] theorem withLine_notices (v : TrunkLine) : (s.withLine v).notices = s.notices := rfl
@[simp] theorem withLine_tallies (v : TrunkLine) : (s.withLine v).tallies = s.tallies := rfl
@[simp] theorem withLine_releaseEvents (v : TrunkLine) : (s.withLine v).releaseEvents = s.releaseEvents := rfl
@[simp] theorem withLine_pending (v : TrunkLine) : (s.withLine v).pending = s.pending := rfl
@[simp] theorem withLine_withLine (v w : TrunkLine) : (s.withLine v).withLine w = s.withLine w := rfl
@[simp] theorem withLine_self : s.withLine s.line = s := rfl

@[simp] theorem withRx_buf (v : Receiver) : (s.withRx v).buf = s.buf := rfl
@[simp] theorem withRx_streams (v : Receiver) : (s.withRx v).streams = s.streams := rfl
@[simp] theorem withRx_metering (v : Receiver) : (s.withRx v).metering = s.metering := rfl
@[simp] theorem withRx_ports (v : Receiver) : (s.withRx v).ports = s.ports := rfl
@[simp] theorem withRx_queues (v : Receiver) : (s.withRx v).queues = s.queues := rfl
@[simp] theorem withRx_tx (v : Receiver) : (s.withRx v).tx = s.tx := rfl
@[simp] theorem withRx_line (v : Receiver) : (s.withRx v).line = s.line := rfl
@[simp] theorem withRx_rx (v : Receiver) : (s.withRx v).rx = v := rfl
@[simp] theorem withRx_agent (v : Receiver) : (s.withRx v).agent = s.agent := rfl
@[simp] theorem withRx_part (v : Receiver) : (s.withRx v).part = s.part := rfl
@[simp] theorem withRx_notices (v : Receiver) : (s.withRx v).notices = s.notices := rfl
@[simp] theorem withRx_tallies (v : Receiver) : (s.withRx v).tallies = s.tallies := rfl
@[simp] theorem withRx_releaseEvents (v : Receiver) : (s.withRx v).releaseEvents = s.releaseEvents := rfl
@[simp] theorem withRx_pending (v : Receiver) : (s.withRx v).pending = s.pending := rfl
@[simp] theorem withRx_withRx (v w : Receiver) : (s.withRx v).withRx w = s.withRx w := rfl
@[simp] theorem withRx_self : s.withRx s.rx = s := rfl

@[simp] theorem withAgent_buf (v : Agent) : (s.withAgent v).buf = s.buf := rfl
@[simp] theorem withAgent_streams (v : Agent) : (s.withAgent v).streams = s.streams := rfl
@[simp] theorem withAgent_metering (v : Agent) : (s.withAgent v).metering = s.metering := rfl
@[simp] theorem withAgent_ports (v : Agent) : (s.withAgent v).ports = s.ports := rfl
@[simp] theorem withAgent_queues (v : Agent) : (s.withAgent v).queues = s.queues := rfl
@[simp] theorem withAgent_tx (v : Agent) : (s.withAgent v).tx = s.tx := rfl
@[simp] theorem withAgent_line (v : Agent) : (s.withAgent v).line = s.line := rfl
@[simp] theorem withAgent_rx (v : Agent) : (s.withAgent v).rx = s.rx := rfl
@[simp] theorem withAgent_agent (v : Agent) : (s.withAgent v).agent = v := rfl
@[simp] theorem withAgent_part (v : Agent) : (s.withAgent v).part = s.part := rfl
@[simp] theorem withAgent_notices (v : Agent) : (s.withAgent v).notices = s.notices := rfl
@[simp] theorem withAgent_tallies (v : Agent) : (s.withAgent v).tallies = s.tallies := rfl
@[simp] theorem withAgent_releaseEvents (v : Agent) : (s.withAgent v).releaseEvents = s.releaseEvents := rfl
@[simp] theorem withAgent_pending (v : Agent) : (s.withAgent v).pending = s.pending := rfl
@[simp] theorem withAgent_withAgent (v w : Agent) : (s.withAgent v).withAgent w = s.withAgent w := rfl
@[simp] theorem withAgent_self : s.withAgent s.agent = s := rfl

@[simp] theorem withPart_buf (v : Part) : (s.withPart v).buf = s.buf := rfl
@[simp] theorem withPart_streams (v : Part) : (s.withPart v).streams = s.streams := rfl
@[simp] theorem withPart_metering (v : Part) : (s.withPart v).metering = s.metering := rfl
@[simp] theorem withPart_ports (v : Part) : (s.withPart v).ports = s.ports := rfl
@[simp] theorem withPart_queues (v : Part) : (s.withPart v).queues = s.queues := rfl
@[simp] theorem withPart_tx (v : Part) : (s.withPart v).tx = s.tx := rfl
@[simp] theorem withPart_line (v : Part) : (s.withPart v).line = s.line := rfl
@[simp] theorem withPart_rx (v : Part) : (s.withPart v).rx = s.rx := rfl
@[simp] theorem withPart_agent (v : Part) : (s.withPart v).agent = s.agent := rfl
@[simp] theorem withPart_part (v : Part) : (s.withPart v).part = v := rfl
@[simp] theorem withPart_notices (v : Part) : (s.withPart v).notices = s.notices := rfl
@[simp] theorem withPart_tallies (v : Part) : (s.withPart v).tallies = s.tallies := rfl
@[simp] theorem withPart_releaseEvents (v : Part) : (s.withPart v).releaseEvents = s.releaseEvents := rfl
@[simp] theorem withPart_pending (v : Part) : (s.withPart v).pending = s.pending := rfl
@[simp] theorem withPart_withPart (v w : Part) : (s.withPart v).withPart w = s.withPart w := rfl
@[simp] theorem withPart_self : s.withPart s.part = s := rfl

@[simp] theorem withNotices_buf (v : NoticeQueue) : (s.withNotices v).buf = s.buf := rfl
@[simp] theorem withNotices_streams (v : NoticeQueue) : (s.withNotices v).streams = s.streams := rfl
@[simp] theorem withNotices_metering (v : NoticeQueue) : (s.withNotices v).metering = s.metering := rfl
@[simp] theorem withNotices_ports (v : NoticeQueue) : (s.withNotices v).ports = s.ports := rfl
@[simp] theorem withNotices_queues (v : NoticeQueue) : (s.withNotices v).queues = s.queues := rfl
@[simp] theorem withNotices_tx (v : NoticeQueue) : (s.withNotices v).tx = s.tx := rfl
@[simp] theorem withNotices_line (v : NoticeQueue) : (s.withNotices v).line = s.line := rfl
@[simp] theorem withNotices_rx (v : NoticeQueue) : (s.withNotices v).rx = s.rx := rfl
@[simp] theorem withNotices_agent (v : NoticeQueue) : (s.withNotices v).agent = s.agent := rfl
@[simp] theorem withNotices_part (v : NoticeQueue) : (s.withNotices v).part = s.part := rfl
@[simp] theorem withNotices_notices (v : NoticeQueue) : (s.withNotices v).notices = v := rfl
@[simp] theorem withNotices_tallies (v : NoticeQueue) : (s.withNotices v).tallies = s.tallies := rfl
@[simp] theorem withNotices_releaseEvents (v : NoticeQueue) : (s.withNotices v).releaseEvents = s.releaseEvents := rfl
@[simp] theorem withNotices_pending (v : NoticeQueue) : (s.withNotices v).pending = s.pending := rfl
@[simp] theorem withNotices_withNotices (v w : NoticeQueue) : (s.withNotices v).withNotices w = s.withNotices w := rfl
@[simp] theorem withNotices_self : s.withNotices s.notices = s := rfl

@[simp] theorem withTallies_buf (v : Tallies) : (s.withTallies v).buf = s.buf := rfl
@[simp] theorem withTallies_streams (v : Tallies) : (s.withTallies v).streams = s.streams := rfl
@[simp] theorem withTallies_metering (v : Tallies) : (s.withTallies v).metering = s.metering := rfl
@[simp] theorem withTallies_ports (v : Tallies) : (s.withTallies v).ports = s.ports := rfl
@[simp] theorem withTallies_queues (v : Tallies) : (s.withTallies v).queues = s.queues := rfl
@[simp] theorem withTallies_tx (v : Tallies) : (s.withTallies v).tx = s.tx := rfl
@[simp] theorem withTallies_line (v : Tallies) : (s.withTallies v).line = s.line := rfl
@[simp] theorem withTallies_rx (v : Tallies) : (s.withTallies v).rx = s.rx := rfl
@[simp] theorem withTallies_agent (v : Tallies) : (s.withTallies v).agent = s.agent := rfl
@[simp] theorem withTallies_part (v : Tallies) : (s.withTallies v).part = s.part := rfl
@[simp] theorem withTallies_notices (v : Tallies) : (s.withTallies v).notices = s.notices := rfl
@[simp] theorem withTallies_tallies (v : Tallies) : (s.withTallies v).tallies = v := rfl
@[simp] theorem withTallies_releaseEvents (v : Tallies) : (s.withTallies v).releaseEvents = s.releaseEvents := rfl
@[simp] theorem withTallies_pending (v : Tallies) : (s.withTallies v).pending = s.pending := rfl
@[simp] theorem withTallies_withTallies (v w : Tallies) : (s.withTallies v).withTallies w = s.withTallies w := rfl
@[simp] theorem withTallies_self : s.withTallies s.tallies = s := rfl

@[simp] theorem withReleaseEvents_buf (v : Nat) : (s.withReleaseEvents v).buf = s.buf := rfl
@[simp] theorem withReleaseEvents_streams (v : Nat) : (s.withReleaseEvents v).streams = s.streams := rfl
@[simp] theorem withReleaseEvents_metering (v : Nat) : (s.withReleaseEvents v).metering = s.metering := rfl
@[simp] theorem withReleaseEvents_ports (v : Nat) : (s.withReleaseEvents v).ports = s.ports := rfl
@[simp] theorem withReleaseEvents_queues (v : Nat) : (s.withReleaseEvents v).queues = s.queues := rfl
@[simp] theorem withReleaseEvents_tx (v : Nat) : (s.withReleaseEvents v).tx = s.tx := rfl
@[simp] theorem withReleaseEvents_line (v : Nat) : (s.withReleaseEvents v).line = s.line := rfl
@[simp] theorem withReleaseEvents_rx (v : Nat) : (s.withReleaseEvents v).rx = s.rx := rfl
@[simp] theorem withReleaseEvents_agent (v : Nat) : (s.withReleaseEvents v).agent = s.agent := rfl
@[simp] theorem withReleaseEvents_part (v : Nat) : (s.withReleaseEvents v).part = s.part := rfl
@[simp] theorem withReleaseEvents_notices (v : Nat) : (s.withReleaseEvents v).notices = s.notices := rfl
@[simp] theorem withReleaseEvents_tallies (v : Nat) : (s.withReleaseEvents v).tallies = s.tallies := rfl
@[simp] theorem withReleaseEvents_releaseEvents (v : Nat) : (s.withReleaseEvents v).releaseEvents = v := rfl
@[simp] theorem withReleaseEvents_pending (v : Nat) : (s.withReleaseEvents v).pending = s.pending := rfl
@[simp] theorem withReleaseEvents_withReleaseEvents (v w : Nat) : (s.withReleaseEvents v).withReleaseEvents w = s.withReleaseEvents w := rfl
@[simp] theorem withReleaseEvents_self : s.withReleaseEvents s.releaseEvents = s := rfl

@[simp] theorem withPending_buf (v : List Instr) : (s.withPending v).buf = s.buf := rfl
@[simp] theorem withPending_streams (v : List Instr) : (s.withPending v).streams = s.streams := rfl
@[simp] theorem withPending_metering (v : List Instr) : (s.withPending v).metering = s.metering := rfl
@[simp] theorem withPending_ports (v : List Instr) : (s.withPending v).ports = s.ports := rfl
@[simp] theorem withPending_queues (v : List Instr) : (s.withPending v).queues = s.queues := rfl
@[simp] theorem withPending_tx (v : List Instr) : (s.withPending v).tx = s.tx := rfl
@[simp] theorem withPending_line (v : List Instr) : (s.withPending v).line = s.line := rfl
@[simp] theorem withPending_rx (v : List Instr) : (s.withPending v).rx = s.rx := rfl
@[simp] theorem withPending_agent (v : List Instr) : (s.withPending v).agent = s.agent := rfl
@[simp] theorem withPending_part (v : List Instr) : (s.withPending v).part = s.part := rfl
@[simp] theorem withPending_notices (v : List Instr) : (s.withPending v).notices = s.notices := rfl
@[simp] theorem withPending_tallies (v : List Instr) : (s.withPending v).tallies = s.tallies := rfl
@[simp] theorem withPending_releaseEvents (v : List Instr) : (s.withPending v).releaseEvents = s.releaseEvents := rfl
@[simp] theorem withPending_pending (v : List Instr) : (s.withPending v).pending = v := rfl
@[simp] theorem withPending_withPending (v w : List Instr) : (s.withPending v).withPending w = s.withPending w := rfl
@[simp] theorem withPending_self : s.withPending s.pending = s := rfl

end Sys2Proof.Machine.State
end

