-- ==== Sys2Proof/Laws/Frames.lean ====
section
/-! SUPPORT. The frame of each shared operation: the blocks it leaves as they stand, one lemma a block. -/

namespace Sys2Proof.Machine.State

variable (s : State)

@[simp] theorem setHandle_streams (h : Nat) (r : Handle) : (s.setHandle h r).streams = s.streams := rfl
@[simp] theorem setHandle_metering (h : Nat) (r : Handle) : (s.setHandle h r).metering = s.metering := rfl
@[simp] theorem setHandle_ports (h : Nat) (r : Handle) : (s.setHandle h r).ports = s.ports := rfl
@[simp] theorem setHandle_queues (h : Nat) (r : Handle) : (s.setHandle h r).queues = s.queues := rfl
@[simp] theorem setHandle_tx (h : Nat) (r : Handle) : (s.setHandle h r).tx = s.tx := rfl
@[simp] theorem setHandle_line (h : Nat) (r : Handle) : (s.setHandle h r).line = s.line := rfl
@[simp] theorem setHandle_rx (h : Nat) (r : Handle) : (s.setHandle h r).rx = s.rx := rfl
@[simp] theorem setHandle_agent (h : Nat) (r : Handle) : (s.setHandle h r).agent = s.agent := rfl
@[simp] theorem setHandle_part (h : Nat) (r : Handle) : (s.setHandle h r).part = s.part := rfl
@[simp] theorem setHandle_notices (h : Nat) (r : Handle) : (s.setHandle h r).notices = s.notices := rfl
@[simp] theorem setHandle_tallies (h : Nat) (r : Handle) : (s.setHandle h r).tallies = s.tallies := rfl
@[simp] theorem setHandle_releaseEvents (h : Nat) (r : Handle) : (s.setHandle h r).releaseEvents = s.releaseEvents := rfl
@[simp] theorem setHandle_pending (h : Nat) (r : Handle) : (s.setHandle h r).pending = s.pending := rfl

@[simp] theorem modHandle_streams (h : Nat) (f : Handle → Handle) : (s.modHandle h f).streams = s.streams := by unfold State.modHandle; split <;> rfl
@[simp] theorem modHandle_metering (h : Nat) (f : Handle → Handle) : (s.modHandle h f).metering = s.metering := by unfold State.modHandle; split <;> rfl
@[simp] theorem modHandle_ports (h : Nat) (f : Handle → Handle) : (s.modHandle h f).ports = s.ports := by unfold State.modHandle; split <;> rfl
@[simp] theorem modHandle_queues (h : Nat) (f : Handle → Handle) : (s.modHandle h f).queues = s.queues := by unfold State.modHandle; split <;> rfl
@[simp] theorem modHandle_tx (h : Nat) (f : Handle → Handle) : (s.modHandle h f).tx = s.tx := by unfold State.modHandle; split <;> rfl
@[simp] theorem modHandle_line (h : Nat) (f : Handle → Handle) : (s.modHandle h f).line = s.line := by unfold State.modHandle; split <;> rfl
@[simp] theorem modHandle_rx (h : Nat) (f : Handle → Handle) : (s.modHandle h f).rx = s.rx := by unfold State.modHandle; split <;> rfl
@[simp] theorem modHandle_agent (h : Nat) (f : Handle → Handle) : (s.modHandle h f).agent = s.agent := by unfold State.modHandle; split <;> rfl
@[simp] theorem modHandle_part (h : Nat) (f : Handle → Handle) : (s.modHandle h f).part = s.part := by unfold State.modHandle; split <;> rfl
@[simp] theorem modHandle_notices (h : Nat) (f : Handle → Handle) : (s.modHandle h f).notices = s.notices := by unfold State.modHandle; split <;> rfl
@[simp] theorem modHandle_tallies (h : Nat) (f : Handle → Handle) : (s.modHandle h f).tallies = s.tallies := by unfold State.modHandle; split <;> rfl
@[simp] theorem modHandle_releaseEvents (h : Nat) (f : Handle → Handle) : (s.modHandle h f).releaseEvents = s.releaseEvents := by unfold State.modHandle; split <;> rfl
@[simp] theorem modHandle_pending (h : Nat) (f : Handle → Handle) : (s.modHandle h f).pending = s.pending := by unfold State.modHandle; split <;> rfl

@[simp] theorem setHolder_streams (h : Nat) (k : Holder) : (s.setHolder h k).streams = s.streams := by simp [State.setHolder]
@[simp] theorem setHolder_metering (h : Nat) (k : Holder) : (s.setHolder h k).metering = s.metering := by simp [State.setHolder]
@[simp] theorem setHolder_ports (h : Nat) (k : Holder) : (s.setHolder h k).ports = s.ports := by simp [State.setHolder]
@[simp] theorem setHolder_queues (h : Nat) (k : Holder) : (s.setHolder h k).queues = s.queues := by simp [State.setHolder]
@[simp] theorem setHolder_tx (h : Nat) (k : Holder) : (s.setHolder h k).tx = s.tx := by simp [State.setHolder]
@[simp] theorem setHolder_line (h : Nat) (k : Holder) : (s.setHolder h k).line = s.line := by simp [State.setHolder]
@[simp] theorem setHolder_rx (h : Nat) (k : Holder) : (s.setHolder h k).rx = s.rx := by simp [State.setHolder]
@[simp] theorem setHolder_agent (h : Nat) (k : Holder) : (s.setHolder h k).agent = s.agent := by simp [State.setHolder]
@[simp] theorem setHolder_part (h : Nat) (k : Holder) : (s.setHolder h k).part = s.part := by simp [State.setHolder]
@[simp] theorem setHolder_notices (h : Nat) (k : Holder) : (s.setHolder h k).notices = s.notices := by simp [State.setHolder]
@[simp] theorem setHolder_tallies (h : Nat) (k : Holder) : (s.setHolder h k).tallies = s.tallies := by simp [State.setHolder]
@[simp] theorem setHolder_releaseEvents (h : Nat) (k : Holder) : (s.setHolder h k).releaseEvents = s.releaseEvents := by simp [State.setHolder]
@[simp] theorem setHolder_pending (h : Nat) (k : Holder) : (s.setHolder h k).pending = s.pending := by simp [State.setHolder]

@[simp] theorem storeOctet_streams (h : Nat) (b : Byte) : (s.storeOctet h b).streams = s.streams := by unfold State.storeOctet; split <;> rfl
@[simp] theorem storeOctet_metering (h : Nat) (b : Byte) : (s.storeOctet h b).metering = s.metering := by unfold State.storeOctet; split <;> rfl
@[simp] theorem storeOctet_ports (h : Nat) (b : Byte) : (s.storeOctet h b).ports = s.ports := by unfold State.storeOctet; split <;> rfl
@[simp] theorem storeOctet_queues (h : Nat) (b : Byte) : (s.storeOctet h b).queues = s.queues := by unfold State.storeOctet; split <;> rfl
@[simp] theorem storeOctet_tx (h : Nat) (b : Byte) : (s.storeOctet h b).tx = s.tx := by unfold State.storeOctet; split <;> rfl
@[simp] theorem storeOctet_line (h : Nat) (b : Byte) : (s.storeOctet h b).line = s.line := by unfold State.storeOctet; split <;> rfl
@[simp] theorem storeOctet_rx (h : Nat) (b : Byte) : (s.storeOctet h b).rx = s.rx := by unfold State.storeOctet; split <;> rfl
@[simp] theorem storeOctet_agent (h : Nat) (b : Byte) : (s.storeOctet h b).agent = s.agent := by unfold State.storeOctet; split <;> rfl
@[simp] theorem storeOctet_part (h : Nat) (b : Byte) : (s.storeOctet h b).part = s.part := by unfold State.storeOctet; split <;> rfl
@[simp] theorem storeOctet_notices (h : Nat) (b : Byte) : (s.storeOctet h b).notices = s.notices := by unfold State.storeOctet; split <;> rfl
@[simp] theorem storeOctet_tallies (h : Nat) (b : Byte) : (s.storeOctet h b).tallies = s.tallies := by unfold State.storeOctet; split <;> rfl
@[simp] theorem storeOctet_releaseEvents (h : Nat) (b : Byte) : (s.storeOctet h b).releaseEvents = s.releaseEvents := by unfold State.storeOctet; split <;> rfl
@[simp] theorem storeOctet_pending (h : Nat) (b : Byte) : (s.storeOctet h b).pending = s.pending := by unfold State.storeOctet; split <;> rfl

@[simp] theorem storeOctets_streams (h : Nat) (l : List Byte) : (s.storeOctets h l).streams = s.streams := by
  induction l generalizing s with
  | nil => rfl
  | cons b l ih => simp [State.storeOctets, ih]
@[simp] theorem storeOctets_metering (h : Nat) (l : List Byte) : (s.storeOctets h l).metering = s.metering := by
  induction l generalizing s with
  | nil => rfl
  | cons b l ih => simp [State.storeOctets, ih]
@[simp] theorem storeOctets_ports (h : Nat) (l : List Byte) : (s.storeOctets h l).ports = s.ports := by
  induction l generalizing s with
  | nil => rfl
  | cons b l ih => simp [State.storeOctets, ih]
@[simp] theorem storeOctets_queues (h : Nat) (l : List Byte) : (s.storeOctets h l).queues = s.queues := by
  induction l generalizing s with
  | nil => rfl
  | cons b l ih => simp [State.storeOctets, ih]
@[simp] theorem storeOctets_tx (h : Nat) (l : List Byte) : (s.storeOctets h l).tx = s.tx := by
  induction l generalizing s with
  | nil => rfl
  | cons b l ih => simp [State.storeOctets, ih]
@[simp] theorem storeOctets_line (h : Nat) (l : List Byte) : (s.storeOctets h l).line = s.line := by
  induction l generalizing s with
  | nil => rfl
  | cons b l ih => simp [State.storeOctets, ih]
@[simp] theorem storeOctets_rx (h : Nat) (l : List Byte) : (s.storeOctets h l).rx = s.rx := by
  induction l generalizing s with
  | nil => rfl
  | cons b l ih => simp [State.storeOctets, ih]
@[simp] theorem storeOctets_agent (h : Nat) (l : List Byte) : (s.storeOctets h l).agent = s.agent := by
  induction l generalizing s with
  | nil => rfl
  | cons b l ih => simp [State.storeOctets, ih]
@[simp] theorem storeOctets_part (h : Nat) (l : List Byte) : (s.storeOctets h l).part = s.part := by
  induction l generalizing s with
  | nil => rfl
  | cons b l ih => simp [State.storeOctets, ih]
@[simp] theorem storeOctets_notices (h : Nat) (l : List Byte) : (s.storeOctets h l).notices = s.notices := by
  induction l generalizing s with
  | nil => rfl
  | cons b l ih => simp [State.storeOctets, ih]
@[simp] theorem storeOctets_tallies (h : Nat) (l : List Byte) : (s.storeOctets h l).tallies = s.tallies := by
  induction l generalizing s with
  | nil => rfl
  | cons b l ih => simp [State.storeOctets, ih]
@[simp] theorem storeOctets_releaseEvents (h : Nat) (l : List Byte) : (s.storeOctets h l).releaseEvents = s.releaseEvents := by
  induction l generalizing s with
  | nil => rfl
  | cons b l ih => simp [State.storeOctets, ih]
@[simp] theorem storeOctets_pending (h : Nat) (l : List Byte) : (s.storeOctets h l).pending = s.pending := by
  induction l generalizing s with
  | nil => rfl
  | cons b l ih => simp [State.storeOctets, ih]

@[simp] theorem freeHandle_streams (h : Nat) : (s.freeHandle h).streams = s.streams := rfl
@[simp] theorem freeHandle_metering (h : Nat) : (s.freeHandle h).metering = s.metering := rfl
@[simp] theorem freeHandle_ports (h : Nat) : (s.freeHandle h).ports = s.ports := rfl
@[simp] theorem freeHandle_queues (h : Nat) : (s.freeHandle h).queues = s.queues := rfl
@[simp] theorem freeHandle_tx (h : Nat) : (s.freeHandle h).tx = s.tx := rfl
@[simp] theorem freeHandle_line (h : Nat) : (s.freeHandle h).line = s.line := rfl
@[simp] theorem freeHandle_rx (h : Nat) : (s.freeHandle h).rx = s.rx := rfl
@[simp] theorem freeHandle_agent (h : Nat) : (s.freeHandle h).agent = s.agent := rfl
@[simp] theorem freeHandle_part (h : Nat) : (s.freeHandle h).part = s.part := rfl
@[simp] theorem freeHandle_notices (h : Nat) : (s.freeHandle h).notices = s.notices := rfl
@[simp] theorem freeHandle_tallies (h : Nat) : (s.freeHandle h).tallies = s.tallies := rfl
@[simp] theorem freeHandle_releaseEvents (h : Nat) : (s.freeHandle h).releaseEvents = s.releaseEvents := rfl
@[simp] theorem freeHandle_pending (h : Nat) : (s.freeHandle h).pending = s.pending := rfl

@[simp] theorem takeCell_streams (h : Nat) : (s.takeCell h).streams = s.streams := by simp [State.takeCell]
@[simp] theorem takeCell_metering (h : Nat) : (s.takeCell h).metering = s.metering := by simp [State.takeCell]
@[simp] theorem takeCell_ports (h : Nat) : (s.takeCell h).ports = s.ports := by simp [State.takeCell]
@[simp] theorem takeCell_queues (h : Nat) : (s.takeCell h).queues = s.queues := by simp [State.takeCell]
@[simp] theorem takeCell_tx (h : Nat) : (s.takeCell h).tx = s.tx := by simp [State.takeCell]
@[simp] theorem takeCell_line (h : Nat) : (s.takeCell h).line = s.line := by simp [State.takeCell]
@[simp] theorem takeCell_rx (h : Nat) : (s.takeCell h).rx = s.rx := by simp [State.takeCell]
@[simp] theorem takeCell_agent (h : Nat) : (s.takeCell h).agent = s.agent := by simp [State.takeCell]
@[simp] theorem takeCell_part (h : Nat) : (s.takeCell h).part = s.part := by simp [State.takeCell]
@[simp] theorem takeCell_notices (h : Nat) : (s.takeCell h).notices = s.notices := by simp [State.takeCell]
@[simp] theorem takeCell_tallies (h : Nat) : (s.takeCell h).tallies = s.tallies := by simp [State.takeCell]
@[simp] theorem takeCell_releaseEvents (h : Nat) : (s.takeCell h).releaseEvents = s.releaseEvents := by simp [State.takeCell]
@[simp] theorem takeCell_pending (h : Nat) : (s.takeCell h).pending = s.pending := by simp [State.takeCell]

@[simp] theorem takeCells_streams (h n : Nat) : (s.takeCells h n).streams = s.streams := by
  induction n generalizing s with
  | zero => rfl
  | succ n ih => simp [State.takeCells, ih]
@[simp] theorem takeCells_metering (h n : Nat) : (s.takeCells h n).metering = s.metering := by
  induction n generalizing s with
  | zero => rfl
  | succ n ih => simp [State.takeCells, ih]
@[simp] theorem takeCells_ports (h n : Nat) : (s.takeCells h n).ports = s.ports := by
  induction n generalizing s with
  | zero => rfl
  | succ n ih => simp [State.takeCells, ih]
@[simp] theorem takeCells_queues (h n : Nat) : (s.takeCells h n).queues = s.queues := by
  induction n generalizing s with
  | zero => rfl
  | succ n ih => simp [State.takeCells, ih]
@[simp] theorem takeCells_tx (h n : Nat) : (s.takeCells h n).tx = s.tx := by
  induction n generalizing s with
  | zero => rfl
  | succ n ih => simp [State.takeCells, ih]
@[simp] theorem takeCells_line (h n : Nat) : (s.takeCells h n).line = s.line := by
  induction n generalizing s with
  | zero => rfl
  | succ n ih => simp [State.takeCells, ih]
@[simp] theorem takeCells_rx (h n : Nat) : (s.takeCells h n).rx = s.rx := by
  induction n generalizing s with
  | zero => rfl
  | succ n ih => simp [State.takeCells, ih]
@[simp] theorem takeCells_agent (h n : Nat) : (s.takeCells h n).agent = s.agent := by
  induction n generalizing s with
  | zero => rfl
  | succ n ih => simp [State.takeCells, ih]
@[simp] theorem takeCells_part (h n : Nat) : (s.takeCells h n).part = s.part := by
  induction n generalizing s with
  | zero => rfl
  | succ n ih => simp [State.takeCells, ih]
@[simp] theorem takeCells_notices (h n : Nat) : (s.takeCells h n).notices = s.notices := by
  induction n generalizing s with
  | zero => rfl
  | succ n ih => simp [State.takeCells, ih]
@[simp] theorem takeCells_tallies (h n : Nat) : (s.takeCells h n).tallies = s.tallies := by
  induction n generalizing s with
  | zero => rfl
  | succ n ih => simp [State.takeCells, ih]
@[simp] theorem takeCells_releaseEvents (h n : Nat) : (s.takeCells h n).releaseEvents = s.releaseEvents := by
  induction n generalizing s with
  | zero => rfl
  | succ n ih => simp [State.takeCells, ih]
@[simp] theorem takeCells_pending (h n : Nat) : (s.takeCells h n).pending = s.pending := by
  induction n generalizing s with
  | zero => rfl
  | succ n ih => simp [State.takeCells, ih]

@[simp] theorem raiseRelease_buf : (s.raiseRelease).buf = s.buf := rfl
@[simp] theorem raiseRelease_streams : (s.raiseRelease).streams = s.streams := rfl
@[simp] theorem raiseRelease_metering : (s.raiseRelease).metering = s.metering := rfl
@[simp] theorem raiseRelease_ports : (s.raiseRelease).ports = s.ports := rfl
@[simp] theorem raiseRelease_queues : (s.raiseRelease).queues = s.queues := rfl
@[simp] theorem raiseRelease_tx : (s.raiseRelease).tx = s.tx := rfl
@[simp] theorem raiseRelease_line : (s.raiseRelease).line = s.line := rfl
@[simp] theorem raiseRelease_rx : (s.raiseRelease).rx = s.rx := rfl
@[simp] theorem raiseRelease_agent : (s.raiseRelease).agent = s.agent := rfl
@[simp] theorem raiseRelease_part : (s.raiseRelease).part = s.part := rfl
@[simp] theorem raiseRelease_notices : (s.raiseRelease).notices = s.notices := rfl
@[simp] theorem raiseRelease_tallies : (s.raiseRelease).tallies = s.tallies := rfl
@[simp] theorem raiseRelease_pending : (s.raiseRelease).pending = s.pending := rfl

@[simp] theorem release_streams (h : Nat) : (s.release h).streams = s.streams := rfl
@[simp] theorem release_metering (h : Nat) : (s.release h).metering = s.metering := rfl
@[simp] theorem release_ports (h : Nat) : (s.release h).ports = s.ports := rfl
@[simp] theorem release_queues (h : Nat) : (s.release h).queues = s.queues := rfl
@[simp] theorem release_tx (h : Nat) : (s.release h).tx = s.tx := rfl
@[simp] theorem release_line (h : Nat) : (s.release h).line = s.line := rfl
@[simp] theorem release_rx (h : Nat) : (s.release h).rx = s.rx := rfl
@[simp] theorem release_agent (h : Nat) : (s.release h).agent = s.agent := rfl
@[simp] theorem release_part (h : Nat) : (s.release h).part = s.part := rfl
@[simp] theorem release_notices (h : Nat) : (s.release h).notices = s.notices := rfl
@[simp] theorem release_tallies (h : Nat) : (s.release h).tallies = s.tallies := rfl
@[simp] theorem release_pending (h : Nat) : (s.release h).pending = s.pending := rfl

@[simp] theorem setDiscardCount_buf (i : Fin 20) (v : BitVec 32) : (s.setDiscardCount i v).buf = s.buf := rfl
@[simp] theorem setDiscardCount_streams (i : Fin 20) (v : BitVec 32) : (s.setDiscardCount i v).streams = s.streams := rfl
@[simp] theorem setDiscardCount_metering (i : Fin 20) (v : BitVec 32) : (s.setDiscardCount i v).metering = s.metering := rfl
@[simp] theorem setDiscardCount_ports (i : Fin 20) (v : BitVec 32) : (s.setDiscardCount i v).ports = s.ports := rfl
@[simp] theorem setDiscardCount_queues (i : Fin 20) (v : BitVec 32) : (s.setDiscardCount i v).queues = s.queues := rfl
@[simp] theorem setDiscardCount_tx (i : Fin 20) (v : BitVec 32) : (s.setDiscardCount i v).tx = s.tx := rfl
@[simp] theorem setDiscardCount_line (i : Fin 20) (v : BitVec 32) : (s.setDiscardCount i v).line = s.line := rfl
@[simp] theorem setDiscardCount_rx (i : Fin 20) (v : BitVec 32) : (s.setDiscardCount i v).rx = s.rx := rfl
@[simp] theorem setDiscardCount_agent (i : Fin 20) (v : BitVec 32) : (s.setDiscardCount i v).agent = s.agent := rfl
@[simp] theorem setDiscardCount_part (i : Fin 20) (v : BitVec 32) : (s.setDiscardCount i v).part = s.part := rfl
@[simp] theorem setDiscardCount_notices (i : Fin 20) (v : BitVec 32) : (s.setDiscardCount i v).notices = s.notices := rfl
@[simp] theorem setDiscardCount_releaseEvents (i : Fin 20) (v : BitVec 32) : (s.setDiscardCount i v).releaseEvents = s.releaseEvents := rfl
@[simp] theorem setDiscardCount_pending (i : Fin 20) (v : BitVec 32) : (s.setDiscardCount i v).pending = s.pending := rfl

@[simp] theorem setTally_buf (i : Nat) (t : StreamTally) : (s.setTally i t).buf = s.buf := rfl
@[simp] theorem setTally_streams (i : Nat) (t : StreamTally) : (s.setTally i t).streams = s.streams := rfl
@[simp] theorem setTally_metering (i : Nat) (t : StreamTally) : (s.setTally i t).metering = s.metering := rfl
@[simp] theorem setTally_ports (i : Nat) (t : StreamTally) : (s.setTally i t).ports = s.ports := rfl
@[simp] theorem setTally_queues (i : Nat) (t : StreamTally) : (s.setTally i t).queues = s.queues := rfl
@[simp] theorem setTally_tx (i : Nat) (t : StreamTally) : (s.setTally i t).tx = s.tx := rfl
@[simp] theorem setTally_line (i : Nat) (t : StreamTally) : (s.setTally i t).line = s.line := rfl
@[simp] theorem setTally_rx (i : Nat) (t : StreamTally) : (s.setTally i t).rx = s.rx := rfl
@[simp] theorem setTally_agent (i : Nat) (t : StreamTally) : (s.setTally i t).agent = s.agent := rfl
@[simp] theorem setTally_part (i : Nat) (t : StreamTally) : (s.setTally i t).part = s.part := rfl
@[simp] theorem setTally_notices (i : Nat) (t : StreamTally) : (s.setTally i t).notices = s.notices := rfl
@[simp] theorem setTally_releaseEvents (i : Nat) (t : StreamTally) : (s.setTally i t).releaseEvents = s.releaseEvents := rfl
@[simp] theorem setTally_pending (i : Nat) (t : StreamTally) : (s.setTally i t).pending = s.pending := rfl

@[simp] theorem countDiscard_buf (c : Cause) (o : Option StreamIx) : (s.countDiscard c o).buf = s.buf := by cases o <;> rfl
@[simp] theorem countDiscard_streams (c : Cause) (o : Option StreamIx) : (s.countDiscard c o).streams = s.streams := by cases o <;> rfl
@[simp] theorem countDiscard_metering (c : Cause) (o : Option StreamIx) : (s.countDiscard c o).metering = s.metering := by cases o <;> rfl
@[simp] theorem countDiscard_ports (c : Cause) (o : Option StreamIx) : (s.countDiscard c o).ports = s.ports := by cases o <;> rfl
@[simp] theorem countDiscard_queues (c : Cause) (o : Option StreamIx) : (s.countDiscard c o).queues = s.queues := by cases o <;> rfl
@[simp] theorem countDiscard_tx (c : Cause) (o : Option StreamIx) : (s.countDiscard c o).tx = s.tx := by cases o <;> rfl
@[simp] theorem countDiscard_line (c : Cause) (o : Option StreamIx) : (s.countDiscard c o).line = s.line := by cases o <;> rfl
@[simp] theorem countDiscard_rx (c : Cause) (o : Option StreamIx) : (s.countDiscard c o).rx = s.rx := by cases o <;> rfl
@[simp] theorem countDiscard_agent (c : Cause) (o : Option StreamIx) : (s.countDiscard c o).agent = s.agent := by cases o <;> rfl
@[simp] theorem countDiscard_part (c : Cause) (o : Option StreamIx) : (s.countDiscard c o).part = s.part := by cases o <;> rfl
@[simp] theorem countDiscard_notices (c : Cause) (o : Option StreamIx) : (s.countDiscard c o).notices = s.notices := by cases o <;> rfl
@[simp] theorem countDiscard_releaseEvents (c : Cause) (o : Option StreamIx) : (s.countDiscard c o).releaseEvents = s.releaseEvents := by cases o <;> rfl
@[simp] theorem countDiscard_pending (c : Cause) (o : Option StreamIx) : (s.countDiscard c o).pending = s.pending := by cases o <;> rfl

@[simp] theorem countToTrunk_buf (o : Option StreamIx) (n : Nat) : (s.countToTrunk o n).buf = s.buf := by cases o <;> rfl
@[simp] theorem countToTrunk_streams (o : Option StreamIx) (n : Nat) : (s.countToTrunk o n).streams = s.streams := by cases o <;> rfl
@[simp] theorem countToTrunk_metering (o : Option StreamIx) (n : Nat) : (s.countToTrunk o n).metering = s.metering := by cases o <;> rfl
@[simp] theorem countToTrunk_ports (o : Option StreamIx) (n : Nat) : (s.countToTrunk o n).ports = s.ports := by cases o <;> rfl
@[simp] theorem countToTrunk_queues (o : Option StreamIx) (n : Nat) : (s.countToTrunk o n).queues = s.queues := by cases o <;> rfl
@[simp] theorem countToTrunk_tx (o : Option StreamIx) (n : Nat) : (s.countToTrunk o n).tx = s.tx := by cases o <;> rfl
@[simp] theorem countToTrunk_line (o : Option StreamIx) (n : Nat) : (s.countToTrunk o n).line = s.line := by cases o <;> rfl
@[simp] theorem countToTrunk_rx (o : Option StreamIx) (n : Nat) : (s.countToTrunk o n).rx = s.rx := by cases o <;> rfl
@[simp] theorem countToTrunk_agent (o : Option StreamIx) (n : Nat) : (s.countToTrunk o n).agent = s.agent := by cases o <;> rfl
@[simp] theorem countToTrunk_part (o : Option StreamIx) (n : Nat) : (s.countToTrunk o n).part = s.part := by cases o <;> rfl
@[simp] theorem countToTrunk_notices (o : Option StreamIx) (n : Nat) : (s.countToTrunk o n).notices = s.notices := by cases o <;> rfl
@[simp] theorem countToTrunk_releaseEvents (o : Option StreamIx) (n : Nat) : (s.countToTrunk o n).releaseEvents = s.releaseEvents := by cases o <;> rfl
@[simp] theorem countToTrunk_pending (o : Option StreamIx) (n : Nat) : (s.countToTrunk o n).pending = s.pending := by cases o <;> rfl

@[simp] theorem countDelivered_buf (i : StreamIx) : (s.countDelivered i).buf = s.buf := rfl
@[simp] theorem countDelivered_streams (i : StreamIx) : (s.countDelivered i).streams = s.streams := rfl
@[simp] theorem countDelivered_metering (i : StreamIx) : (s.countDelivered i).metering = s.metering := rfl
@[simp] theorem countDelivered_ports (i : StreamIx) : (s.countDelivered i).ports = s.ports := rfl
@[simp] theorem countDelivered_queues (i : StreamIx) : (s.countDelivered i).queues = s.queues := rfl
@[simp] theorem countDelivered_tx (i : StreamIx) : (s.countDelivered i).tx = s.tx := rfl
@[simp] theorem countDelivered_line (i : StreamIx) : (s.countDelivered i).line = s.line := rfl
@[simp] theorem countDelivered_rx (i : StreamIx) : (s.countDelivered i).rx = s.rx := rfl
@[simp] theorem countDelivered_agent (i : StreamIx) : (s.countDelivered i).agent = s.agent := rfl
@[simp] theorem countDelivered_part (i : StreamIx) : (s.countDelivered i).part = s.part := rfl
@[simp] theorem countDelivered_notices (i : StreamIx) : (s.countDelivered i).notices = s.notices := rfl
@[simp] theorem countDelivered_releaseEvents (i : StreamIx) : (s.countDelivered i).releaseEvents = s.releaseEvents := rfl
@[simp] theorem countDelivered_pending (i : StreamIx) : (s.countDelivered i).pending = s.pending := rfl

@[simp] theorem discardQuiet_streams (c : Cause) (h : Nat) : (s.discardQuiet c h).streams = s.streams := by simp [State.discardQuiet]
@[simp] theorem discardQuiet_metering (c : Cause) (h : Nat) : (s.discardQuiet c h).metering = s.metering := by simp [State.discardQuiet]
@[simp] theorem discardQuiet_ports (c : Cause) (h : Nat) : (s.discardQuiet c h).ports = s.ports := by simp [State.discardQuiet]
@[simp] theorem discardQuiet_queues (c : Cause) (h : Nat) : (s.discardQuiet c h).queues = s.queues := by simp [State.discardQuiet]
@[simp] theorem discardQuiet_tx (c : Cause) (h : Nat) : (s.discardQuiet c h).tx = s.tx := by simp [State.discardQuiet]
@[simp] theorem discardQuiet_line (c : Cause) (h : Nat) : (s.discardQuiet c h).line = s.line := by simp [State.discardQuiet]
@[simp] theorem discardQuiet_rx (c : Cause) (h : Nat) : (s.discardQuiet c h).rx = s.rx := by simp [State.discardQuiet]
@[simp] theorem discardQuiet_agent (c : Cause) (h : Nat) : (s.discardQuiet c h).agent = s.agent := by simp [State.discardQuiet]
@[simp] theorem discardQuiet_part (c : Cause) (h : Nat) : (s.discardQuiet c h).part = s.part := by simp [State.discardQuiet]
@[simp] theorem discardQuiet_notices (c : Cause) (h : Nat) : (s.discardQuiet c h).notices = s.notices := by simp [State.discardQuiet]
@[simp] theorem discardQuiet_releaseEvents (c : Cause) (h : Nat) : (s.discardQuiet c h).releaseEvents = s.releaseEvents := by simp [State.discardQuiet]
@[simp] theorem discardQuiet_pending (c : Cause) (h : Nat) : (s.discardQuiet c h).pending = s.pending := by simp [State.discardQuiet]

@[simp] theorem discard_streams (c : Cause) (h : Nat) : (s.discard c h).streams = s.streams := by simp [State.discard]
@[simp] theorem discard_metering (c : Cause) (h : Nat) : (s.discard c h).metering = s.metering := by simp [State.discard]
@[simp] theorem discard_ports (c : Cause) (h : Nat) : (s.discard c h).ports = s.ports := by simp [State.discard]
@[simp] theorem discard_queues (c : Cause) (h : Nat) : (s.discard c h).queues = s.queues := by simp [State.discard]
@[simp] theorem discard_tx (c : Cause) (h : Nat) : (s.discard c h).tx = s.tx := by simp [State.discard]
@[simp] theorem discard_line (c : Cause) (h : Nat) : (s.discard c h).line = s.line := by simp [State.discard]
@[simp] theorem discard_rx (c : Cause) (h : Nat) : (s.discard c h).rx = s.rx := by simp [State.discard]
@[simp] theorem discard_agent (c : Cause) (h : Nat) : (s.discard c h).agent = s.agent := by simp [State.discard]
@[simp] theorem discard_part (c : Cause) (h : Nat) : (s.discard c h).part = s.part := by simp [State.discard]
@[simp] theorem discard_notices (c : Cause) (h : Nat) : (s.discard c h).notices = s.notices := by simp [State.discard]
@[simp] theorem discard_pending (c : Cause) (h : Nat) : (s.discard c h).pending = s.pending := by simp [State.discard]

@[simp] theorem setPort_buf (p : Port) (v : PortState) : (s.setPort p v).buf = s.buf := rfl
@[simp] theorem setPort_streams (p : Port) (v : PortState) : (s.setPort p v).streams = s.streams := rfl
@[simp] theorem setPort_metering (p : Port) (v : PortState) : (s.setPort p v).metering = s.metering := rfl
@[simp] theorem setPort_queues (p : Port) (v : PortState) : (s.setPort p v).queues = s.queues := rfl
@[simp] theorem setPort_tx (p : Port) (v : PortState) : (s.setPort p v).tx = s.tx := rfl
@[simp] theorem setPort_line (p : Port) (v : PortState) : (s.setPort p v).line = s.line := rfl
@[simp] theorem setPort_rx (p : Port) (v : PortState) : (s.setPort p v).rx = s.rx := rfl
@[simp] theorem setPort_agent (p : Port) (v : PortState) : (s.setPort p v).agent = s.agent := rfl
@[simp] theorem setPort_part (p : Port) (v : PortState) : (s.setPort p v).part = s.part := rfl
@[simp] theorem setPort_notices (p : Port) (v : PortState) : (s.setPort p v).notices = s.notices := rfl
@[simp] theorem setPort_tallies (p : Port) (v : PortState) : (s.setPort p v).tallies = s.tallies := rfl
@[simp] theorem setPort_releaseEvents (p : Port) (v : PortState) : (s.setPort p v).releaseEvents = s.releaseEvents := rfl
@[simp] theorem setPort_pending (p : Port) (v : PortState) : (s.setPort p v).pending = s.pending := rfl

@[simp] theorem setIngress_buf (p : Port) (v : Ingress) : (s.setIngress p v).buf = s.buf := rfl
@[simp] theorem setIngress_streams (p : Port) (v : Ingress) : (s.setIngress p v).streams = s.streams := rfl
@[simp] theorem setIngress_metering (p : Port) (v : Ingress) : (s.setIngress p v).metering = s.metering := rfl
@[simp] theorem setIngress_queues (p : Port) (v : Ingress) : (s.setIngress p v).queues = s.queues := rfl
@[simp] theorem setIngress_tx (p : Port) (v : Ingress) : (s.setIngress p v).tx = s.tx := rfl
@[simp] theorem setIngress_line (p : Port) (v : Ingress) : (s.setIngress p v).line = s.line := rfl
@[simp] theorem setIngress_rx (p : Port) (v : Ingress) : (s.setIngress p v).rx = s.rx := rfl
@[simp] theorem setIngress_agent (p : Port) (v : Ingress) : (s.setIngress p v).agent = s.agent := rfl
@[simp] theorem setIngress_part (p : Port) (v : Ingress) : (s.setIngress p v).part = s.part := rfl
@[simp] theorem setIngress_notices (p : Port) (v : Ingress) : (s.setIngress p v).notices = s.notices := rfl
@[simp] theorem setIngress_tallies (p : Port) (v : Ingress) : (s.setIngress p v).tallies = s.tallies := rfl
@[simp] theorem setIngress_releaseEvents (p : Port) (v : Ingress) : (s.setIngress p v).releaseEvents = s.releaseEvents := rfl
@[simp] theorem setIngress_pending (p : Port) (v : Ingress) : (s.setIngress p v).pending = s.pending := rfl

@[simp] theorem sendTrib_buf (p : Port) (l : List TribSymbol) : (s.sendTrib p l).buf = s.buf := rfl
@[simp] theorem sendTrib_streams (p : Port) (l : List TribSymbol) : (s.sendTrib p l).streams = s.streams := rfl
@[simp] theorem sendTrib_metering (p : Port) (l : List TribSymbol) : (s.sendTrib p l).metering = s.metering := rfl
@[simp] theorem sendTrib_queues (p : Port) (l : List TribSymbol) : (s.sendTrib p l).queues = s.queues := rfl
@[simp] theorem sendTrib_tx (p : Port) (l : List TribSymbol) : (s.sendTrib p l).tx = s.tx := rfl
@[simp] theorem sendTrib_line (p : Port) (l : List TribSymbol) : (s.sendTrib p l).line = s.line := rfl
@[simp] theorem sendTrib_rx (p : Port) (l : List TribSymbol) : (s.sendTrib p l).rx = s.rx := rfl
@[simp] theorem sendTrib_agent (p : Port) (l : List TribSymbol) : (s.sendTrib p l).agent = s.agent := rfl
@[simp] theorem sendTrib_part (p : Port) (l : List TribSymbol) : (s.sendTrib p l).part = s.part := rfl
@[simp] theorem sendTrib_notices (p : Port) (l : List TribSymbol) : (s.sendTrib p l).notices = s.notices := rfl
@[simp] theorem sendTrib_tallies (p : Port) (l : List TribSymbol) : (s.sendTrib p l).tallies = s.tallies := rfl
@[simp] theorem sendTrib_releaseEvents (p : Port) (l : List TribSymbol) : (s.sendTrib p l).releaseEvents = s.releaseEvents := rfl
@[simp] theorem sendTrib_pending (p : Port) (l : List TribSymbol) : (s.sendTrib p l).pending = s.pending := rfl

@[simp] theorem setQueue_buf (t : Tier) (v : TierQueue) : (s.setQueue t v).buf = s.buf := rfl
@[simp] theorem setQueue_streams (t : Tier) (v : TierQueue) : (s.setQueue t v).streams = s.streams := rfl
@[simp] theorem setQueue_metering (t : Tier) (v : TierQueue) : (s.setQueue t v).metering = s.metering := rfl
@[simp] theorem setQueue_ports (t : Tier) (v : TierQueue) : (s.setQueue t v).ports = s.ports := rfl
@[simp] theorem setQueue_tx (t : Tier) (v : TierQueue) : (s.setQueue t v).tx = s.tx := rfl
@[simp] theorem setQueue_line (t : Tier) (v : TierQueue) : (s.setQueue t v).line = s.line := rfl
@[simp] theorem setQueue_rx (t : Tier) (v : TierQueue) : (s.setQueue t v).rx = s.rx := rfl
@[simp] theorem setQueue_agent (t : Tier) (v : TierQueue) : (s.setQueue t v).agent = s.agent := rfl
@[simp] theorem setQueue_part (t : Tier) (v : TierQueue) : (s.setQueue t v).part = s.part := rfl
@[simp] theorem setQueue_notices (t : Tier) (v : TierQueue) : (s.setQueue t v).notices = s.notices := rfl
@[simp] theorem setQueue_tallies (t : Tier) (v : TierQueue) : (s.setQueue t v).tallies = s.tallies := rfl
@[simp] theorem setQueue_releaseEvents (t : Tier) (v : TierQueue) : (s.setQueue t v).releaseEvents = s.releaseEvents := rfl
@[simp] theorem setQueue_pending (t : Tier) (v : TierQueue) : (s.setQueue t v).pending = s.pending := rfl

@[simp] theorem setMembers_buf (t : Tier) (l : List Nat) : (s.setMembers t l).buf = s.buf := rfl
@[simp] theorem setMembers_streams (t : Tier) (l : List Nat) : (s.setMembers t l).streams = s.streams := rfl
@[simp] theorem setMembers_metering (t : Tier) (l : List Nat) : (s.setMembers t l).metering = s.metering := rfl
@[simp] theorem setMembers_ports (t : Tier) (l : List Nat) : (s.setMembers t l).ports = s.ports := rfl
@[simp] theorem setMembers_tx (t : Tier) (l : List Nat) : (s.setMembers t l).tx = s.tx := rfl
@[simp] theorem setMembers_line (t : Tier) (l : List Nat) : (s.setMembers t l).line = s.line := rfl
@[simp] theorem setMembers_rx (t : Tier) (l : List Nat) : (s.setMembers t l).rx = s.rx := rfl
@[simp] theorem setMembers_agent (t : Tier) (l : List Nat) : (s.setMembers t l).agent = s.agent := rfl
@[simp] theorem setMembers_part (t : Tier) (l : List Nat) : (s.setMembers t l).part = s.part := rfl
@[simp] theorem setMembers_notices (t : Tier) (l : List Nat) : (s.setMembers t l).notices = s.notices := rfl
@[simp] theorem setMembers_tallies (t : Tier) (l : List Nat) : (s.setMembers t l).tallies = s.tallies := rfl
@[simp] theorem setMembers_releaseEvents (t : Tier) (l : List Nat) : (s.setMembers t l).releaseEvents = s.releaseEvents := rfl
@[simp] theorem setMembers_pending (t : Tier) (l : List Nat) : (s.setMembers t l).pending = s.pending := rfl

@[simp] theorem setContext_buf (t : Tier) (c : Context) : (s.setContext t c).buf = s.buf := rfl
@[simp] theorem setContext_streams (t : Tier) (c : Context) : (s.setContext t c).streams = s.streams := rfl
@[simp] theorem setContext_metering (t : Tier) (c : Context) : (s.setContext t c).metering = s.metering := rfl
@[simp] theorem setContext_ports (t : Tier) (c : Context) : (s.setContext t c).ports = s.ports := rfl
@[simp] theorem setContext_queues (t : Tier) (c : Context) : (s.setContext t c).queues = s.queues := rfl
@[simp] theorem setContext_tx (t : Tier) (c : Context) : (s.setContext t c).tx = s.tx := rfl
@[simp] theorem setContext_line (t : Tier) (c : Context) : (s.setContext t c).line = s.line := rfl
@[simp] theorem setContext_agent (t : Tier) (c : Context) : (s.setContext t c).agent = s.agent := rfl
@[simp] theorem setContext_part (t : Tier) (c : Context) : (s.setContext t c).part = s.part := rfl
@[simp] theorem setContext_notices (t : Tier) (c : Context) : (s.setContext t c).notices = s.notices := rfl
@[simp] theorem setContext_tallies (t : Tier) (c : Context) : (s.setContext t c).tallies = s.tallies := rfl
@[simp] theorem setContext_releaseEvents (t : Tier) (c : Context) : (s.setContext t c).releaseEvents = s.releaseEvents := rfl
@[simp] theorem setContext_pending (t : Tier) (c : Context) : (s.setContext t c).pending = s.pending := rfl

@[simp] theorem setFragment_buf (f : Option RxFragment) : (s.setFragment f).buf = s.buf := rfl
@[simp] theorem setFragment_streams (f : Option RxFragment) : (s.setFragment f).streams = s.streams := rfl
@[simp] theorem setFragment_metering (f : Option RxFragment) : (s.setFragment f).metering = s.metering := rfl
@[simp] theorem setFragment_ports (f : Option RxFragment) : (s.setFragment f).ports = s.ports := rfl
@[simp] theorem setFragment_queues (f : Option RxFragment) : (s.setFragment f).queues = s.queues := rfl
@[simp] theorem setFragment_tx (f : Option RxFragment) : (s.setFragment f).tx = s.tx := rfl
@[simp] theorem setFragment_line (f : Option RxFragment) : (s.setFragment f).line = s.line := rfl
@[simp] theorem setFragment_agent (f : Option RxFragment) : (s.setFragment f).agent = s.agent := rfl
@[simp] theorem setFragment_part (f : Option RxFragment) : (s.setFragment f).part = s.part := rfl
@[simp] theorem setFragment_notices (f : Option RxFragment) : (s.setFragment f).notices = s.notices := rfl
@[simp] theorem setFragment_tallies (f : Option RxFragment) : (s.setFragment f).tallies = s.tallies := rfl
@[simp] theorem setFragment_releaseEvents (f : Option RxFragment) : (s.setFragment f).releaseEvents = s.releaseEvents := rfl
@[simp] theorem setFragment_pending (f : Option RxFragment) : (s.setFragment f).pending = s.pending := rfl

@[simp] theorem sendTrunk_buf (l : List TrunkSymbol) : (s.sendTrunk l).buf = s.buf := rfl
@[simp] theorem sendTrunk_streams (l : List TrunkSymbol) : (s.sendTrunk l).streams = s.streams := rfl
@[simp] theorem sendTrunk_metering (l : List TrunkSymbol) : (s.sendTrunk l).metering = s.metering := rfl
@[simp] theorem sendTrunk_ports (l : List TrunkSymbol) : (s.sendTrunk l).ports = s.ports := rfl
@[simp] theorem sendTrunk_queues (l : List TrunkSymbol) : (s.sendTrunk l).queues = s.queues := rfl
@[simp] theorem sendTrunk_tx (l : List TrunkSymbol) : (s.sendTrunk l).tx = s.tx := rfl
@[simp] theorem sendTrunk_rx (l : List TrunkSymbol) : (s.sendTrunk l).rx = s.rx := rfl
@[simp] theorem sendTrunk_agent (l : List TrunkSymbol) : (s.sendTrunk l).agent = s.agent := rfl
@[simp] theorem sendTrunk_part (l : List TrunkSymbol) : (s.sendTrunk l).part = s.part := rfl
@[simp] theorem sendTrunk_notices (l : List TrunkSymbol) : (s.sendTrunk l).notices = s.notices := rfl
@[simp] theorem sendTrunk_tallies (l : List TrunkSymbol) : (s.sendTrunk l).tallies = s.tallies := rfl
@[simp] theorem sendTrunk_releaseEvents (l : List TrunkSymbol) : (s.sendTrunk l).releaseEvents = s.releaseEvents := rfl
@[simp] theorem sendTrunk_pending (l : List TrunkSymbol) : (s.sendTrunk l).pending = s.pending := rfl

@[simp] theorem trunkIdle_buf : (s.trunkIdle).buf = s.buf := by unfold State.trunkIdle; split <;> simp
@[simp] theorem trunkIdle_streams : (s.trunkIdle).streams = s.streams := by unfold State.trunkIdle; split <;> simp
@[simp] theorem trunkIdle_metering : (s.trunkIdle).metering = s.metering := by unfold State.trunkIdle; split <;> simp
@[simp] theorem trunkIdle_ports : (s.trunkIdle).ports = s.ports := by unfold State.trunkIdle; split <;> simp
@[simp] theorem trunkIdle_queues : (s.trunkIdle).queues = s.queues := by unfold State.trunkIdle; split <;> simp
@[simp] theorem trunkIdle_tx : (s.trunkIdle).tx = s.tx := by unfold State.trunkIdle; split <;> simp
@[simp] theorem trunkIdle_rx : (s.trunkIdle).rx = s.rx := by unfold State.trunkIdle; split <;> simp
@[simp] theorem trunkIdle_agent : (s.trunkIdle).agent = s.agent := by unfold State.trunkIdle; split <;> simp
@[simp] theorem trunkIdle_part : (s.trunkIdle).part = s.part := by unfold State.trunkIdle; split <;> simp
@[simp] theorem trunkIdle_notices : (s.trunkIdle).notices = s.notices := by unfold State.trunkIdle; split <;> simp
@[simp] theorem trunkIdle_tallies : (s.trunkIdle).tallies = s.tallies := by unfold State.trunkIdle; split <;> simp
@[simp] theorem trunkIdle_releaseEvents : (s.trunkIdle).releaseEvents = s.releaseEvents := by unfold State.trunkIdle; split <;> simp
@[simp] theorem trunkIdle_pending : (s.trunkIdle).pending = s.pending := by unfold State.trunkIdle; split <;> simp

@[simp] theorem setStream_buf (i : Nat) (e : StreamEntry) : (s.setStream i e).buf = s.buf := rfl
@[simp] theorem setStream_metering (i : Nat) (e : StreamEntry) : (s.setStream i e).metering = s.metering := rfl
@[simp] theorem setStream_ports (i : Nat) (e : StreamEntry) : (s.setStream i e).ports = s.ports := rfl
@[simp] theorem setStream_queues (i : Nat) (e : StreamEntry) : (s.setStream i e).queues = s.queues := rfl
@[simp] theorem setStream_tx (i : Nat) (e : StreamEntry) : (s.setStream i e).tx = s.tx := rfl
@[simp] theorem setStream_line (i : Nat) (e : StreamEntry) : (s.setStream i e).line = s.line := rfl
@[simp] theorem setStream_rx (i : Nat) (e : StreamEntry) : (s.setStream i e).rx = s.rx := rfl
@[simp] theorem setStream_agent (i : Nat) (e : StreamEntry) : (s.setStream i e).agent = s.agent := rfl
@[simp] theorem setStream_part (i : Nat) (e : StreamEntry) : (s.setStream i e).part = s.part := rfl
@[simp] theorem setStream_notices (i : Nat) (e : StreamEntry) : (s.setStream i e).notices = s.notices := rfl
@[simp] theorem setStream_tallies (i : Nat) (e : StreamEntry) : (s.setStream i e).tallies = s.tallies := rfl
@[simp] theorem setStream_releaseEvents (i : Nat) (e : StreamEntry) : (s.setStream i e).releaseEvents = s.releaseEvents := rfl
@[simp] theorem setStream_pending (i : Nat) (e : StreamEntry) : (s.setStream i e).pending = s.pending := rfl

@[simp] theorem setRecord_buf (i : Nat) (r : AllotRecord) : (s.setRecord i r).buf = s.buf := rfl
@[simp] theorem setRecord_streams (i : Nat) (r : AllotRecord) : (s.setRecord i r).streams = s.streams := rfl
@[simp] theorem setRecord_ports (i : Nat) (r : AllotRecord) : (s.setRecord i r).ports = s.ports := rfl
@[simp] theorem setRecord_queues (i : Nat) (r : AllotRecord) : (s.setRecord i r).queues = s.queues := rfl
@[simp] theorem setRecord_tx (i : Nat) (r : AllotRecord) : (s.setRecord i r).tx = s.tx := rfl
@[simp] theorem setRecord_line (i : Nat) (r : AllotRecord) : (s.setRecord i r).line = s.line := rfl
@[simp] theorem setRecord_rx (i : Nat) (r : AllotRecord) : (s.setRecord i r).rx = s.rx := rfl
@[simp] theorem setRecord_agent (i : Nat) (r : AllotRecord) : (s.setRecord i r).agent = s.agent := rfl
@[simp] theorem setRecord_part (i : Nat) (r : AllotRecord) : (s.setRecord i r).part = s.part := rfl
@[simp] theorem setRecord_notices (i : Nat) (r : AllotRecord) : (s.setRecord i r).notices = s.notices := rfl
@[simp] theorem setRecord_tallies (i : Nat) (r : AllotRecord) : (s.setRecord i r).tallies = s.tallies := rfl
@[simp] theorem setRecord_releaseEvents (i : Nat) (r : AllotRecord) : (s.setRecord i r).releaseEvents = s.releaseEvents := rfl
@[simp] theorem setRecord_pending (i : Nat) (r : AllotRecord) : (s.setRecord i r).pending = s.pending := rfl

@[simp] theorem setRuntime_buf (i : Nat) (r : Runtime) : (s.setRuntime i r).buf = s.buf := rfl
@[simp] theorem setRuntime_streams (i : Nat) (r : Runtime) : (s.setRuntime i r).streams = s.streams := rfl
@[simp] theorem setRuntime_ports (i : Nat) (r : Runtime) : (s.setRuntime i r).ports = s.ports := rfl
@[simp] theorem setRuntime_queues (i : Nat) (r : Runtime) : (s.setRuntime i r).queues = s.queues := rfl
@[simp] theorem setRuntime_tx (i : Nat) (r : Runtime) : (s.setRuntime i r).tx = s.tx := rfl
@[simp] theorem setRuntime_line (i : Nat) (r : Runtime) : (s.setRuntime i r).line = s.line := rfl
@[simp] theorem setRuntime_rx (i : Nat) (r : Runtime) : (s.setRuntime i r).rx = s.rx := rfl
@[simp] theorem setRuntime_agent (i : Nat) (r : Runtime) : (s.setRuntime i r).agent = s.agent := rfl
@[simp] theorem setRuntime_part (i : Nat) (r : Runtime) : (s.setRuntime i r).part = s.part := rfl
@[simp] theorem setRuntime_notices (i : Nat) (r : Runtime) : (s.setRuntime i r).notices = s.notices := rfl
@[simp] theorem setRuntime_tallies (i : Nat) (r : Runtime) : (s.setRuntime i r).tallies = s.tallies := rfl
@[simp] theorem setRuntime_releaseEvents (i : Nat) (r : Runtime) : (s.setRuntime i r).releaseEvents = s.releaseEvents := rfl
@[simp] theorem setRuntime_pending (i : Nat) (r : Runtime) : (s.setRuntime i r).pending = s.pending := rfl

@[simp] theorem openHead_streams (q : Tier) : (s.openHead q).streams = s.streams := by
  unfold State.openHead
  split
  · rfl
  · split <;> simp
@[simp] theorem openHead_metering (q : Tier) : (s.openHead q).metering = s.metering := by
  unfold State.openHead
  split
  · rfl
  · split <;> simp
@[simp] theorem openHead_ports (q : Tier) : (s.openHead q).ports = s.ports := by
  unfold State.openHead
  split
  · rfl
  · split <;> simp
@[simp] theorem openHead_rx (q : Tier) : (s.openHead q).rx = s.rx := by
  unfold State.openHead
  split
  · rfl
  · split <;> simp
@[simp] theorem openHead_agent (q : Tier) : (s.openHead q).agent = s.agent := by
  unfold State.openHead
  split
  · rfl
  · split <;> simp
@[simp] theorem openHead_part (q : Tier) : (s.openHead q).part = s.part := by
  unfold State.openHead
  split
  · rfl
  · split <;> simp
@[simp] theorem openHead_notices (q : Tier) : (s.openHead q).notices = s.notices := by
  unfold State.openHead
  split
  · rfl
  · split <;> simp
@[simp] theorem openHead_tallies (q : Tier) : (s.openHead q).tallies = s.tallies := by
  unfold State.openHead
  split
  · rfl
  · split <;> simp
@[simp] theorem openHead_releaseEvents (q : Tier) : (s.openHead q).releaseEvents = s.releaseEvents := by
  unfold State.openHead
  split
  · rfl
  · split <;> simp
@[simp] theorem openHead_pending (q : Tier) : (s.openHead q).pending = s.pending := by
  unfold State.openHead
  split
  · rfl
  · split <;> simp

@[simp] theorem resumeTop_streams (h : Nat) (l : List Nat) : (s.resumeTop h l).streams = s.streams := by unfold State.resumeTop; split <;> simp
@[simp] theorem resumeTop_metering (h : Nat) (l : List Nat) : (s.resumeTop h l).metering = s.metering := by unfold State.resumeTop; split <;> simp
@[simp] theorem resumeTop_ports (h : Nat) (l : List Nat) : (s.resumeTop h l).ports = s.ports := by unfold State.resumeTop; split <;> simp
@[simp] theorem resumeTop_queues (h : Nat) (l : List Nat) : (s.resumeTop h l).queues = s.queues := by unfold State.resumeTop; split <;> simp
@[simp] theorem resumeTop_rx (h : Nat) (l : List Nat) : (s.resumeTop h l).rx = s.rx := by unfold State.resumeTop; split <;> simp
@[simp] theorem resumeTop_agent (h : Nat) (l : List Nat) : (s.resumeTop h l).agent = s.agent := by unfold State.resumeTop; split <;> simp
@[simp] theorem resumeTop_part (h : Nat) (l : List Nat) : (s.resumeTop h l).part = s.part := by unfold State.resumeTop; split <;> simp
@[simp] theorem resumeTop_notices (h : Nat) (l : List Nat) : (s.resumeTop h l).notices = s.notices := by unfold State.resumeTop; split <;> simp
@[simp] theorem resumeTop_tallies (h : Nat) (l : List Nat) : (s.resumeTop h l).tallies = s.tallies := by unfold State.resumeTop; split <;> simp
@[simp] theorem resumeTop_releaseEvents (h : Nat) (l : List Nat) : (s.resumeTop h l).releaseEvents = s.releaseEvents := by unfold State.resumeTop; split <;> simp
@[simp] theorem resumeTop_pending (h : Nat) (l : List Nat) : (s.resumeTop h l).pending = s.pending := by unfold State.resumeTop; split <;> simp

@[simp] theorem goIdle_buf : (s.goIdle).buf = s.buf := by simp [State.goIdle]
@[simp] theorem goIdle_streams : (s.goIdle).streams = s.streams := by simp [State.goIdle]
@[simp] theorem goIdle_metering : (s.goIdle).metering = s.metering := by simp [State.goIdle]
@[simp] theorem goIdle_ports : (s.goIdle).ports = s.ports := by simp [State.goIdle]
@[simp] theorem goIdle_queues : (s.goIdle).queues = s.queues := by simp [State.goIdle]
@[simp] theorem goIdle_rx : (s.goIdle).rx = s.rx := by simp [State.goIdle]
@[simp] theorem goIdle_agent : (s.goIdle).agent = s.agent := by simp [State.goIdle]
@[simp] theorem goIdle_part : (s.goIdle).part = s.part := by simp [State.goIdle]
@[simp] theorem goIdle_notices : (s.goIdle).notices = s.notices := by simp [State.goIdle]
@[simp] theorem goIdle_tallies : (s.goIdle).tallies = s.tallies := by simp [State.goIdle]
@[simp] theorem goIdle_releaseEvents : (s.goIdle).releaseEvents = s.releaseEvents := by simp [State.goIdle]
@[simp] theorem goIdle_pending : (s.goIdle).pending = s.pending := by simp [State.goIdle]

@[simp] theorem select_streams : (s.select).streams = s.streams := by
  unfold State.select
  split <;> try split
  all_goals simp
@[simp] theorem select_metering : (s.select).metering = s.metering := by
  unfold State.select
  split <;> try split
  all_goals simp
@[simp] theorem select_ports : (s.select).ports = s.ports := by
  unfold State.select
  split <;> try split
  all_goals simp
@[simp] theorem select_rx : (s.select).rx = s.rx := by
  unfold State.select
  split <;> try split
  all_goals simp
@[simp] theorem select_agent : (s.select).agent = s.agent := by
  unfold State.select
  split <;> try split
  all_goals simp
@[simp] theorem select_part : (s.select).part = s.part := by
  unfold State.select
  split <;> try split
  all_goals simp
@[simp] theorem select_notices : (s.select).notices = s.notices := by
  unfold State.select
  split <;> try split
  all_goals simp
@[simp] theorem select_tallies : (s.select).tallies = s.tallies := by
  unfold State.select
  split <;> try split
  all_goals simp
@[simp] theorem select_releaseEvents : (s.select).releaseEvents = s.releaseEvents := by
  unfold State.select
  split <;> try split
  all_goals simp
@[simp] theorem select_pending : (s.select).pending = s.pending := by
  unfold State.select
  split <;> try split
  all_goals simp

@[simp] theorem joinQueue_streams (t : Tier) (h : Nat) : (s.joinQueue t h).streams = s.streams := by
  simp only [State.joinQueue]
  split <;> simp
@[simp] theorem joinQueue_metering (t : Tier) (h : Nat) : (s.joinQueue t h).metering = s.metering := by
  simp only [State.joinQueue]
  split <;> simp
@[simp] theorem joinQueue_ports (t : Tier) (h : Nat) : (s.joinQueue t h).ports = s.ports := by
  simp only [State.joinQueue]
  split <;> simp
@[simp] theorem joinQueue_rx (t : Tier) (h : Nat) : (s.joinQueue t h).rx = s.rx := by
  simp only [State.joinQueue]
  split <;> simp
@[simp] theorem joinQueue_agent (t : Tier) (h : Nat) : (s.joinQueue t h).agent = s.agent := by
  simp only [State.joinQueue]
  split <;> simp
@[simp] theorem joinQueue_part (t : Tier) (h : Nat) : (s.joinQueue t h).part = s.part := by
  simp only [State.joinQueue]
  split <;> simp
@[simp] theorem joinQueue_notices (t : Tier) (h : Nat) : (s.joinQueue t h).notices = s.notices := by
  simp only [State.joinQueue]
  split <;> simp
@[simp] theorem joinQueue_tallies (t : Tier) (h : Nat) : (s.joinQueue t h).tallies = s.tallies := by
  simp only [State.joinQueue]
  split <;> simp
@[simp] theorem joinQueue_releaseEvents (t : Tier) (h : Nat) : (s.joinQueue t h).releaseEvents = s.releaseEvents := by
  simp only [State.joinQueue]
  split <;> simp
@[simp] theorem joinQueue_pending (t : Tier) (h : Nat) : (s.joinQueue t h).pending = s.pending := by
  simp only [State.joinQueue]
  split <;> simp

theorem claimCompound_streams {s t : State} {tag : Tag} {n h : Nat} (hc : s.claimCompound tag n = some (h, t)) :
    t.streams = s.streams := by
  unfold State.claimCompound at hc
  split at hc
  · cases hc; simp
  · cases hc
theorem claimCompound_metering {s t : State} {tag : Tag} {n h : Nat} (hc : s.claimCompound tag n = some (h, t)) :
    t.metering = s.metering := by
  unfold State.claimCompound at hc
  split at hc
  · cases hc; simp
  · cases hc
theorem claimCompound_ports {s t : State} {tag : Tag} {n h : Nat} (hc : s.claimCompound tag n = some (h, t)) :
    t.ports = s.ports := by
  unfold State.claimCompound at hc
  split at hc
  · cases hc; simp
  · cases hc
theorem claimCompound_queues {s t : State} {tag : Tag} {n h : Nat} (hc : s.claimCompound tag n = some (h, t)) :
    t.queues = s.queues := by
  unfold State.claimCompound at hc
  split at hc
  · cases hc; simp
  · cases hc
theorem claimCompound_tx {s t : State} {tag : Tag} {n h : Nat} (hc : s.claimCompound tag n = some (h, t)) :
    t.tx = s.tx := by
  unfold State.claimCompound at hc
  split at hc
  · cases hc; simp
  · cases hc
theorem claimCompound_line {s t : State} {tag : Tag} {n h : Nat} (hc : s.claimCompound tag n = some (h, t)) :
    t.line = s.line := by
  unfold State.claimCompound at hc
  split at hc
  · cases hc; simp
  · cases hc
theorem claimCompound_rx {s t : State} {tag : Tag} {n h : Nat} (hc : s.claimCompound tag n = some (h, t)) :
    t.rx = s.rx := by
  unfold State.claimCompound at hc
  split at hc
  · cases hc; simp
  · cases hc
theorem claimCompound_agent {s t : State} {tag : Tag} {n h : Nat} (hc : s.claimCompound tag n = some (h, t)) :
    t.agent = s.agent := by
  unfold State.claimCompound at hc
  split at hc
  · cases hc; simp
  · cases hc
theorem claimCompound_part {s t : State} {tag : Tag} {n h : Nat} (hc : s.claimCompound tag n = some (h, t)) :
    t.part = s.part := by
  unfold State.claimCompound at hc
  split at hc
  · cases hc; simp
  · cases hc
theorem claimCompound_notices {s t : State} {tag : Tag} {n h : Nat} (hc : s.claimCompound tag n = some (h, t)) :
    t.notices = s.notices := by
  unfold State.claimCompound at hc
  split at hc
  · cases hc; simp
  · cases hc
theorem claimCompound_tallies {s t : State} {tag : Tag} {n h : Nat} (hc : s.claimCompound tag n = some (h, t)) :
    t.tallies = s.tallies := by
  unfold State.claimCompound at hc
  split at hc
  · cases hc; simp
  · cases hc
theorem claimCompound_releaseEvents {s t : State} {tag : Tag} {n h : Nat} (hc : s.claimCompound tag n = some (h, t)) :
    t.releaseEvents = s.releaseEvents := by
  unfold State.claimCompound at hc
  split at hc
  · cases hc; simp
  · cases hc
theorem claimCompound_pending {s t : State} {tag : Tag} {n h : Nat} (hc : s.claimCompound tag n = some (h, t)) :
    t.pending = s.pending := by
  unfold State.claimCompound at hc
  split at hc
  · cases hc; simp
  · cases hc
theorem claimHandle_streams {s t : State} {m : Bool} {k : Holder} {tag : Tag} {tier : Tier} {i : Option StreamIx} {h : Nat}
    (hc : s.claimHandle m k tag tier i = some (h, t)) : t.streams = s.streams := by
  unfold State.claimHandle at hc
  split at hc
  · cases hc; simp
  · cases hc
theorem appendOctet_streams {s t : State} {m : Bool} {h : Nat} {b : Byte} (hc : s.appendOctet m h b = some t) :
    t.streams = s.streams := by
  unfold State.appendOctet at hc
  split at hc
  · cases hc; rfl
  · split at hc
    · split at hc
      · cases hc; simp
      · cases hc
    · cases hc; simp
@[simp] theorem appendOctets_streams (m : Bool) (h : Nat) (l : List Byte) : (s.appendOctets m h l).2.streams = s.streams := by
  induction l generalizing s with
  | nil => rfl
  | cons b l ih =>
    simp only [State.appendOctets]
    split
    · rfl
    · rename_i hc
      rw [ih, appendOctet_streams hc]
theorem claimHandle_metering {s t : State} {m : Bool} {k : Holder} {tag : Tag} {tier : Tier} {i : Option StreamIx} {h : Nat}
    (hc : s.claimHandle m k tag tier i = some (h, t)) : t.metering = s.metering := by
  unfold State.claimHandle at hc
  split at hc
  · cases hc; simp
  · cases hc
theorem appendOctet_metering {s t : State} {m : Bool} {h : Nat} {b : Byte} (hc : s.appendOctet m h b = some t) :
    t.metering = s.metering := by
  unfold State.appendOctet at hc
  split at hc
  · cases hc; rfl
  · split at hc
    · split at hc
      · cases hc; simp
      · cases hc
    · cases hc; simp
@[simp] theorem appendOctets_metering (m : Bool) (h : Nat) (l : List Byte) : (s.appendOctets m h l).2.metering = s.metering := by
  induction l generalizing s with
  | nil => rfl
  | cons b l ih =>
    simp only [State.appendOctets]
    split
    · rfl
    · rename_i hc
      rw [ih, appendOctet_metering hc]
theorem claimHandle_ports {s t : State} {m : Bool} {k : Holder} {tag : Tag} {tier : Tier} {i : Option StreamIx} {h : Nat}
    (hc : s.claimHandle m k tag tier i = some (h, t)) : t.ports = s.ports := by
  unfold State.claimHandle at hc
  split at hc
  · cases hc; simp
  · cases hc
theorem appendOctet_ports {s t : State} {m : Bool} {h : Nat} {b : Byte} (hc : s.appendOctet m h b = some t) :
    t.ports = s.ports := by
  unfold State.appendOctet at hc
  split at hc
  · cases hc; rfl
  · split at hc
    · split at hc
      · cases hc; simp
      · cases hc
    · cases hc; simp
@[simp] theorem appendOctets_ports (m : Bool) (h : Nat) (l : List Byte) : (s.appendOctets m h l).2.ports = s.ports := by
  induction l generalizing s with
  | nil => rfl
  | cons b l ih =>
    simp only [State.appendOctets]
    split
    · rfl
    · rename_i hc
      rw [ih, appendOctet_ports hc]
theorem claimHandle_queues {s t : State} {m : Bool} {k : Holder} {tag : Tag} {tier : Tier} {i : Option StreamIx} {h : Nat}
    (hc : s.claimHandle m k tag tier i = some (h, t)) : t.queues = s.queues := by
  unfold State.claimHandle at hc
  split at hc
  · cases hc; simp
  · cases hc
theorem appendOctet_queues {s t : State} {m : Bool} {h : Nat} {b : Byte} (hc : s.appendOctet m h b = some t) :
    t.queues = s.queues := by
  unfold State.appendOctet at hc
  split at hc
  · cases hc; rfl
  · split at hc
    · split at hc
      · cases hc; simp
      · cases hc
    · cases hc; simp
@[simp] theorem appendOctets_queues (m : Bool) (h : Nat) (l : List Byte) : (s.appendOctets m h l).2.queues = s.queues := by
  induction l generalizing s with
  | nil => rfl
  | cons b l ih =>
    simp only [State.appendOctets]
    split
    · rfl
    · rename_i hc
      rw [ih, appendOctet_queues hc]
theorem claimHandle_tx {s t : State} {m : Bool} {k : Holder} {tag : Tag} {tier : Tier} {i : Option StreamIx} {h : Nat}
    (hc : s.claimHandle m k tag tier i = some (h, t)) : t.tx = s.tx := by
  unfold State.claimHandle at hc
  split at hc
  · cases hc; simp
  · cases hc
theorem appendOctet_tx {s t : State} {m : Bool} {h : Nat} {b : Byte} (hc : s.appendOctet m h b = some t) :
    t.tx = s.tx := by
  unfold State.appendOctet at hc
  split at hc
  · cases hc; rfl
  · split at hc
    · split at hc
      · cases hc; simp
      · cases hc
    · cases hc; simp
@[simp] theorem appendOctets_tx (m : Bool) (h : Nat) (l : List Byte) : (s.appendOctets m h l).2.tx = s.tx := by
  induction l generalizing s with
  | nil => rfl
  | cons b l ih =>
    simp only [State.appendOctets]
    split
    · rfl
    · rename_i hc
      rw [ih, appendOctet_tx hc]
theorem claimHandle_line {s t : State} {m : Bool} {k : Holder} {tag : Tag} {tier : Tier} {i : Option StreamIx} {h : Nat}
    (hc : s.claimHandle m k tag tier i = some (h, t)) : t.line = s.line := by
  unfold State.claimHandle at hc
  split at hc
  · cases hc; simp
  · cases hc
theorem appendOctet_line {s t : State} {m : Bool} {h : Nat} {b : Byte} (hc : s.appendOctet m h b = some t) :
    t.line = s.line := by
  unfold State.appendOctet at hc
  split at hc
  · cases hc; rfl
  · split at hc
    · split at hc
      · cases hc; simp
      · cases hc
    · cases hc; simp
@[simp] theorem appendOctets_line (m : Bool) (h : Nat) (l : List Byte) : (s.appendOctets m h l).2.line = s.line := by
  induction l generalizing s with
  | nil => rfl
  | cons b l ih =>
    simp only [State.appendOctets]
    split
    · rfl
    · rename_i hc
      rw [ih, appendOctet_line hc]
theorem claimHandle_rx {s t : State} {m : Bool} {k : Holder} {tag : Tag} {tier : Tier} {i : Option StreamIx} {h : Nat}
    (hc : s.claimHandle m k tag tier i = some (h, t)) : t.rx = s.rx := by
  unfold State.claimHandle at hc
  split at hc
  · cases hc; simp
  · cases hc
theorem appendOctet_rx {s t : State} {m : Bool} {h : Nat} {b : Byte} (hc : s.appendOctet m h b = some t) :
    t.rx = s.rx := by
  unfold State.appendOctet at hc
  split at hc
  · cases hc; rfl
  · split at hc
    · split at hc
      · cases hc; simp
      · cases hc
    · cases hc; simp
@[simp] theorem appendOctets_rx (m : Bool) (h : Nat) (l : List Byte) : (s.appendOctets m h l).2.rx = s.rx := by
  induction l generalizing s with
  | nil => rfl
  | cons b l ih =>
    simp only [State.appendOctets]
    split
    · rfl
    · rename_i hc
      rw [ih, appendOctet_rx hc]
theorem claimHandle_agent {s t : State} {m : Bool} {k : Holder} {tag : Tag} {tier : Tier} {i : Option StreamIx} {h : Nat}
    (hc : s.claimHandle m k tag tier i = some (h, t)) : t.agent = s.agent := by
  unfold State.claimHandle at hc
  split at hc
  · cases hc; simp
  · cases hc
theorem appendOctet_agent {s t : State} {m : Bool} {h : Nat} {b : Byte} (hc : s.appendOctet m h b = some t) :
    t.agent = s.agent := by
  unfold State.appendOctet at hc
  split at hc
  · cases hc; rfl
  · split at hc
    · split at hc
      · cases hc; simp
      · cases hc
    · cases hc; simp
@[simp] theorem appendOctets_agent (m : Bool) (h : Nat) (l : List Byte) : (s.appendOctets m h l).2.agent = s.agent := by
  induction l generalizing s with
  | nil => rfl
  | cons b l ih =>
    simp only [State.appendOctets]
    split
    · rfl
    · rename_i hc
      rw [ih, appendOctet_agent hc]
theorem claimHandle_part {s t : State} {m : Bool} {k : Holder} {tag : Tag} {tier : Tier} {i : Option StreamIx} {h : Nat}
    (hc : s.claimHandle m k tag tier i = some (h, t)) : t.part = s.part := by
  unfold State.claimHandle at hc
  split at hc
  · cases hc; simp
  · cases hc
theorem appendOctet_part {s t : State} {m : Bool} {h : Nat} {b : Byte} (hc : s.appendOctet m h b = some t) :
    t.part = s.part := by
  unfold State.appendOctet at hc
  split at hc
  · cases hc; rfl
  · split at hc
    · split at hc
      · cases hc; simp
      · cases hc
    · cases hc; simp
@[simp] theorem appendOctets_part (m : Bool) (h : Nat) (l : List Byte) : (s.appendOctets m h l).2.part = s.part := by
  induction l generalizing s with
  | nil => rfl
  | cons b l ih =>
    simp only [State.appendOctets]
    split
    · rfl
    · rename_i hc
      rw [ih, appendOctet_part hc]
theorem claimHandle_notices {s t : State} {m : Bool} {k : Holder} {tag : Tag} {tier : Tier} {i : Option StreamIx} {h : Nat}
    (hc : s.claimHandle m k tag tier i = some (h, t)) : t.notices = s.notices := by
  unfold State.claimHandle at hc
  split at hc
  · cases hc; simp
  · cases hc
theorem appendOctet_notices {s t : State} {m : Bool} {h : Nat} {b : Byte} (hc : s.appendOctet m h b = some t) :
    t.notices = s.notices := by
  unfold State.appendOctet at hc
  split at hc
  · cases hc; rfl
  · split at hc
    · split at hc
      · cases hc; simp
      · cases hc
    · cases hc; simp
@[simp] theorem appendOctets_notices (m : Bool) (h : Nat) (l : List Byte) : (s.appendOctets m h l).2.notices = s.notices := by
  induction l generalizing s with
  | nil => rfl
  | cons b l ih =>
    simp only [State.appendOctets]
    split
    · rfl
    · rename_i hc
      rw [ih, appendOctet_notices hc]
theorem claimHandle_tallies {s t : State} {m : Bool} {k : Holder} {tag : Tag} {tier : Tier} {i : Option StreamIx} {h : Nat}
    (hc : s.claimHandle m k tag tier i = some (h, t)) : t.tallies = s.tallies := by
  unfold State.claimHandle at hc
  split at hc
  · cases hc; simp
  · cases hc
theorem appendOctet_tallies {s t : State} {m : Bool} {h : Nat} {b : Byte} (hc : s.appendOctet m h b = some t) :
    t.tallies = s.tallies := by
  unfold State.appendOctet at hc
  split at hc
  · cases hc; rfl
  · split at hc
    · split at hc
      · cases hc; simp
      · cases hc
    · cases hc; simp
@[simp] theorem appendOctets_tallies (m : Bool) (h : Nat) (l : List Byte) : (s.appendOctets m h l).2.tallies = s.tallies := by
  induction l generalizing s with
  | nil => rfl
  | cons b l ih =>
    simp only [State.appendOctets]
    split
    · rfl
    · rename_i hc
      rw [ih, appendOctet_tallies hc]
theorem claimHandle_releaseEvents {s t : State} {m : Bool} {k : Holder} {tag : Tag} {tier : Tier} {i : Option StreamIx} {h : Nat}
    (hc : s.claimHandle m k tag tier i = some (h, t)) : t.releaseEvents = s.releaseEvents := by
  unfold State.claimHandle at hc
  split at hc
  · cases hc; simp
  · cases hc
theorem appendOctet_releaseEvents {s t : State} {m : Bool} {h : Nat} {b : Byte} (hc : s.appendOctet m h b = some t) :
    t.releaseEvents = s.releaseEvents := by
  unfold State.appendOctet at hc
  split at hc
  · cases hc; rfl
  · split at hc
    · split at hc
      · cases hc; simp
      · cases hc
    · cases hc; simp
@[simp] theorem appendOctets_releaseEvents (m : Bool) (h : Nat) (l : List Byte) : (s.appendOctets m h l).2.releaseEvents = s.releaseEvents := by
  induction l generalizing s with
  | nil => rfl
  | cons b l ih =>
    simp only [State.appendOctets]
    split
    · rfl
    · rename_i hc
      rw [ih, appendOctet_releaseEvents hc]
theorem claimHandle_pending {s t : State} {m : Bool} {k : Holder} {tag : Tag} {tier : Tier} {i : Option StreamIx} {h : Nat}
    (hc : s.claimHandle m k tag tier i = some (h, t)) : t.pending = s.pending := by
  unfold State.claimHandle at hc
  split at hc
  · cases hc; simp
  · cases hc
theorem appendOctet_pending {s t : State} {m : Bool} {h : Nat} {b : Byte} (hc : s.appendOctet m h b = some t) :
    t.pending = s.pending := by
  unfold State.appendOctet at hc
  split at hc
  · cases hc; rfl
  · split at hc
    · split at hc
      · cases hc; simp
      · cases hc
    · cases hc; simp
@[simp] theorem appendOctets_pending (m : Bool) (h : Nat) (l : List Byte) : (s.appendOctets m h l).2.pending = s.pending := by
  induction l generalizing s with
  | nil => rfl
  | cons b l ih =>
    simp only [State.appendOctets]
    split
    · rfl
    · rename_i hc
      rw [ih, appendOctet_pending hc]

@[simp] theorem loseNotice_buf : (s.loseNotice).buf = s.buf := rfl
@[simp] theorem loseNotice_streams : (s.loseNotice).streams = s.streams := rfl
@[simp] theorem loseNotice_metering : (s.loseNotice).metering = s.metering := rfl
@[simp] theorem loseNotice_ports : (s.loseNotice).ports = s.ports := rfl
@[simp] theorem loseNotice_queues : (s.loseNotice).queues = s.queues := rfl
@[simp] theorem loseNotice_tx : (s.loseNotice).tx = s.tx := rfl
@[simp] theorem loseNotice_line : (s.loseNotice).line = s.line := rfl
@[simp] theorem loseNotice_rx : (s.loseNotice).rx = s.rx := rfl
@[simp] theorem loseNotice_agent : (s.loseNotice).agent = s.agent := rfl
@[simp] theorem loseNotice_part : (s.loseNotice).part = s.part := rfl
@[simp] theorem loseNotice_tallies : (s.loseNotice).tallies = s.tallies := rfl
@[simp] theorem loseNotice_releaseEvents : (s.loseNotice).releaseEvents = s.releaseEvents := rfl
@[simp] theorem loseNotice_pending : (s.loseNotice).pending = s.pending := rfl

@[simp] theorem dropOldest_buf : (s.dropOldest).buf = s.buf := rfl
@[simp] theorem dropOldest_streams : (s.dropOldest).streams = s.streams := rfl
@[simp] theorem dropOldest_metering : (s.dropOldest).metering = s.metering := rfl
@[simp] theorem dropOldest_ports : (s.dropOldest).ports = s.ports := rfl
@[simp] theorem dropOldest_queues : (s.dropOldest).queues = s.queues := rfl
@[simp] theorem dropOldest_tx : (s.dropOldest).tx = s.tx := rfl
@[simp] theorem dropOldest_line : (s.dropOldest).line = s.line := rfl
@[simp] theorem dropOldest_rx : (s.dropOldest).rx = s.rx := rfl
@[simp] theorem dropOldest_agent : (s.dropOldest).agent = s.agent := rfl
@[simp] theorem dropOldest_part : (s.dropOldest).part = s.part := rfl
@[simp] theorem dropOldest_tallies : (s.dropOldest).tallies = s.tallies := rfl
@[simp] theorem dropOldest_releaseEvents : (s.dropOldest).releaseEvents = s.releaseEvents := rfl
@[simp] theorem dropOldest_pending : (s.dropOldest).pending = s.pending := rfl

@[simp] theorem restartNotices_buf : (s.restartNotices).buf = s.buf := rfl
@[simp] theorem restartNotices_streams : (s.restartNotices).streams = s.streams := rfl
@[simp] theorem restartNotices_metering : (s.restartNotices).metering = s.metering := rfl
@[simp] theorem restartNotices_ports : (s.restartNotices).ports = s.ports := rfl
@[simp] theorem restartNotices_queues : (s.restartNotices).queues = s.queues := rfl
@[simp] theorem restartNotices_tx : (s.restartNotices).tx = s.tx := rfl
@[simp] theorem restartNotices_line : (s.restartNotices).line = s.line := rfl
@[simp] theorem restartNotices_rx : (s.restartNotices).rx = s.rx := rfl
@[simp] theorem restartNotices_agent : (s.restartNotices).agent = s.agent := rfl
@[simp] theorem restartNotices_part : (s.restartNotices).part = s.part := rfl
@[simp] theorem restartNotices_tallies : (s.restartNotices).tallies = s.tallies := rfl
@[simp] theorem restartNotices_releaseEvents : (s.restartNotices).releaseEvents = s.releaseEvents := rfl
@[simp] theorem restartNotices_pending : (s.restartNotices).pending = s.pending := rfl

@[simp] theorem syncTimer_buf : (s.syncTimer).buf = s.buf := by
  unfold State.syncTimer
  split <;> try split
  all_goals simp
@[simp] theorem syncTimer_streams : (s.syncTimer).streams = s.streams := by
  unfold State.syncTimer
  split <;> try split
  all_goals simp
@[simp] theorem syncTimer_metering : (s.syncTimer).metering = s.metering := by
  unfold State.syncTimer
  split <;> try split
  all_goals simp
@[simp] theorem syncTimer_ports : (s.syncTimer).ports = s.ports := by
  unfold State.syncTimer
  split <;> try split
  all_goals simp
@[simp] theorem syncTimer_queues : (s.syncTimer).queues = s.queues := by
  unfold State.syncTimer
  split <;> try split
  all_goals simp
@[simp] theorem syncTimer_tx : (s.syncTimer).tx = s.tx := by
  unfold State.syncTimer
  split <;> try split
  all_goals simp
@[simp] theorem syncTimer_line : (s.syncTimer).line = s.line := by
  unfold State.syncTimer
  split <;> try split
  all_goals simp
@[simp] theorem syncTimer_rx : (s.syncTimer).rx = s.rx := by
  unfold State.syncTimer
  split <;> try split
  all_goals simp
@[simp] theorem syncTimer_agent : (s.syncTimer).agent = s.agent := by
  unfold State.syncTimer
  split <;> try split
  all_goals simp
@[simp] theorem syncTimer_part : (s.syncTimer).part = s.part := by
  unfold State.syncTimer
  split <;> try split
  all_goals simp
@[simp] theorem syncTimer_tallies : (s.syncTimer).tallies = s.tallies := by
  unfold State.syncTimer
  split <;> try split
  all_goals simp
@[simp] theorem syncTimer_releaseEvents : (s.syncTimer).releaseEvents = s.releaseEvents := by
  unfold State.syncTimer
  split <;> try split
  all_goals simp
@[simp] theorem syncTimer_pending : (s.syncTimer).pending = s.pending := by
  unfold State.syncTimer
  split <;> try split
  all_goals simp

@[simp] theorem sendOldest_streams (q : Byte) (n : Nat) (l c : Byte) : (s.sendOldest q n l c).streams = s.streams := by
  unfold State.sendOldest
  split
  · rfl
  · split
    · simp
    · rename_i hc; simp [claimCompound_streams hc]
@[simp] theorem sendOldest_metering (q : Byte) (n : Nat) (l c : Byte) : (s.sendOldest q n l c).metering = s.metering := by
  unfold State.sendOldest
  split
  · rfl
  · split
    · simp
    · rename_i hc; simp [claimCompound_metering hc]
@[simp] theorem sendOldest_ports (q : Byte) (n : Nat) (l c : Byte) : (s.sendOldest q n l c).ports = s.ports := by
  unfold State.sendOldest
  split
  · rfl
  · split
    · simp
    · rename_i hc; simp [claimCompound_ports hc]
@[simp] theorem sendOldest_rx (q : Byte) (n : Nat) (l c : Byte) : (s.sendOldest q n l c).rx = s.rx := by
  unfold State.sendOldest
  split
  · rfl
  · split
    · simp
    · rename_i hc; simp [claimCompound_rx hc]
@[simp] theorem sendOldest_agent (q : Byte) (n : Nat) (l c : Byte) : (s.sendOldest q n l c).agent = s.agent := by
  unfold State.sendOldest
  split
  · rfl
  · split
    · simp
    · rename_i hc; simp [claimCompound_agent hc]
@[simp] theorem sendOldest_part (q : Byte) (n : Nat) (l c : Byte) : (s.sendOldest q n l c).part = s.part := by
  unfold State.sendOldest
  split
  · rfl
  · split
    · simp
    · rename_i hc; simp [claimCompound_part hc]
@[simp] theorem sendOldest_tallies (q : Byte) (n : Nat) (l c : Byte) : (s.sendOldest q n l c).tallies = s.tallies := by
  unfold State.sendOldest
  split
  · rfl
  · split
    · simp
    · rename_i hc; simp [claimCompound_tallies hc]
@[simp] theorem sendOldest_releaseEvents (q : Byte) (n : Nat) (l c : Byte) : (s.sendOldest q n l c).releaseEvents = s.releaseEvents := by
  unfold State.sendOldest
  split
  · rfl
  · split
    · simp
    · rename_i hc; simp [claimCompound_releaseEvents hc]
@[simp] theorem sendOldest_pending (q : Byte) (n : Nat) (l c : Byte) : (s.sendOldest q n l c).pending = s.pending := by
  unfold State.sendOldest
  split
  · rfl
  · split
    · simp
    · rename_i hc; simp [claimCompound_pending hc]

@[simp] theorem sendFirst_streams : (s.sendFirst).streams = s.streams := by simp [State.sendFirst]
@[simp] theorem sendFirst_metering : (s.sendFirst).metering = s.metering := by simp [State.sendFirst]
@[simp] theorem sendFirst_ports : (s.sendFirst).ports = s.ports := by simp [State.sendFirst]
@[simp] theorem sendFirst_rx : (s.sendFirst).rx = s.rx := by simp [State.sendFirst]
@[simp] theorem sendFirst_agent : (s.sendFirst).agent = s.agent := by simp [State.sendFirst]
@[simp] theorem sendFirst_part : (s.sendFirst).part = s.part := by simp [State.sendFirst]
@[simp] theorem sendFirst_tallies : (s.sendFirst).tallies = s.tallies := by simp [State.sendFirst]
@[simp] theorem sendFirst_releaseEvents : (s.sendFirst).releaseEvents = s.releaseEvents := by simp [State.sendFirst]
@[simp] theorem sendFirst_pending : (s.sendFirst).pending = s.pending := by simp [State.sendFirst]

@[simp] theorem resend_streams : (s.resend).streams = s.streams := by unfold State.resend; split <;> simp
@[simp] theorem resend_metering : (s.resend).metering = s.metering := by unfold State.resend; split <;> simp
@[simp] theorem resend_ports : (s.resend).ports = s.ports := by unfold State.resend; split <;> simp
@[simp] theorem resend_rx : (s.resend).rx = s.rx := by unfold State.resend; split <;> simp
@[simp] theorem resend_agent : (s.resend).agent = s.agent := by unfold State.resend; split <;> simp
@[simp] theorem resend_part : (s.resend).part = s.part := by unfold State.resend; split <;> simp
@[simp] theorem resend_tallies : (s.resend).tallies = s.tallies := by unfold State.resend; split <;> simp
@[simp] theorem resend_releaseEvents : (s.resend).releaseEvents = s.releaseEvents := by unfold State.resend; split <;> simp
@[simp] theorem resend_pending : (s.resend).pending = s.pending := by unfold State.resend; split <;> simp

@[simp] theorem noticeAttempt_streams : (s.noticeAttempt).streams = s.streams := by unfold State.noticeAttempt; split <;> simp
@[simp] theorem noticeAttempt_metering : (s.noticeAttempt).metering = s.metering := by unfold State.noticeAttempt; split <;> simp
@[simp] theorem noticeAttempt_ports : (s.noticeAttempt).ports = s.ports := by unfold State.noticeAttempt; split <;> simp
@[simp] theorem noticeAttempt_rx : (s.noticeAttempt).rx = s.rx := by unfold State.noticeAttempt; split <;> simp
@[simp] theorem noticeAttempt_agent : (s.noticeAttempt).agent = s.agent := by unfold State.noticeAttempt; split <;> simp
@[simp] theorem noticeAttempt_part : (s.noticeAttempt).part = s.part := by unfold State.noticeAttempt; split <;> simp
@[simp] theorem noticeAttempt_tallies : (s.noticeAttempt).tallies = s.tallies := by unfold State.noticeAttempt; split <;> simp
@[simp] theorem noticeAttempt_releaseEvents : (s.noticeAttempt).releaseEvents = s.releaseEvents := by unfold State.noticeAttempt; split <;> simp
@[simp] theorem noticeAttempt_pending : (s.noticeAttempt).pending = s.pending := by unfold State.noticeAttempt; split <;> simp

@[simp] theorem noticeRetry_streams : (s.noticeRetry).streams = s.streams := by
  unfold State.noticeRetry
  split
  · split
    · rfl
    · split <;> simp
  · rfl
@[simp] theorem noticeRetry_metering : (s.noticeRetry).metering = s.metering := by
  unfold State.noticeRetry
  split
  · split
    · rfl
    · split <;> simp
  · rfl
@[simp] theorem noticeRetry_ports : (s.noticeRetry).ports = s.ports := by
  unfold State.noticeRetry
  split
  · split
    · rfl
    · split <;> simp
  · rfl
@[simp] theorem noticeRetry_rx : (s.noticeRetry).rx = s.rx := by
  unfold State.noticeRetry
  split
  · split
    · rfl
    · split <;> simp
  · rfl
@[simp] theorem noticeRetry_agent : (s.noticeRetry).agent = s.agent := by
  unfold State.noticeRetry
  split
  · split
    · rfl
    · split <;> simp
  · rfl
@[simp] theorem noticeRetry_part : (s.noticeRetry).part = s.part := by
  unfold State.noticeRetry
  split
  · split
    · rfl
    · split <;> simp
  · rfl
@[simp] theorem noticeRetry_tallies : (s.noticeRetry).tallies = s.tallies := by
  unfold State.noticeRetry
  split
  · split
    · rfl
    · split <;> simp
  · rfl
@[simp] theorem noticeRetry_releaseEvents : (s.noticeRetry).releaseEvents = s.releaseEvents := by
  unfold State.noticeRetry
  split
  · split
    · rfl
    · split <;> simp
  · rfl
@[simp] theorem noticeRetry_pending : (s.noticeRetry).pending = s.pending := by
  unfold State.noticeRetry
  split
  · split
    · rfl
    · split <;> simp
  · rfl

@[simp] theorem noticeResume_streams : (s.noticeResume).streams = s.streams := by unfold State.noticeResume; split <;> simp
@[simp] theorem noticeResume_metering : (s.noticeResume).metering = s.metering := by unfold State.noticeResume; split <;> simp
@[simp] theorem noticeResume_ports : (s.noticeResume).ports = s.ports := by unfold State.noticeResume; split <;> simp
@[simp] theorem noticeResume_rx : (s.noticeResume).rx = s.rx := by unfold State.noticeResume; split <;> simp
@[simp] theorem noticeResume_agent : (s.noticeResume).agent = s.agent := by unfold State.noticeResume; split <;> simp
@[simp] theorem noticeResume_part : (s.noticeResume).part = s.part := by unfold State.noticeResume; split <;> simp
@[simp] theorem noticeResume_tallies : (s.noticeResume).tallies = s.tallies := by unfold State.noticeResume; split <;> simp
@[simp] theorem noticeResume_releaseEvents : (s.noticeResume).releaseEvents = s.releaseEvents := by unfold State.noticeResume; split <;> simp
@[simp] theorem noticeResume_pending : (s.noticeResume).pending = s.pending := by unfold State.noticeResume; split <;> simp

@[simp] theorem raiseNotice_streams (n : Notice) : (s.raiseNotice n).streams = s.streams := by
  unfold State.raiseNotice
  split
  · simp
  · split <;> simp
@[simp] theorem raiseNotice_metering (n : Notice) : (s.raiseNotice n).metering = s.metering := by
  unfold State.raiseNotice
  split
  · simp
  · split <;> simp
@[simp] theorem raiseNotice_ports (n : Notice) : (s.raiseNotice n).ports = s.ports := by
  unfold State.raiseNotice
  split
  · simp
  · split <;> simp
@[simp] theorem raiseNotice_rx (n : Notice) : (s.raiseNotice n).rx = s.rx := by
  unfold State.raiseNotice
  split
  · simp
  · split <;> simp
@[simp] theorem raiseNotice_agent (n : Notice) : (s.raiseNotice n).agent = s.agent := by
  unfold State.raiseNotice
  split
  · simp
  · split <;> simp
@[simp] theorem raiseNotice_part (n : Notice) : (s.raiseNotice n).part = s.part := by
  unfold State.raiseNotice
  split
  · simp
  · split <;> simp
@[simp] theorem raiseNotice_tallies (n : Notice) : (s.raiseNotice n).tallies = s.tallies := by
  unfold State.raiseNotice
  split
  · simp
  · split <;> simp
@[simp] theorem raiseNotice_releaseEvents (n : Notice) : (s.raiseNotice n).releaseEvents = s.releaseEvents := by
  unfold State.raiseNotice
  split
  · simp
  · split <;> simp
@[simp] theorem raiseNotice_pending (n : Notice) : (s.raiseNotice n).pending = s.pending := by
  unfold State.raiseNotice
  split
  · simp
  · split <;> simp

@[simp] theorem acknowledge_buf (l : Byte) : (s.acknowledge l).buf = s.buf := by unfold State.acknowledge; split <;> simp
@[simp] theorem acknowledge_streams (l : Byte) : (s.acknowledge l).streams = s.streams := by unfold State.acknowledge; split <;> simp
@[simp] theorem acknowledge_metering (l : Byte) : (s.acknowledge l).metering = s.metering := by unfold State.acknowledge; split <;> simp
@[simp] theorem acknowledge_ports (l : Byte) : (s.acknowledge l).ports = s.ports := by unfold State.acknowledge; split <;> simp
@[simp] theorem acknowledge_queues (l : Byte) : (s.acknowledge l).queues = s.queues := by unfold State.acknowledge; split <;> simp
@[simp] theorem acknowledge_tx (l : Byte) : (s.acknowledge l).tx = s.tx := by unfold State.acknowledge; split <;> simp
@[simp] theorem acknowledge_line (l : Byte) : (s.acknowledge l).line = s.line := by unfold State.acknowledge; split <;> simp
@[simp] theorem acknowledge_rx (l : Byte) : (s.acknowledge l).rx = s.rx := by unfold State.acknowledge; split <;> simp
@[simp] theorem acknowledge_agent (l : Byte) : (s.acknowledge l).agent = s.agent := by unfold State.acknowledge; split <;> simp
@[simp] theorem acknowledge_part (l : Byte) : (s.acknowledge l).part = s.part := by unfold State.acknowledge; split <;> simp
@[simp] theorem acknowledge_tallies (l : Byte) : (s.acknowledge l).tallies = s.tallies := by unfold State.acknowledge; split <;> simp
@[simp] theorem acknowledge_releaseEvents (l : Byte) : (s.acknowledge l).releaseEvents = s.releaseEvents := by unfold State.acknowledge; split <;> simp
@[simp] theorem acknowledge_pending (l : Byte) : (s.acknowledge l).pending = s.pending := by unfold State.acknowledge; split <;> simp

end Sys2Proof.Machine.State
end

