-- ==== Sys2Proof/Laws/Tables.lean ====
section
/-! SUPPORT. The tables kept as rising lists: what a read sees after an update, and that every update keeps the
canonical form.  The same for the octets of the cell store. -/

namespace Sys2Proof.Machine

variable {α : Type}

/-! ## What an update leaves at each index -/

@[simp] theorem Table.find_nil (k : Nat) : Table.find ([] : List (Nat × α)) k = none := rfl

@[simp] theorem Table.find_put_self (m : List (Nat × α)) (k : Nat) (a : α) :
    Table.find (Table.put m k a) k = some a := by
  induction m with
  | nil => simp [Table.put, Table.find]
  | cons e m ih =>
    obtain ⟨j, b⟩ := e
    simp only [Table.put]
    split
    · simp [Table.find]
    · split
      · simp [Table.find]
      · simp [Table.find, ih, Ne.symm (by assumption : ¬ k = j)]

theorem Table.find_put_other (m : List (Nat × α)) {k l : Nat} (a : α) (h : l ≠ k) :
    Table.find (Table.put m k a) l = Table.find m l := by
  induction m with
  | nil => simp [Table.put, Table.find, Ne.symm h]
  | cons e m ih =>
    obtain ⟨j, b⟩ := e
    simp only [Table.put]
    split
    · simp [Table.find, Ne.symm h]
    · split
      · subst_vars; simp [Table.find, Ne.symm h]
      · simp only [Table.find, ih]

@[simp] theorem Table.find_drop_self (m : List (Nat × α)) (k : Nat) : Table.find (Table.drop m k) k = none := by
  induction m with
  | nil => rfl
  | cons e m ih =>
    obtain ⟨j, b⟩ := e
    by_cases hj : j = k
    · simpa [Table.drop, hj] using ih
    · simpa [Table.drop, hj, Table.find] using ih

theorem Table.find_drop_other (m : List (Nat × α)) {k l : Nat} (h : l ≠ k) :
    Table.find (Table.drop m k) l = Table.find m l := by
  induction m with
  | nil => rfl
  | cons e m ih =>
    obtain ⟨j, b⟩ := e
    by_cases hj : j = k
    · subst hj; simpa [Table.drop, Table.find, Ne.symm h] using ih
    · by_cases hl : j = l
      · simp [Table.drop, hl, Table.find, h]
      · simpa [Table.drop, hj, Table.find, hl] using ih

@[simp] theorem Table.get_set_self [DecidableEq α] (d : α) (m : List (Nat × α)) (k : Nat) (a : α) :
    Table.get d (Table.set d m k a) k = a := by
  unfold Table.get Table.set
  split <;> simp [*]

theorem Table.get_set_other [DecidableEq α] (d : α) (m : List (Nat × α)) {k l : Nat} (a : α) (h : l ≠ k) :
    Table.get d (Table.set d m k a) l = Table.get d m l := by
  unfold Table.get Table.set
  split <;> simp [Table.find_put_other, Table.find_drop_other, h]

/-! ## The canonical form -/

theorem Table.risingFrom_mono {m : List (Nat × α)} {n k : Nat} (hk : k ≤ n) (h : Table.risingFrom n m = true) :
    Table.risingFrom k m = true := by
  cases m with
  | nil => rfl
  | cons e m =>
    obtain ⟨j, b⟩ := e
    simp only [Table.risingFrom, Bool.and_eq_true, decide_eq_true_eq] at h ⊢
    exact ⟨by omega, h.2⟩

theorem Table.risingFrom_put {m : List (Nat × α)} {n k : Nat} {a : α} (hk : n ≤ k)
    (h : Table.risingFrom n m = true) : Table.risingFrom n (Table.put m k a) = true := by
  induction m generalizing n with
  | nil => simpa [Table.put, Table.risingFrom] using hk
  | cons e m ih =>
    obtain ⟨j, b⟩ := e
    simp only [Table.risingFrom, Bool.and_eq_true, decide_eq_true_eq] at h
    simp only [Table.put]
    split
    · simp only [Table.risingFrom, Bool.and_eq_true, decide_eq_true_eq]
      exact ⟨hk, by omega, h.2⟩
    · split
      · subst_vars
        simpa [Table.risingFrom, hk] using h.2
      · simp only [Table.risingFrom, Bool.and_eq_true, decide_eq_true_eq]
        exact ⟨h.1, ih (by omega) h.2⟩

theorem Table.risingFrom_drop {m : List (Nat × α)} {n k : Nat} (h : Table.risingFrom n m = true) :
    Table.risingFrom n (Table.drop m k) = true := by
  induction m generalizing n with
  | nil => rfl
  | cons e m ih =>
    obtain ⟨j, b⟩ := e
    simp only [Table.risingFrom, Bool.and_eq_true, decide_eq_true_eq] at h
    by_cases hj : j = k
    · have := Table.risingFrom_mono (by omega : n ≤ j + 1) (ih h.2)
      simpa [Table.drop, hj] using this
    · simpa [Table.drop, hj, Table.risingFrom, h.1] using ih h.2

theorem Table.mem_put {m : List (Nat × α)} {k : Nat} {a : α} {e : Nat × α} (h : e ∈ Table.put m k a) :
    e = (k, a) ∨ e ∈ m := by
  induction m with
  | nil => simpa [Table.put] using h
  | cons f m ih =>
    obtain ⟨j, b⟩ := f
    simp only [Table.put] at h
    split at h
    · simpa using h
    · split at h
      · simp only [List.mem_cons] at h ⊢; tauto
      · simp only [List.mem_cons] at h ⊢
        rcases h with h | h
        · exact .inr (.inl h)
        · rcases ih h with h | h <;> tauto

/-- Setting an entry keeps the canonical form. -/
theorem Table.wf_set [DecidableEq α] {d : α} {m : List (Nat × α)} (k : Nat) (a : α) (h : Table.wf d m = true) :
    Table.wf d (Table.set d m k a) = true := by
  simp only [Table.wf, Bool.and_eq_true, List.all_eq_true, decide_eq_true_eq] at h ⊢
  unfold Table.set
  split
  · exact ⟨Table.risingFrom_drop h.1, fun e he => h.2 e (List.mem_filter.1 he).1⟩
  · refine ⟨Table.risingFrom_put (Nat.zero_le _) h.1, fun e he => ?_⟩
    rcases Table.mem_put he with rfl | he
    · assumption
    · exact h.2 e he

/-! ## The octets of the cell store -/

/-- A write keeps the canonical form of the octets. -/
theorem Memory.wf_write {m : List Host.Cell} (a : Nat) (b : Byte) (h : Memory.wf m = true) :
    Memory.wf (Memory.write m a b) = true := Table.wf_set a b h

@[simp] theorem Memory.read_write_self (m : List Host.Cell) (a : Nat) (b : Byte) :
    Memory.read (Memory.write m a b) a = b := Table.get_set_self ..

theorem Memory.read_write_other (m : List Host.Cell) {a c : Nat} (b : Byte) (h : c ≠ a) :
    Memory.read (Memory.write m a b) c = Memory.read m c := Table.get_set_other _ _ _ h

theorem Memory.wf_reset : Memory.wf State.reset.buf.octets = true := by decide

end Sys2Proof.Machine
end

