-- ==== Sys2Proof/Laws/Effects.lean ====
section
/-! SUPPORT. What each shared operation does to the one block it changes, read through the model's own reads: a
handle, a port, a tier queue, a context, a count. -/

namespace Sys2Proof.Machine

/-! ## Reading a vector after an update -/

theorem get_set_self {α : Type} {n : Nat} (v : Vector α n) (i : Fin n) (x : α) : (v.set i.val x).get i = x := by
  simp [Vector.get_eq_getElem]

theorem get_set_other {α : Type} {n : Nat} (v : Vector α n) {i j : Fin n} (x : α) (h : j ≠ i) :
    (v.set i.val x).get j = v.get j := by
  have : i.val ≠ j.val := fun e => h (Fin.ext e.symm)
  simp [Vector.get_eq_getElem, this]

theorem Tier.ix_inj {a b : Tier} (h : a.ix = b.ix) : a = b := by cases a <;> cases b <;> first | rfl | cases h

theorem Cause.ix_inj {a b : Cause} (h : a.ix = b.ix) : a = b := by
  cases a <;> cases b <;> first | rfl | exact absurd h (by decide)

namespace State

variable (s : State)

/-! ## Handles -/

theorem handle?_of_buf {s t : State} (h : t.buf = s.buf) (k : Nat) : t.handle? k = s.handle? k := by
  simp [handle?, h]

@[simp] theorem setHandle_handle?_self (h : Nat) (r : Handle) : (s.setHandle h r).handle? h = some r := by
  simp [setHandle, handle?]

theorem setHandle_handle?_other {h k : Nat} (r : Handle) (hk : k ≠ h) :
    (s.setHandle h r).handle? k = s.handle? k := by
  simp [setHandle, handle?, Table.find_put_other, hk]

theorem modHandle_handle?_self {h : Nat} {r : Handle} (f : Handle → Handle) (hr : s.handle? h = some r) :
    (s.modHandle h f).handle? h = some (f r) := by
  simp [modHandle, hr]

theorem modHandle_handle?_other {h k : Nat} (f : Handle → Handle) (hk : k ≠ h) :
    (s.modHandle h f).handle? k = s.handle? k := by
  unfold modHandle
  split
  · rfl
  · exact setHandle_handle?_other _ _ hk

@[simp] theorem freeHandle_handle?_self (h : Nat) : (s.freeHandle h).handle? h = none := by
  simp [freeHandle, handle?]

theorem freeHandle_handle?_other {h k : Nat} (hk : k ≠ h) : (s.freeHandle h).handle? k = s.handle? k := by
  simp [freeHandle, handle?, Table.find_drop_other, hk]

@[simp] theorem setHandle_octets (h : Nat) (r : Handle) : (s.setHandle h r).buf.octets = s.buf.octets := rfl

@[simp] theorem modHandle_octets (h : Nat) (f : Handle → Handle) : (s.modHandle h f).buf.octets = s.buf.octets := by
  unfold modHandle
  split <;> rfl

@[simp] theorem setHolder_octets (h : Nat) (k : Holder) : (s.setHolder h k).buf.octets = s.buf.octets := by
  simp [setHolder]

@[simp] theorem freeHandle_octets (h : Nat) : (s.freeHandle h).buf.octets = s.buf.octets := rfl

@[simp] theorem takeCell_octets (h : Nat) : (s.takeCell h).buf.octets = s.buf.octets := by simp [takeCell]

@[simp] theorem takeCells_octets (h n : Nat) : (s.takeCells h n).buf.octets = s.buf.octets := by
  induction n generalizing s with
  | zero => rfl
  | succ n ih => simp [takeCells, ih]

/-- A stored octet: the body length advances, the octet stands at its place, and every other octet stands. -/
theorem storeOctet_spec {h : Nat} {r : Handle} (b : Byte) (hr : s.handle? h = some r) :
    (s.storeOctet h b).handle? h = some { r with bodyLength := r.bodyLength + 1 } ∧
    (∀ k, k ≠ h → (s.storeOctet h b).handle? k = s.handle? k) ∧
    Memory.read (s.storeOctet h b).buf.octets (cellAddress r.chain r.bodyLength) = b ∧
    ∀ a, a ≠ cellAddress r.chain r.bodyLength →
      Memory.read (s.storeOctet h b).buf.octets a = Memory.read s.buf.octets a := by
  have e : s.storeOctet h b = s.withBuf
      { handles := Table.put s.buf.handles h { r with bodyLength := r.bodyLength + 1 }
        octets := Memory.write s.buf.octets (cellAddress r.chain r.bodyLength) b } := by
    simp [storeOctet, hr]
  rw [e]
  refine ⟨by simp [handle?], fun k hk => by simp [handle?, Table.find_put_other, hk], by simp, fun a ha => ?_⟩
  simp [Memory.read_write_other, ha]

/-! ## Ports, queues and contexts -/

@[simp] theorem setPort_port_self (p : Port) (v : PortState) : (s.setPort p v).port p = v := get_set_self ..

theorem setPort_port_other {p q : Port} (v : PortState) (h : q ≠ p) : (s.setPort p v).port q = s.port q :=
  get_set_other _ _ h

@[simp] theorem setIngress_port_self (p : Port) (v : Ingress) :
    (s.setIngress p v).port p = { s.port p with ingress := v } := setPort_port_self ..

theorem setIngress_port_other {p q : Port} (v : Ingress) (h : q ≠ p) : (s.setIngress p v).port q = s.port q :=
  setPort_port_other _ _ h

theorem port_of_ports {s t : State} (h : t.ports = s.ports) (p : Port) : t.port p = s.port p := by simp [port, h]

@[simp] theorem setQueue_queue_self (t : Tier) (v : TierQueue) : (s.setQueue t v).queue t = v := get_set_self ..

theorem setQueue_queue_other {t u : Tier} (v : TierQueue) (h : u ≠ t) : (s.setQueue t v).queue u = s.queue u :=
  get_set_other _ _ fun e => h (Tier.ix_inj e)

@[simp] theorem setMembers_queue_self (t : Tier) (l : List Nat) :
    (s.setMembers t l).queue t = { s.queue t with members := l } := setQueue_queue_self ..

theorem setMembers_queue_other {t u : Tier} (l : List Nat) (h : u ≠ t) : (s.setMembers t l).queue u = s.queue u :=
  setQueue_queue_other _ _ h

theorem queue_of_queues {s t : State} (h : t.queues = s.queues) (u : Tier) : t.queue u = s.queue u := by
  simp [queue, h]

@[simp] theorem setContext_context_self (t : Tier) (c : Context) : (s.setContext t c).context t = c :=
  get_set_self ..

theorem setContext_context_other {t u : Tier} (c : Context) (h : u ≠ t) :
    (s.setContext t c).context u = s.context u := get_set_other _ _ fun e => h (Tier.ix_inj e)

@[simp] theorem setContext_fragment (t : Tier) (c : Context) : (s.setContext t c).rx.fragment = s.rx.fragment := rfl

@[simp] theorem setFragment_fragment (f : Option RxFragment) : (s.setFragment f).rx.fragment = f := rfl

@[simp] theorem setFragment_context (f : Option RxFragment) (t : Tier) : (s.setFragment f).context t = s.context t := rfl

theorem context_of_rx {s t : State} (h : t.rx = s.rx) (u : Tier) : t.context u = s.context u := by simp [context, h]

/-! ## Counts -/

@[simp] theorem setDiscardCount_discards_self (i : Fin 20) (v : BitVec 32) :
    (s.setDiscardCount i v).tallies.discards.get i = v := get_set_self ..

theorem setDiscardCount_discards_other {i j : Fin 20} (v : BitVec 32) (h : j ≠ i) :
    (s.setDiscardCount i v).tallies.discards.get j = s.tallies.discards.get j := get_set_other _ _ h

@[simp] theorem setTally_discards (i : Nat) (t : StreamTally) : (s.setTally i t).tallies.discards = s.tallies.discards :=
  rfl

@[simp] theorem setDiscardCount_tally (i : Fin 20) (v : BitVec 32) (j : StreamIx) :
    (s.setDiscardCount i v).tally j = s.tally j := rfl

@[simp] theorem setTally_tally_self (i : StreamIx) (t : StreamTally) : (s.setTally i.val t).tally i = t := by
  simp [setTally, tally]

theorem setTally_tally_other {i : Nat} {j : StreamIx} (t : StreamTally) (h : j.val ≠ i) :
    (s.setTally i t).tally j = s.tally j := by
  simp [setTally, tally, Table.get_set_other, h]

theorem tally_of_tallies {s t : State} (h : t.tallies = s.tallies) (i : StreamIx) : t.tally i = s.tally i := by
  simp [tally, h]

theorem discardCount_of_tallies {s t : State} (h : t.tallies = s.tallies) (c : Cause) :
    t.discardCount c = s.discardCount c := by simp [discardCount, h]

/-- Steps 2 and 3 of a discard (R189): one cause's count advances by one, and one stream's discards where the stream
is known. -/
theorem countDiscard_spec (c : Cause) (o : Option StreamIx) :
    (s.countDiscard c o).discardCount c = s.discardCount c + 1 ∧
    (∀ d, d ≠ c → (s.countDiscard c o).discardCount d = s.discardCount d) ∧
    ∀ i, (s.countDiscard c o).tally i =
      if o = some i then { s.tally i with framesDiscarded := (s.tally i).framesDiscarded + 1 } else s.tally i := by
  cases o with
  | none =>
    refine ⟨?_, fun d hd => ?_, fun i => by simp [countDiscard]⟩
    · simp [countDiscard, discardCount]
    · simpa [countDiscard, discardCount] using
        setDiscardCount_discards_other s _ (fun e => hd (Cause.ix_inj e))
  | some j =>
    refine ⟨?_, fun d hd => ?_, fun i => ?_⟩
    · simp [countDiscard, discardCount]
    · simpa [countDiscard, discardCount] using
        setDiscardCount_discards_other s _ (fun e => hd (Cause.ix_inj e))
    · by_cases hi : i = j
      · subst hi; simp [countDiscard]
      · have : i.val ≠ j.val := fun e => hi (Fin.ext e)
        simp [countDiscard, setTally_tally_other, this, Ne.symm hi]

/-! ## Table entries -/

@[simp] theorem setStream_stream_self (i : Nat) (e : StreamEntry) : (s.setStream i e).stream i = e := by
  simp [setStream, stream]

theorem setStream_stream_other {i j : Nat} (e : StreamEntry) (h : j ≠ i) :
    (s.setStream i e).stream j = s.stream j := by simp [setStream, stream, Table.get_set_other, h]

@[simp] theorem setRecord_record_self (r : RecordIx) (a : AllotRecord) : (s.setRecord r.val a).record r = a := by
  simp [setRecord, record]

theorem setRecord_record_other {i : Nat} {r : RecordIx} (a : AllotRecord) (h : r.val ≠ i) :
    (s.setRecord i a).record r = s.record r := by simp [setRecord, record, Table.get_set_other, h]

@[simp] theorem setRecord_runtime (i j : Nat) (a : AllotRecord) : (s.setRecord i a).runtime j = s.runtime j := rfl

@[simp] theorem setRuntime_runtime_self (i : Nat) (r : Runtime) : (s.setRuntime i r).runtime i = r := by
  simp [setRuntime, runtime]

theorem setRuntime_runtime_other {i j : Nat} (r : Runtime) (h : j ≠ i) :
    (s.setRuntime i r).runtime j = s.runtime j := by simp [setRuntime, runtime, Table.get_set_other, h]

@[simp] theorem setRuntime_record (i : Nat) (r : Runtime) (k : RecordIx) : (s.setRuntime i r).record k = s.record k := rfl

@[simp] theorem setRuntime_stream (i j : Nat) (r : Runtime) : (s.setRuntime i r).stream j = s.stream j := rfl

theorem stream_of_streams {s t : State} (h : t.streams = s.streams) (i : Nat) : t.stream i = s.stream i := by
  simp [stream, h]

theorem runtime_of_metering {s t : State} (h : t.metering = s.metering) (i : Nat) : t.runtime i = s.runtime i := by
  simp [runtime, h]

theorem record_of_metering {s t : State} (h : t.metering = s.metering) (r : RecordIx) : t.record r = s.record r := by
  simp [record, h]

end State

end Sys2Proof.Machine
end

