-- ==== Sys2Proof/Laws/Claims.lean ====
section
/-! SUPPORT. Claims and releases (R1, R4, R6, R8, R9, R12): the lowest-numbered free handle and cell are free, a grant
writes a new handle and nothing else, and a claim of several cells takes them in order. -/

namespace Sys2Proof.Machine

/-- The number found is among the next `fuel + 1` from `n`. -/
theorem lowestFrom_range (used : List Nat) (n fuel : Nat) :
    n ≤ lowestFrom used n fuel ∧ lowestFrom used n fuel ≤ n + fuel := by
  induction fuel generalizing n with
  | zero => simp [lowestFrom]
  | succ f ih =>
    simp only [lowestFrom]
    split
    · have := ih (n + 1); omega
    · omega

/-- If the number found is used, every number before it and itself is used. -/
theorem lowestFrom_used {used : List Nat} {n fuel : Nat} (h : lowestFrom used n fuel ∈ used) :
    ∀ k, n ≤ k → k ≤ n + fuel → k ∈ used := by
  induction fuel generalizing n with
  | zero =>
    intro k h1 h2
    have : k = n := by omega
    simpa [lowestFrom, this] using h
  | succ f ih =>
    intro k h1 h2
    simp only [lowestFrom] at h
    split at h
    · rename_i hc
      by_cases hk : k = n
      · subst hk; simpa using hc
      · exact ih h k (by omega) (by omega)
    · rename_i hc; simp at hc; exact absurd h hc

/-- With fewer used numbers than are looked through, the number found is unused. -/
theorem lowestFrom_not_mem {used : List Nat} {n fuel : Nat} (h : used.length ≤ fuel) :
    lowestFrom used n fuel ∉ used := by
  intro hm
  have hs : List.range' n (fuel + 1) ⊆ used := fun k hk => by
    simp only [List.mem_range'_1] at hk
    exact lowestFrom_used hm k hk.1 (by omega)
  have := (List.nodup_range' (s := n) (n := fuel + 1)).subperm hs |>.length_le
  simp at this
  omega

/-- With fewer used numbers than are looked through, the number found is one of them. -/
theorem lowestFrom_lt {used : List Nat} {n fuel : Nat} (h : used.length < fuel) :
    lowestFrom used n fuel < n + fuel := by
  induction fuel generalizing n used with
  | zero => omega
  | succ f ih =>
    by_contra hlt
    have hle := (lowestFrom_range used n (f + 1)).2
    have heq : lowestFrom used n (f + 1) = n + (f + 1) := by omega
    have hall : ∀ k, n ≤ k → k < n + (f + 1) → k ∈ used := by
      intro k h1 h2
      by_contra hk
      have : ∀ (g m : Nat), m ≤ k → k < m + g → lowestFrom used m g ≤ k := by
        intro g
        induction g with
        | zero => intro m h1 h2; omega
        | succ g ihg =>
          intro m h1 h2
          simp only [lowestFrom]
          split
          · rename_i hc
            have : m ≠ k := fun e => hk (by subst e; simpa using hc)
            exact ihg (m + 1) (by omega) (by omega)
          · exact h1
      have := this (f + 1) n h1 h2
      omega
    have hs : List.range' n (f + 1) ⊆ used := fun k hk => by
      simp only [List.mem_range'_1] at hk
      exact hall k hk.1 (by omega)
    have := (List.nodup_range' (s := n) (n := f + 1)).subperm hs |>.length_le
    simp at this
    omega

namespace State

variable {s : State}

theorem find_none_of_not_mem {α : Type} {m : List (Nat × α)} {k : Nat} (h : k ∉ m.map fun e => e.1) :
    Table.find m k = none := by
  induction m with
  | nil => rfl
  | cons e m ih =>
    obtain ⟨j, b⟩ := e
    simp only [List.map_cons, List.mem_cons, not_or] at h
    simp [Table.find, Ne.symm h.1, ih h.2]

/-- While a handle is free, the lowest-numbered one is FREE (R4). -/
theorem lowestHandle_free (h : 1 ≤ s.freeHandles) : s.handle? s.lowestHandle = none := by
  apply find_none_of_not_mem
  apply lowestFrom_not_mem
  simp [freeHandles, Config.handleCount] at h ⊢
  omega

theorem lowestHandle_not_mem (h : 1 ≤ s.freeHandles) : s.lowestHandle ∉ s.buf.handles.map fun e => e.1 := by
  apply lowestFrom_not_mem
  simp [freeHandles, Config.handleCount] at h ⊢
  omega

/-- While a handle is free, the lowest-numbered one is one of H0 to H511 (R2). -/
theorem lowestHandle_lt (h : 1 ≤ s.freeHandles) : s.lowestHandle < Config.handleCount := by
  have := lowestFrom_lt (used := s.buf.handles.map fun e => e.1) (n := 0) (fuel := Config.handleCount) (by
    simp [freeHandles, Config.handleCount] at h ⊢; omega)
  simpa [lowestHandle] using this

/-- While a cell is free, the lowest-numbered one is in no chain (R1). -/
theorem lowestCell_free (h : 1 ≤ s.freeCells) : s.lowestCell ∉ s.heldCells := by
  apply lowestFrom_not_mem
  simp [freeCells, Config.cellCount] at h ⊢
  omega

/-- While a cell is free, the lowest-numbered one is one of cells 0 to 4095 (R1). -/
theorem lowestCell_lt (h : 1 ≤ s.freeCells) : s.lowestCell < Config.cellCount := by
  have := lowestFrom_lt (used := s.heldCells) (n := 0) (fuel := Config.cellCount) (by
    simp [freeCells, Config.cellCount] at h ⊢; omega)
  simpa [lowestCell] using this

theorem length_put_new {α : Type} {m : List (Nat × α)} {k : Nat} (a : α) (h : k ∉ m.map fun e => e.1) :
    (Table.put m k a).length = m.length + 1 := by
  induction m with
  | nil => rfl
  | cons e m ih =>
    obtain ⟨j, b⟩ := e
    simp only [List.map_cons, List.mem_cons, not_or] at h
    simp only [Table.put]
    split
    · simp
    · simp [h.1, ih h.2]

theorem flatMap_put_new {m : List (Nat × Handle)} {k : Nat} {r : Handle} (hr : r.chain = [])
    (h : k ∉ m.map fun e => e.1) :
    (Table.put m k r).flatMap (fun e => e.2.chain) = m.flatMap fun e => e.2.chain := by
  induction m with
  | nil => simp [Table.put, hr]
  | cons e m ih =>
    obtain ⟨j, b⟩ := e
    simp only [List.map_cons, List.mem_cons, not_or] at h
    simp only [Table.put]
    split
    · simp [hr]
    · simp [h.1, ih h.2]

/-- A grant (R4): the lowest-numbered FREE handle takes the record of the claim, and no cell, octet or other handle
changes. -/
theorem claimHandle_spec {mgmt : Bool} {holder : Holder} {tag : Tag} {tier : Tier} {stream : Option StreamIx} {h : Nat}
    {t : State} (hc : s.claimHandle mgmt holder tag tier stream = some (h, t)) :
    h = s.lowestHandle ∧ s.handle? h = none ∧ t = s.setHandle h (Handle.granted holder tag tier stream) ∧
    t.heldCells = s.heldCells ∧ t.buf.handles.length = s.buf.handles.length + 1 := by
  unfold claimHandle at hc
  split at hc
  · rename_i hg
    have h1 : 1 ≤ s.freeHandles := by
      unfold handleGranted at hg
      split at hg <;> have hd := of_decide_eq_true hg
      · exact hd
      · unfold Config.reserveHandles at hd; omega
    cases hc
    have hn := lowestHandle_not_mem h1
    refine ⟨rfl, lowestHandle_free h1, rfl, ?_, ?_⟩
    · exact flatMap_put_new rfl hn
    · exact length_put_new _ hn
  · cases hc

/-- A claim of the next cell: it is appended to the chain. -/
theorem takeCell_handle?_self {h : Nat} {r : Handle} (hr : s.handle? h = some r) :
    (s.takeCell h).handle? h = some { r with chain := r.chain ++ [s.lowestCell] } := by
  simp [takeCell, modHandle_handle?_self _ _ hr]

theorem takeCell_handle?_other {h k : Nat} (hk : k ≠ h) : (s.takeCell h).handle? k = s.handle? k := by
  simp [takeCell, modHandle_handle?_other _ _ hk]

/-- The storing of one body octet (R6), once its claim, if it needs one, is granted. -/
theorem appendOctet_spec {mgmt : Bool} {h : Nat} {r : Handle} {b : Byte} {t : State} (hr : s.handle? h = some r)
    (ht : s.appendOctet mgmt h b = some t) :
    ∃ chain, chain = (if r.bodyLength % Config.cellSize = 0 then r.chain ++ [s.lowestCell] else r.chain) ∧
      (r.bodyLength % Config.cellSize = 0 → s.cellGranted mgmt = true) ∧
      t.handle? h = some { r with chain := chain, bodyLength := r.bodyLength + 1 } ∧
      (∀ k, k ≠ h → t.handle? k = s.handle? k) ∧
      Memory.read t.buf.octets (cellAddress chain r.bodyLength) = b ∧
      ∀ a, a ≠ cellAddress chain r.bodyLength → Memory.read t.buf.octets a = Memory.read s.buf.octets a := by
  simp only [appendOctet, hr] at ht
  split at ht
  · rename_i hz
    split at ht
    · rename_i hg
      cases ht
      obtain ⟨h1, h2, h3, h4⟩ := storeOctet_spec (s.takeCell h) b (takeCell_handle?_self hr)
      refine ⟨r.chain ++ [s.lowestCell], by simp [hz], fun _ => hg, h1, fun k hk => ?_, h3, fun a ha => ?_⟩
      · rw [h2 k hk, takeCell_handle?_other hk]
      · rw [h4 a ha, takeCell_octets]
    · cases ht
  · rename_i hz
    cases ht
    obtain ⟨h1, h2, h3, h4⟩ := storeOctet_spec s b hr
    exact ⟨r.chain, by simp [hz], fun e => absurd e hz, h1, h2, h3, h4⟩

/-- When the storing of an octet is refused, its claim was refused (R6). -/
theorem appendOctet_none {mgmt : Bool} {h : Nat} {r : Handle} {b : Byte} (hr : s.handle? h = some r) :
    s.appendOctet mgmt h b = none ↔ r.bodyLength % Config.cellSize = 0 ∧ s.cellGranted mgmt = false := by
  simp only [appendOctet, hr]
  split
  · split <;> simp_all
  · simp_all

end State

end Sys2Proof.Machine
end

