-- ==== Sys2Proof/Laws/Stores.lean ====
section
/-! SUPPORT. The stores stay accounted for (`StoresOk`) under each operation on handles, cells and octets, with the
free counts each leaves; and the addresses of a body's octets are all different (R1, R6, R12). -/

namespace Sys2Proof.Machine

/-! ## A listed entry of a rising table, and the table after an update at it -/

theorem Table.find_none_of_rising {α : Type} {m : List (Nat × α)} {n k : Nat} (h : Table.risingFrom n m = true)
    (hk : k < n) : Table.find m k = none := by
  induction m generalizing n with
  | nil => rfl
  | cons e m ih =>
    obtain ⟨j, b⟩ := e
    simp only [Table.risingFrom, Bool.and_eq_true, decide_eq_true_eq] at h
    have : j ≠ k := by omega
    simp [Table.find, this, ih h.2 (by omega)]

/-- Where an entry stands in a rising table, and what putting and dropping it do there. -/
theorem Table.split {α : Type} {m : List (Nat × α)} {n k : Nat} {a : α} (h : Table.risingFrom n m = true)
    (hf : Table.find m k = some a) :
    ∃ l r, m = l ++ (k, a) :: r ∧ (∀ b, Table.put m k b = l ++ (k, b) :: r) ∧ Table.drop m k = l ++ r := by
  induction m generalizing n with
  | nil => cases hf
  | cons e m ih =>
    obtain ⟨j, b⟩ := e
    simp only [Table.risingFrom, Bool.and_eq_true, decide_eq_true_eq] at h
    by_cases hj : j = k
    · subst hj
      have hb : b = a := by simpa [Table.find] using hf
      subst hb
      refine ⟨[], m, rfl, fun c => by simp [Table.put], ?_⟩
      have : ∀ e ∈ m, e.1 ≠ j := by
        intro e he
        clear ih hf
        have hr := h.2
        have hlt : ∀ {n : Nat} {m : List (Nat × α)}, Table.risingFrom n m = true → ∀ e ∈ m, n ≤ e.1 := by
          intro n m
          induction m generalizing n with
          | nil => intro _ e he; cases he
          | cons f m ihm =>
            obtain ⟨i, c⟩ := f
            intro hr e he
            simp only [Table.risingFrom, Bool.and_eq_true, decide_eq_true_eq] at hr
            rcases List.mem_cons.1 he with rfl | he
            · exact hr.1
            · have := ihm hr.2 e he; omega
        have := hlt hr e he
        omega
      simp only [Table.drop, List.filter_cons, ne_eq, not_true_eq_false, decide_false, Bool.false_eq_true, ↓reduceIte,
        List.nil_append]
      exact List.filter_eq_self.2 fun e he => by simp [this e he]
    · have hf' : Table.find m k = some a := by simpa [Table.find, hj] using hf
      have hlt : ¬ k < j := by
        intro hlt
        rw [Table.find_none_of_rising h.2 (by omega)] at hf'
        cases hf'
      obtain ⟨l, r, h1, h2, h3⟩ := ih h.2 hf'
      refine ⟨(j, b) :: l, r, by simp [h1], fun c => ?_, ?_⟩
      · simp [Table.put, hlt, Ne.symm hj, h2]
      · simpa [Table.drop, hj] using h3

/-! ## Addresses of body octets (R6) -/

/-- Different places of a chain with no repeated cell are different addresses. -/
theorem cellAddress_inj {chain : List Nat} (hn : chain.Nodup) {j k : Nat} (hj : j < 64 * chain.length)
    (hk : k < 64 * chain.length) (h : cellAddress chain j = cellAddress chain k) : j = k := by
  unfold cellAddress Config.cellSize at h
  have hj' : j / 64 < chain.length := by omega
  have hk' : k / 64 < chain.length := by omega
  rw [List.getD_eq_getElem _ _ hj', List.getD_eq_getElem _ _ hk'] at h
  have h1 : chain[j / 64] = chain[k / 64] := by omega
  have h2 : j / 64 = k / 64 := (List.Nodup.getElem_inj_iff hn).1 h1
  omega

/-- Places of chains without a common cell are different addresses. -/
theorem cellAddress_ne {x y : List Nat} (hd : ∀ i ∈ x, i ∉ y) {j k : Nat} (hj : j < 64 * x.length)
    (hk : k < 64 * y.length) : cellAddress x j ≠ cellAddress y k := by
  intro h
  unfold cellAddress Config.cellSize at h
  have hj' : j / 64 < x.length := by omega
  have hk' : k / 64 < y.length := by omega
  rw [List.getD_eq_getElem _ _ hj', List.getD_eq_getElem _ _ hk'] at h
  have h1 : x[j / 64] = y[k / 64] := by omega
  exact hd _ (List.getElem_mem hj') (h1 ▸ List.getElem_mem hk')

/-- The place of an octet within the first cells of a chain does not depend on the cells behind. -/
theorem cellAddress_append {c d : List Nat} {k : Nat} (hk : k < 64 * c.length) :
    cellAddress (c ++ d) k = cellAddress c k := by
  unfold cellAddress Config.cellSize
  have hk' : k / 64 < c.length := by omega
  rw [List.getD_append _ _ _ _ hk']

theorem cellsFor_mul (n : Nat) : n ≤ 64 * cellsFor n := by unfold cellsFor Config.cellSize; omega

theorem cellsFor_succ (n : Nat) : cellsFor (n + 1) = if n % 64 = 0 then cellsFor n + 1 else cellsFor n := by
  unfold cellsFor Config.cellSize
  split <;> omega

namespace State

variable {s : State}

/-- The held cells with one handle's chain set apart. -/
theorem heldCells_split (hs : StoresOk s) {h : Nat} {r : Handle} (hr : s.handle? h = some r) :
    ∃ a b, s.heldCells = a ++ r.chain ++ b ∧
      (∀ r', (s.setHandle h r').heldCells = a ++ r'.chain ++ b) ∧ (s.freeHandle h).heldCells = a ++ b ∧
      (∀ r', (s.setHandle h r').buf.handles.length = s.buf.handles.length) ∧
      (s.freeHandle h).buf.handles.length + 1 = s.buf.handles.length ∧
      ∀ k r', k ≠ h → s.handle? k = some r' → ∀ c ∈ r'.chain, c ∈ a ++ b := by
  obtain ⟨l, m, h1, h2, h3⟩ := Table.split hs.1 hr
  refine ⟨l.flatMap fun e => e.2.chain, m.flatMap fun e => e.2.chain, ?_, fun r' => ?_, ?_, fun r' => ?_, ?_, ?_⟩
  · simp [heldCells, h1]
  · simp [heldCells, setHandle, h2]
  · simp [heldCells, freeHandle, h3]
  · simp only [setHandle, withBuf_buf, h2]; simp [h1]
  · simp only [freeHandle, withBuf_buf, h3]; simp [h1]; omega
  · intro k r' hk hf c hc
    have hf' : Table.find (l ++ (h, r) :: m) k = some r' := by rw [← h1]; exact hf
    have hmem : (k, r') ∈ l ++ m := by
      clear h1 h2 h3 hf
      induction l with
      | nil =>
        have : Table.find m k = some r' := by simpa [Table.find, Ne.symm hk] using hf'
        have key : ∀ {m : List (Nat × Handle)}, Table.find m k = some r' → (k, r') ∈ m := by
          intro m
          induction m with
          | nil => intro h; cases h
          | cons e m ih =>
            obtain ⟨j, b⟩ := e
            intro h
            by_cases hj : j = k
            · subst hj; simp [Table.find] at h; simp [h]
            · exact List.mem_cons_of_mem _ (ih (by simpa [Table.find, hj] using h))
        simpa using key this
      | cons e l ih =>
        obtain ⟨j, b⟩ := e
        by_cases hj : j = k
        · subst hj
          have : b = r' := by simpa [Table.find] using hf'
          simp [this]
        · have := ih (by simpa [Table.find, hj] using hf')
          simp only [List.cons_append, List.mem_cons]
          exact .inr this
    rcases List.mem_append.1 hmem with hm | hm
    · exact List.mem_append.2 (.inl (List.mem_flatMap.2 ⟨_, hm, hc⟩))
    · exact List.mem_append.2 (.inr (List.mem_flatMap.2 ⟨_, hm, hc⟩))

theorem mem_of_handle? {h : Nat} {r : Handle} (hr : s.handle? h = some r) : (h, r) ∈ s.buf.handles := by
  unfold handle? at hr
  revert hr
  induction s.buf.handles with
  | nil => intro h; cases h
  | cons e m ih =>
    obtain ⟨j, b⟩ := e
    intro hr
    by_cases hj : j = h
    · subst hj; simp [Table.find] at hr; simp [hr]
    · exact List.mem_cons_of_mem _ (ih (by simpa [Table.find, hj] using hr))

/-- The chain of a held handle has no repeated cell, and shares none with another handle's (R1). -/
theorem chain_nodup (hs : StoresOk s) {h : Nat} {r : Handle} (hr : s.handle? h = some r) : r.chain.Nodup := by
  obtain ⟨a, b, h1, -⟩ := heldCells_split hs hr
  have := hs.2.2.1
  rw [h1, List.append_assoc] at this
  exact (List.nodup_append.1 (List.nodup_append.1 this).2.1).1

theorem chains_disjoint (hs : StoresOk s) {h k : Nat} {r q : Handle} (hr : s.handle? h = some r)
    (hq : s.handle? k = some q) (hk : k ≠ h) : ∀ c ∈ r.chain, c ∉ q.chain := by
  obtain ⟨a, b, h1, -, -, -, -, h6⟩ := heldCells_split hs hr
  intro c hc hc'
  have hm := h6 k q hk hq c hc'
  have hn := hs.2.2.1
  rw [h1] at hn
  have hp : (a ++ r.chain ++ b).Perm (r.chain ++ (a ++ b)) := by
    simpa [List.append_assoc] using (List.perm_append_comm_assoc a r.chain b)
  have := hp.nodup_iff.1 hn
  exact (List.disjoint_of_nodup_append this) hc hm

theorem mem_heldCells {h : Nat} {r : Handle} (hr : s.handle? h = some r) {c : Nat} (hc : c ∈ r.chain) :
    c ∈ s.heldCells := List.mem_flatMap.2 ⟨_, mem_of_handle? hr, hc⟩

/-- The number of handles never passes 512 (R3). -/
theorem handles_length_le (hs : StoresOk s) : s.buf.handles.length ≤ 512 := by
  have key : ∀ {m : List (Nat × Handle)} {n : Nat}, Table.risingFrom n m = true → (∀ e ∈ m, e.1 < 512) →
      m.length + n ≤ 512 ∨ m = [] := by
    intro m
    induction m with
    | nil => intro n _ _; exact .inr rfl
    | cons e m ih =>
      obtain ⟨j, b⟩ := e
      intro n hr hb
      simp only [Table.risingFrom, Bool.and_eq_true, decide_eq_true_eq] at hr
      have hj := hb (j, b) (by simp)
      rcases ih hr.2 (fun e he => hb e (by simp [he])) with h | h
      · left; simp at hj ⊢; omega
      · left; subst h; simp at hj ⊢; omega
  rcases key hs.1 hs.2.1 with h | h
  · omega
  · simp [h]

/-- The number of held cells never passes 4096 (R1). -/
theorem heldCells_length_le (hs : StoresOk s) : s.heldCells.length ≤ 4096 := by
  have hsub : s.heldCells ⊆ List.range 4096 := fun c hc => List.mem_range.2 (hs.2.2.2.1 c hc)
  simpa using (hs.2.2.1.subperm hsub).length_le

/-! ## The stores after each operation -/

theorem storesOk_of_buf {t : State} (hs : StoresOk s) (h : t.buf = s.buf) : StoresOk t := by
  unfold StoresOk at hs ⊢
  simpa [heldCells, h] using hs

theorem rising_put_handles (hs : StoresOk s) {h : Nat} (r : Handle) (hlt : h < 512) :
    Table.risingFrom 0 (Table.put s.buf.handles h r) = true ∧ ∀ e ∈ Table.put s.buf.handles h r, e.1 < 512 := by
  refine ⟨Table.risingFrom_put (Nat.zero_le _) hs.1, fun e he => ?_⟩
  rcases Table.mem_put he with rfl | he
  · exact hlt
  · exact hs.2.1 e he

/-- A change of a held handle's record that keeps its chain. -/
theorem storesOk_setHandle (hs : StoresOk s) {h : Nat} {r r' : Handle} (hr : s.handle? h = some r)
    (hc : r'.chain = r.chain) :
    StoresOk (s.setHandle h r') ∧ (s.setHandle h r').heldCells = s.heldCells ∧
      (s.setHandle h r').buf.handles.length = s.buf.handles.length := by
  obtain ⟨a, b, h1, h2, -, h4, -⟩ := heldCells_split hs hr
  have hlt := hs.2.1 _ (mem_of_handle? hr)
  have he : (s.setHandle h r').heldCells = s.heldCells := by rw [h2, h1, hc]
  refine ⟨⟨(rising_put_handles hs r' hlt).1, (rising_put_handles hs r' hlt).2, ?_, ?_, hs.2.2.2.2⟩, he, h4 r'⟩
  · rw [he]; exact hs.2.2.1
  · rw [he]; exact hs.2.2.2.1

theorem storesOk_modHandle (hs : StoresOk s) (h : Nat) (f : Handle → Handle) (hc : ∀ r, (f r).chain = r.chain) :
    StoresOk (s.modHandle h f) ∧ (s.modHandle h f).heldCells = s.heldCells ∧
      (s.modHandle h f).buf.handles.length = s.buf.handles.length := by
  unfold modHandle
  split
  · exact ⟨hs, rfl, rfl⟩
  · rename_i r hr
    exact storesOk_setHandle hs hr (hc r)

theorem storesOk_setHolder (hs : StoresOk s) (h : Nat) (k : Holder) :
    StoresOk (s.setHolder h k) ∧ (s.setHolder h k).heldCells = s.heldCells ∧
      (s.setHolder h k).buf.handles.length = s.buf.handles.length :=
  storesOk_modHandle hs h _ fun _ => rfl

/-- The taking of a new handle with an empty chain (R4). -/
theorem storesOk_newHandle (hs : StoresOk s) {r : Handle} (hr : r.chain = []) (hf : 1 ≤ s.freeHandles) :
    StoresOk (s.setHandle s.lowestHandle r) ∧ (s.setHandle s.lowestHandle r).heldCells = s.heldCells ∧
      (s.setHandle s.lowestHandle r).buf.handles.length = s.buf.handles.length + 1 := by
  have hn := lowestHandle_not_mem hf
  have hlt : s.lowestHandle < 512 := lowestHandle_lt hf
  have he : (s.setHandle s.lowestHandle r).heldCells = s.heldCells := flatMap_put_new hr hn
  refine ⟨⟨(rising_put_handles hs r hlt).1, (rising_put_handles hs r hlt).2, ?_, ?_, hs.2.2.2.2⟩, he,
    length_put_new _ hn⟩
  · rw [he]; exact hs.2.2.1
  · rw [he]; exact hs.2.2.2.1

/-- The taking of one cell (R1): the chain grows by a cell that was free. -/
theorem storesOk_takeCell (hs : StoresOk s) (h : Nat) (hf : 1 ≤ s.freeCells) :
    StoresOk (s.takeCell h) ∧
      (s.takeCell h).buf.handles.length = s.buf.handles.length ∧
      (∀ r, s.handle? h = some r → (s.takeCell h).heldCells.length = s.heldCells.length + 1) ∧
      (∀ c, c ∈ (s.takeCell h).heldCells → c ∈ s.heldCells ∨ c = s.lowestCell) := by
  unfold takeCell modHandle
  split
  · rename_i hn
    exact ⟨hs, rfl, fun r hr => (by rw [hn] at hr; cases hr), fun c hc => .inl hc⟩
  · rename_i r hr
    obtain ⟨a, b, h1, h2, -, h4, -⟩ := heldCells_split hs hr
    have hlt := hs.2.1 _ (mem_of_handle? hr)
    have hperm : ((s.setHandle h { r with chain := r.chain ++ [s.lowestCell] }).heldCells).Perm
        (s.lowestCell :: s.heldCells) := by
      rw [h2, h1]
      have : (a ++ (r.chain ++ [s.lowestCell]) ++ b) = (a ++ r.chain) ++ s.lowestCell :: b := by simp
      rw [this]
      exact List.perm_middle
    have hfree := lowestCell_free hf
    refine ⟨⟨(rising_put_handles hs _ hlt).1, (rising_put_handles hs _ hlt).2, ?_, ?_, hs.2.2.2.2⟩, h4 _, ?_, ?_⟩
    · exact hperm.nodup_iff.2 (List.nodup_cons.2 ⟨hfree, hs.2.2.1⟩)
    · intro c hc
      rcases List.mem_cons.1 (hperm.mem_iff.1 hc) with rfl | hc
      · exact lowestCell_lt hf
      · exact hs.2.2.2.1 c hc
    · intro _ _
      simpa using hperm.length_eq
    · intro c hc
      rcases List.mem_cons.1 (hperm.mem_iff.1 hc) with rfl | hc
      · exact .inr rfl
      · exact .inl hc

/-- The return of a handle and its cells (R12). -/
theorem storesOk_freeHandle (hs : StoresOk s) (h : Nat) :
    StoresOk (s.freeHandle h) ∧
      (∀ r, s.handle? h = some r → (s.freeHandle h).heldCells.length + r.chain.length = s.heldCells.length ∧
        (s.freeHandle h).buf.handles.length + 1 = s.buf.handles.length) := by
  have hrise : Table.risingFrom 0 (s.freeHandle h).buf.handles = true := Table.risingFrom_drop hs.1
  have hlt : ∀ e ∈ (s.freeHandle h).buf.handles, e.1 < 512 := fun e he => hs.2.1 e (List.mem_filter.1 he).1
  have hsub : (s.freeHandle h).heldCells.Sublist s.heldCells := by
    unfold heldCells freeHandle
    exact List.Sublist.flatMap List.filter_sublist _
  refine ⟨⟨hrise, hlt, hsub.nodup hs.2.2.1, fun c hc => hs.2.2.2.1 c (hsub.subset hc), hs.2.2.2.2⟩, fun r hr => ?_⟩
  obtain ⟨a, b, h1, -, h3, -, h5, -⟩ := heldCells_split hs hr
  refine ⟨?_, h5⟩
  rw [h3, h1]; simp; omega

theorem cellAddress_lt (hs : StoresOk s) {h : Nat} {r : Handle} (hr : s.handle? h = some r) (k : Nat) :
    cellAddress r.chain k < 4096 * 64 := by
  unfold cellAddress Config.cellSize
  have : r.chain.getD (k / 64) 0 < 4096 := by
    by_cases hk : k / 64 < r.chain.length
    · rw [List.getD_eq_getElem _ _ hk]
      exact hs.2.2.2.1 _ (mem_heldCells hr (List.getElem_mem hk))
    · rw [List.getD_eq_default _ _ (by omega)]; omega
  omega

/-- The storing of one octet. -/
theorem storesOk_storeOctet (hs : StoresOk s) (h : Nat) (b : Byte) :
    StoresOk (s.storeOctet h b) ∧ (s.storeOctet h b).heldCells = s.heldCells ∧
      (s.storeOctet h b).buf.handles.length = s.buf.handles.length := by
  unfold storeOctet
  split
  · exact ⟨hs, rfl, rfl⟩
  · rename_i r hr
    obtain ⟨k1, k2, k3⟩ := storesOk_setHandle (r' := { r with bodyLength := r.bodyLength + 1 }) hs hr rfl
    refine ⟨⟨k1.1, k1.2.1, k1.2.2.1, k1.2.2.2.1, Memory.wf_write _ _ hs.2.2.2.2.1, fun e he => ?_⟩, k2, k3⟩
    have hm : e ∈ Table.set Memory.unwritten s.buf.octets (cellAddress r.chain r.bodyLength) b := he
    unfold Table.set at hm
    split at hm
    · exact hs.2.2.2.2.2 e (List.mem_filter.1 hm).1
    · rcases Table.mem_put hm with rfl | hm
      · exact cellAddress_lt hs hr _
      · exact hs.2.2.2.2.2 e hm

end State

end Sys2Proof.Machine
end

