-- ==== Sys2Proof/Laws/Bodies.lean ====
section
/-! SUPPORT. The bodies of held frames (R6): storing octets appends them to the frame's own body and changes no other
frame's, whether the cells are claimed one at a time or all at once (R9). -/

namespace Sys2Proof.Machine.State

variable {s t : State}

/-- A body is read from the octets and the chain alone. -/
theorem bodySlice_congr {r : Handle} {a b : Nat}
    (h : ∀ k, a ≤ k → k < b → Memory.read t.buf.octets (cellAddress r.chain k) =
      Memory.read s.buf.octets (cellAddress r.chain k)) : t.bodySlice r a b = s.bodySlice r a b := by
  unfold bodySlice
  apply List.map_congr_left
  intro k hk
  simp only [List.mem_range'_1] at hk
  exact h k hk.1 (by omega)

theorem bodyOf_eq {h : Nat} {r : Handle} (hr : s.handle? h = some r) : s.bodyOf h = s.bodySlice r 0 r.bodyLength := by
  simp [bodyOf, hr]

theorem bodyOf_length {h : Nat} {r : Handle} (hr : s.handle? h = some r) : (s.bodyOf h).length = r.bodyLength := by
  simp [bodyOf, hr, bodySlice]

/-- A body does not change while its octets, its chain and its length stand. -/
theorem bodyOf_congr {h : Nat} {r r' : Handle} (hr : s.handle? h = some r) (hr' : t.handle? h = some r')
    (hc : r'.chain = r.chain) (hl : r'.bodyLength = r.bodyLength) (ho : t.buf.octets = s.buf.octets) :
    t.bodyOf h = s.bodyOf h := by
  rw [bodyOf_eq hr, bodyOf_eq hr', hl]
  unfold bodySlice
  rw [hc, ho]

theorem bodySlice_succ (r : Handle) (n : Nat) :
    s.bodySlice r 0 (n + 1) = s.bodySlice r 0 n ++ [Memory.read s.buf.octets (cellAddress r.chain n)] := by
  simp [bodySlice, List.range'_concat]

/-- A frame has the cells its body needs. -/
def Fits (r : Handle) : Prop := r.bodyLength ≤ 64 * r.chain.length

/-- The storing of one octet into a cell the frame already has. -/
theorem storeOctet_body (hs : StoresOk s) {h : Nat} {r : Handle} (b : Byte) (hr : s.handle? h = some r)
    (hf : r.bodyLength < 64 * r.chain.length) :
    (s.storeOctet h b).handle? h = some { r with bodyLength := r.bodyLength + 1 } ∧
    (s.storeOctet h b).bodyOf h = s.bodyOf h ++ [b] ∧
    (∀ k, k ≠ h → (s.storeOctet h b).handle? k = s.handle? k) ∧
    ∀ k q, k ≠ h → s.handle? k = some q → Fits q → (s.storeOctet h b).bodyOf k = s.bodyOf k := by
  obtain ⟨h1, h2, h3, h4⟩ := storeOctet_spec s b hr
  refine ⟨h1, ?_, h2, fun k q hk hq hfit => ?_⟩
  · rw [bodyOf_eq h1, bodyOf_eq hr]
    show (s.storeOctet h b).bodySlice _ 0 (r.bodyLength + 1) = _
    rw [bodySlice_succ, h3]
    congr 1
    apply bodySlice_congr
    intro k _ hk
    apply h4
    exact fun e => absurd (cellAddress_inj (chain_nodup hs hr) (by omega) (by omega) e) (by omega)
  · rw [bodyOf_eq hq, bodyOf_eq ((h2 k hk).trans hq)]
    apply bodySlice_congr
    intro j _ hj
    apply h4
    unfold Fits at hfit
    exact cellAddress_ne (chains_disjoint hs hq hr (Ne.symm hk)) (by omega) (by omega)

/-- The storing of octets in order into cells the frame already has. -/
theorem storeOctets_body (l : List Byte) {h : Nat} {s : State} {r : Handle} (hs : StoresOk s)
    (hr : s.handle? h = some r) (hf : r.bodyLength + l.length ≤ 64 * r.chain.length) :
    StoresOk (s.storeOctets h l) ∧ (s.storeOctets h l).heldCells = s.heldCells ∧
    (s.storeOctets h l).buf.handles.length = s.buf.handles.length ∧
    (s.storeOctets h l).handle? h = some { r with bodyLength := r.bodyLength + l.length } ∧
    (s.storeOctets h l).bodyOf h = s.bodyOf h ++ l ∧
    (∀ k, k ≠ h → (s.storeOctets h l).handle? k = s.handle? k) ∧
    ∀ k q, k ≠ h → s.handle? k = some q → Fits q → (s.storeOctets h l).bodyOf k = s.bodyOf k := by
  induction l generalizing s r with
  | nil => exact ⟨hs, rfl, rfl, by simpa [storeOctets] using hr, by simp [storeOctets], fun _ _ => rfl, fun _ _ _ _ _ => rfl⟩
  | cons b l ih =>
    simp only [List.length_cons] at hf
    obtain ⟨h1, h2, h3, h4⟩ := storeOctet_body hs b hr (by omega)
    obtain ⟨k1, k2, k3⟩ := storesOk_storeOctet hs h b
    obtain ⟨i1, i2, i3, i4, i5, i6, i7⟩ := ih k1 h1 (by simp; omega)
    refine ⟨i1, i2.trans k2, i3.trans k3, ?_, ?_, fun k hk => (i6 k hk).trans (h3 k hk), fun k q hk hq hfit => ?_⟩
    · simp only [storeOctets, i4, List.length_cons, Option.some.injEq, Handle.mk.injEq, and_true, true_and]
      omega
    · simp [storeOctets, i5, h2]
    · exact (i7 k q hk ((h3 k hk).trans hq) hfit).trans (h4 k q hk hq hfit)

/-- The storing of one octet with its claim (R6), when the claim is granted: the chain keeps exactly the cells the
body needs. -/
theorem appendOctet_body (hs : StoresOk s) {mgmt : Bool} {h : Nat} {r : Handle} {b : Byte}
    (hr : s.handle? h = some r) (hc : r.chain.length = cellsFor r.bodyLength) (ht : s.appendOctet mgmt h b = some t) :
    ∃ r', StoresOk t ∧ t.handle? h = some r' ∧ r'.bodyLength = r.bodyLength + 1 ∧
      r' = { r with chain := r'.chain, bodyLength := r'.bodyLength } ∧ r'.chain.length = cellsFor r'.bodyLength ∧
      t.bodyOf h = s.bodyOf h ++ [b] ∧ (∀ k, k ≠ h → t.handle? k = s.handle? k) ∧
      (∀ k q, k ≠ h → s.handle? k = some q → Fits q → t.bodyOf k = s.bodyOf k) ∧
      t.buf.handles.length = s.buf.handles.length ∧
      t.heldCells.length + r.chain.length = s.heldCells.length + r'.chain.length := by
  simp only [appendOctet, hr] at ht
  split at ht
  · rename_i hz
    split at ht
    · rename_i hg
      cases ht
      have hfree : 1 ≤ s.freeCells := by
        unfold cellGranted at hg
        split at hg <;> have hd := of_decide_eq_true hg
        · exact hd
        · unfold Config.reserveCells at hd; omega
      obtain ⟨k1, k2, k3, k4⟩ := storesOk_takeCell hs h hfree
      have hr1 := takeCell_handle?_self hr
      have hz' : r.bodyLength % 64 = 0 := hz
      have hlen := cellsFor_mul r.bodyLength
      obtain ⟨h1, h2, h3, h4⟩ := storeOctet_body k1 b hr1 (by simp [hc]; omega)
      obtain ⟨j1, j2, j3⟩ := storesOk_storeOctet k1 h b
      refine ⟨_, j1, h1, rfl, rfl, ?_, ?_, fun k hk => (h3 k hk).trans (takeCell_handle?_other hk), ?_, j3.trans k2, ?_⟩
      · simp [cellsFor_succ, hz', hc]
      · rw [h2]; congr 1
        rw [bodyOf_eq hr, bodyOf_eq hr1]
        unfold bodySlice
        apply List.map_congr_left
        intro k hk
        simp only [List.mem_range'_1] at hk
        rw [takeCell_octets, cellAddress_append (by omega)]
      · intro k q hk hq hfit
        have hq1 := (takeCell_handle?_other (s := s) hk).trans hq
        rw [h4 k q hk hq1 hfit]
        exact bodyOf_congr hq hq1 rfl rfl (takeCell_octets s h)
      · rw [j2, k3 r hr]; simp; omega
    · cases ht
  · rename_i hz
    cases ht
    have hz' : ¬ r.bodyLength % 64 = 0 := hz
    have hlen := cellsFor_mul r.bodyLength
    have hlt : r.bodyLength < 64 * r.chain.length := by
      rw [hc]; unfold cellsFor Config.cellSize at hlen ⊢; omega
    obtain ⟨h1, h2, h3, h4⟩ := storeOctet_body hs b hr hlt
    obtain ⟨j1, j2, j3⟩ := storesOk_storeOctet hs h b
    refine ⟨_, j1, h1, rfl, rfl, ?_, h2, h3, h4, j3, ?_⟩
    · simp [cellsFor_succ, hz', hc]
    · rw [j2]

/-- The storing of octets in order with management claims, when the free cells suffice. -/
theorem appendOctets_body (l : List Byte) {h : Nat} {s : State} {r : Handle} (hs : StoresOk s)
    (hr : s.handle? h = some r) (hc : r.chain.length = cellsFor r.bodyLength)
    (hfree : cellsFor (r.bodyLength + l.length) ≤ r.chain.length + s.freeCells) :
    ∃ t r', s.appendOctets true h l = (true, t) ∧ StoresOk t ∧ t.handle? h = some r' ∧
      r' = { r with chain := r'.chain, bodyLength := r.bodyLength + l.length } ∧
      r'.chain.length = cellsFor (r.bodyLength + l.length) ∧
      t.bodyOf h = s.bodyOf h ++ l ∧ (∀ k, k ≠ h → t.handle? k = s.handle? k) ∧
      (∀ k q, k ≠ h → s.handle? k = some q → Fits q → t.bodyOf k = s.bodyOf k) ∧
      t.buf.handles.length = s.buf.handles.length ∧
      t.heldCells.length + r.chain.length = s.heldCells.length + r'.chain.length := by
  induction l generalizing s r with
  | nil =>
    exact ⟨s, r, rfl, hs, hr, rfl, hc, by simp, fun _ _ => rfl, fun _ _ _ _ _ => rfl, rfl, rfl⟩
  | cons b l ih =>
    simp only [List.length_cons] at hfree
    have hg : ∃ t1, s.appendOctet true h b = some t1 := by
      cases he : s.appendOctet true h b with
      | some t1 => exact ⟨t1, rfl⟩
      | none =>
        obtain ⟨hz, hng⟩ := (appendOctet_none hr).1 he
        have hz' : r.bodyLength % 64 = 0 := hz
        simp only [cellGranted, ↓reduceIte, decide_eq_false_iff_not, Nat.not_le] at hng
        unfold cellsFor Config.cellSize at hfree hc
        omega
    obtain ⟨t1, ht1⟩ := hg
    obtain ⟨r1, i1, i2, i3, i4, i5, i6, i7, i8, i9, i10⟩ := appendOctet_body hs hr hc ht1
    have hle1 := heldCells_length_le i1
    have hle := heldCells_length_le hs
    obtain ⟨t2, r2, j1, j2, j3, j4, j5, j6, j7, j8, j9, j10⟩ := ih i1 i2 i5 (by
      rw [i3, Nat.add_right_comm]
      have h1 : r.bodyLength + l.length + 1 = r.bodyLength + (l.length + 1) := by omega
      rw [h1]
      simp only [freeCells, Config.cellCount] at hfree ⊢
      omega)
    have hlen : r1.bodyLength + l.length = r.bodyLength + (b :: l).length := by simp; omega
    refine ⟨t2, r2, ?_, j2, j3, ?_, ?_, ?_, fun k hk => (j7 k hk).trans (i7 k hk), ?_, j9.trans i9, by omega⟩
    · simp [appendOctets, ht1, j1]
    · rw [j4, i4, ← hlen]
    · rw [← hlen]; exact j5
    · rw [j6, i6]; simp
    · intro k q hk hq hfit
      rw [j8 k q hk ((i7 k hk).trans hq) hfit, i8 k q hk hq hfit]

/-- The taking of `n` cells for one handle at once (R9). -/
theorem takeCells_spec (n : Nat) {h : Nat} {s : State} {r : Handle} (hs : StoresOk s) (hr : s.handle? h = some r)
    (hfree : n ≤ s.freeCells) :
    ∃ cells, StoresOk (s.takeCells h n) ∧ cells.length = n ∧
      (s.takeCells h n).handle? h = some { r with chain := r.chain ++ cells } ∧
      (∀ k, k ≠ h → (s.takeCells h n).handle? k = s.handle? k) ∧
      (s.takeCells h n).buf.handles.length = s.buf.handles.length ∧
      (s.takeCells h n).heldCells.length = s.heldCells.length + n := by
  induction n generalizing s r with
  | zero => exact ⟨[], hs, rfl, by simpa [takeCells] using hr, fun _ _ => rfl, rfl, rfl⟩
  | succ n ih =>
    obtain ⟨k1, k2, k3, -⟩ := storesOk_takeCell hs h (by omega)
    have hl := k3 r hr
    have hle := heldCells_length_le k1
    obtain ⟨cells, i1, i2, i3, i4, i5, i6⟩ := ih k1 (takeCell_handle?_self hr) (by
      simp only [freeCells, Config.cellCount] at hfree ⊢; omega)
    refine ⟨s.lowestCell :: cells, i1, by simp [i2], by simpa [takeCells] using i3,
      fun k hk => (i4 k hk).trans (takeCell_handle?_other hk), i5.trans k2, ?_⟩
    simp only [takeCells, i6, hl]; omega

/-- A compound claim, when the stores suffice (R9): the lowest-numbered FREE handle takes a chain of the cells the
body needs, and nothing else changes. -/
theorem claimCompound_granted (hs : StoresOk s) (tag : Tag) {n : Nat} (hh : 1 ≤ s.freeHandles)
    (hc : cellsFor n ≤ s.freeCells) :
    ∃ u cells, s.claimCompound tag n = some (s.lowestHandle, u) ∧ StoresOk u ∧ cells.length = cellsFor n ∧
      s.handle? s.lowestHandle = none ∧
      u.handle? s.lowestHandle = some { Handle.granted .agentBuild tag .t0 none with chain := cells } ∧
      (∀ k, k ≠ s.lowestHandle → u.handle? k = s.handle? k) ∧ u.buf.octets = s.buf.octets ∧
      u.buf.handles.length = s.buf.handles.length + 1 ∧ u.heldCells.length = s.heldCells.length + cellsFor n := by
  obtain ⟨k1, k2, k3⟩ := storesOk_newHandle hs (r := Handle.granted .agentBuild tag .t0 none) rfl hh
  obtain ⟨cells, i1, i2, i3, i4, i5, i6⟩ := takeCells_spec (cellsFor n) k1 (setHandle_handle?_self ..) (by
    unfold freeCells at hc ⊢; rw [k2]; exact hc)
  refine ⟨_, cells, by unfold claimCompound; rw [if_pos ⟨hh, hc⟩], i1, i2, lowestHandle_free hh,
    by simpa [Handle.granted] using i3, fun k hk => (i4 k hk).trans (setHandle_handle?_other _ _ hk), by simp, i5.trans k3,
    by rw [i6, k2]⟩

/-- A compound claim is refused whole when the stores do not suffice (R9, R10). -/
theorem claimCompound_refused {tag : Tag} {n : Nat} (h : s.freeHandles < 1 ∨ s.freeCells < cellsFor n) :
    s.claimCompound tag n = none := by
  unfold claimCompound
  rw [if_neg (by omega)]

/-- A granted compound claim found the stores sufficient. -/
theorem claimCompound_some {tag : Tag} {n h : Nat} {u : State} (hc : s.claimCompound tag n = some (h, u)) :
    1 ≤ s.freeHandles ∧ cellsFor n ≤ s.freeCells ∧ h = s.lowestHandle := by
  unfold claimCompound at hc
  split at hc
  · rename_i h'; cases hc; exact ⟨h'.1, h'.2, rfl⟩
  · cases hc

end Sys2Proof.Machine.State
end

