-- ==== Sys2Proof/Laws/Checks.lean ====
section
/-! SUPPORT. A test of each invariant of Safety.lean on one state, and that a state that passes it meets the
invariant: how the witnesses of Tests/Slice0.lean show that a concrete state meets the hypotheses of a statement. -/

namespace Sys2Proof.Machine

/-- The four tiers cover every tier. -/
theorem Tier.forall_of_all {p : Tier → Bool} (h : Tier.all.all p = true) (t : Tier) : p t = true := by
  have := List.all_eq_true.mp h t (by cases t <;> simp [Tier.all])
  exact this

/-- A held handle, and a test of its record. -/
def State.handleTest (s : State) (h : Nat) (p : Handle → Bool) : Bool :=
  match s.handle? h with
  | none => false
  | some r => p r

theorem handleTest_spec {s : State} {h : Nat} {p : Handle → Bool} (ht : s.handleTest h p = true) :
    ∃ r, s.handle? h = some r ∧ p r = true := by
  unfold State.handleTest at ht
  split at ht
  · cases ht
  · rename_i r hr; exact ⟨r, hr, ht⟩

def storesTest (s : State) : Bool :=
  Table.risingFrom 0 s.buf.handles && s.buf.handles.all (fun e => decide (e.1 < 512)) && decide s.heldCells.Nodup &&
    s.heldCells.all (fun c => decide (c < 4096)) && Memory.wf s.buf.octets &&
    s.buf.octets.all fun e => decide (e.1 < 4096 * 64)

theorem storesOk_of_test {s : State} (h : storesTest s = true) : StoresOk s := by
  simpa [storesTest, StoresOk, and_assoc] using h

def chainsTest (s : State) : Bool := s.buf.handles.all fun e => decide (e.2.chain.length = cellsFor e.2.bodyLength)

theorem chainsFit_of_test {s : State} (h : chainsTest s = true) : ChainsFit s := by
  intro e he
  exact of_decide_eq_true (List.all_eq_true.mp h e he)

def holdersTest (s : State) : Bool :=
  decide (s.members.map fun m => m.1).Nodup && s.members.all (fun m => s.handleTest m.1 fun r => decide (r.holder = m.2)) &&
    s.buf.handles.all fun e => s.members.contains (e.1, e.2.holder)

theorem holdersOk_of_test {s : State} (h : holdersTest s = true) : HoldersOk s := by
  simp only [holdersTest, Bool.and_eq_true, decide_eq_true_eq] at h
  refine ⟨h.1.1, fun m hm => ?_, fun e he => ?_⟩
  · obtain ⟨r, hr, hp⟩ := handleTest_spec (List.all_eq_true.mp h.1.2 m hm)
    exact ⟨r, hr, of_decide_eq_true hp⟩
  · exact List.contains_iff_mem.mp (List.all_eq_true.mp h.2 e he)

/-- An OPEN context that holds a handle, a declared length and a tag. -/
def Assembly.complete (a : Assembly) : Bool := a.handle.isSome && a.declared.isSome && a.tag.isSome

def fragmentTest (s : State) (f : RxFragment) : Bool :=
  match f.mode, s.context f.tier with
  | .storing, .opened a =>
    (!(decide (f.kind = .first) && decide (f.header.length < 4)) || a.handle.isNone) &&
      (!(decide (f.kind = .first) && decide (2 ≤ f.header.length)) || a.declared.isSome) &&
      (!(decide (f.kind = .next) || decide (f.header.length = 4)) || a.complete)
  | .storing, _ => false
  | .tracking, x => x.isDiscarding
  | .ignored, x => decide (x = .closed)

def contextTest (s : State) (t : Tier) : Bool :=
  match s.context t with
  | .opened a =>
    (a.complete || match s.rx.fragment with
      | some f => decide (f.tier = t)
      | none => false) &&
      (match a.declared with
       | some d => decide (8 ≤ d ∧ d ≤ 2048 ∧ a.received ≤ d)
       | none => true) &&
      (a.handle.isSome || decide (a.received = 0)) &&
      (match a.handle with
       | none => true
       | some h => match s.handle? h with
         | none => true
         | some r => decide (r.holder = .reassembly t ∧ r.stream = none ∧ r.bodyLength = a.received ∧ a.tag = some r.tag))
  | _ => true

def receiverTest (s : State) : Bool :=
  (match s.rx.fragment with
   | none => true
   | some f => fragmentTest s f) && Tier.all.all (contextTest s)

theorem complete_spec {a : Assembly} (h : a.complete = true) : a.handle ≠ none ∧ a.declared ≠ none ∧ a.tag ≠ none := by
  simpa [Assembly.complete, Option.isSome_iff_ne_none, and_assoc] using h

theorem receiverOk_of_test {s : State} (h : receiverTest s = true) : ReceiverOk s := by
  simp only [receiverTest, Bool.and_eq_true] at h
  refine ⟨fun f hf => ?_, fun t a ha hn => ?_, fun t a ha => ?_⟩
  · have h1 := h.1
    rw [hf] at h1
    simp only [fragmentTest] at h1
    split at h1
    · rename_i a hm ha
      rw [hm]
      simp only [Bool.and_eq_true, Bool.or_eq_true, Bool.not_eq_true', Bool.and_eq_false_iff, decide_eq_false_iff_not,
        Option.isNone_iff_eq_none, Option.isSome_iff_ne_none] at h1
      refine ⟨a, ha, fun k l => ?_, fun k l => ?_, fun k => ?_⟩
      · rcases h1.1.1 with (x | x) | x
        · exact absurd k x
        · exact absurd l x
        · exact x
      · rcases h1.1.2 with (x | x) | x
        · exact absurd k x
        · exact absurd l x
        · exact x
      · rcases h1.2 with x | x
        · simp only [Bool.or_eq_false_iff, decide_eq_false_iff_not] at x
          rcases k with k | k
          · exact absurd k x.1
          · exact absurd k x.2
        · exact complete_spec x
    · cases h1
    · rename_i hm; rw [hm]; exact h1
    · rename_i hm; rw [hm]; exact of_decide_eq_true h1
  · have h2 := Tier.forall_of_all h.2 t
    simp only [contextTest, ha, Bool.and_eq_true, Bool.or_eq_true] at h2
    rcases h2.1.1.1 with x | x
    · exact complete_spec x
    · cases hf : s.rx.fragment with
      | none => simp [hf] at x
      | some f => exact absurd (by simpa [hf] using x) (hn f hf)
  · have h2 := Tier.forall_of_all h.2 t
    simp only [contextTest, ha, Bool.and_eq_true, Bool.or_eq_true, decide_eq_true_eq] at h2
    refine ⟨fun d hd => ?_, fun hh => ?_, fun k r hk hr => ?_⟩
    · have := h2.1.1.2
      rw [hd] at this
      simpa using this
    · rcases h2.1.2 with x | x
      · simp [hh] at x
      · exact x
    · have := h2.2
      rw [hk] at this
      simp only [hr] at this
      simpa using this

def transmitterTest (s : State) : Bool :=
  decide (s.tx.active.isSome = decide (s.tx.mode = .sending)) && decide (s.tx.fragment.isSome = s.tx.active.isSome) &&
    (!decide (s.tx.mode = .idle) || (Tier.all.all (fun t => decide ((s.queue t).members = [])) && decide (s.tx.stack = []))) &&
    decide ((s.tx.active.toList ++ s.tx.stack).Pairwise fun a b => (s.tierOf a).moreUrgent (s.tierOf b) = true) &&
    (match s.tx.active, s.tx.fragment with
     | some h, some f => match s.handle? h with
       | none => true
       | some r =>
         decide (f.tier = r.tier ∧ f.index = r.nextIndex ∧ f.carried ≤ r.sentOffset ∧
           (f.kind = .first → f.index = 0 ∧ f.carried = r.sentOffset ∧ r.resumeHold = false) ∧
           (f.kind = .next → r.resumeHold = decide (f.carried < 128)) ∧
           (f.closing = .last → r.sentOffset = r.bodyLength) ∧
           (f.closing = .more → 64 ≤ f.carried ∧ 64 ≤ r.bodyLength - r.sentOffset ∧ r.tier ≠ .t0 ∧ r.whole = false ∧
             r.resumeHold = false))
     | _, _ => true) &&
    s.tx.stack.all (fun h => match s.handle? h with
      | none => true
      | some r => decide (64 ≤ r.bodyLength - r.sentOffset ∧ r.tier ≠ .t0 ∧ r.whole = false ∧ r.resumeHold = false)) &&
    Tier.all.all (fun t => (s.queue t).members.all fun h => decide (s.tierOf h = t)) &&
    s.buf.handles.all fun e => decide (e.2.sentOffset ≤ e.2.bodyLength ∧ e.2.restartCount ≤ 2 ∧
      (e.2.holder ≠ .trunkActive → e.2.holder ≠ .trunkSuspended →
        e.2.sentOffset = 0 ∧ e.2.nextIndex = 0 ∧ e.2.resumeHold = false))

theorem transmitterOk_of_test {s : State} (h : transmitterTest s = true) : TransmitterOk s := by
  simp only [transmitterTest, Bool.and_eq_true] at h
  obtain ⟨⟨⟨⟨⟨⟨⟨h1, h2⟩, h3⟩, h4⟩, h5⟩, h6⟩, h7⟩, h8⟩ := h
  refine ⟨of_decide_eq_true h1, of_decide_eq_true h2, fun hm => ?_, of_decide_eq_true h4, fun k f r hk hf hr => ?_,
    fun k hk r hr => ?_, fun t k hk => ?_, fun e he => of_decide_eq_true (List.all_eq_true.mp h8 e he)⟩
  · simp only [hm, decide_true, Bool.not_true, Bool.false_or, Bool.and_eq_true, decide_eq_true_eq] at h3
    exact ⟨fun t => of_decide_eq_true (Tier.forall_of_all h3.1 t), h3.2⟩
  · simp only [hk, hf, hr] at h5
    exact of_decide_eq_true h5
  · have := List.all_eq_true.mp h6 k hk
    simp only [hr] at this
    exact of_decide_eq_true this
  · exact of_decide_eq_true (List.all_eq_true.mp (Tier.forall_of_all h7 t) k hk)

def tablesTest (s : State) : Bool :=
  Table.wf StreamEntry.invalid s.streams && s.streams.all (fun e => decide (e.1 < 256)) &&
    Table.wf AllotRecord.powerOn s.metering.records && s.metering.records.all (fun e => decide (e.1 < 1024)) &&
    Table.wf Runtime.unmetered s.metering.runtimes && s.metering.runtimes.all (fun e => decide (e.1 < 256)) &&
    Table.wf StreamTally.zero s.tallies.streams && s.tallies.streams.all fun e => decide (e.1 < 256)

theorem tablesOk_of_test {s : State} (h : tablesTest s = true) : TablesOk s := by
  simp only [tablesTest, Bool.and_eq_true, List.all_eq_true, decide_eq_true_eq] at h
  obtain ⟨⟨⟨⟨⟨⟨⟨h1, h2⟩, h3⟩, h4⟩, h5⟩, h6⟩, h7⟩, h8⟩ := h
  exact ⟨⟨h1, h2⟩, ⟨h3, h4⟩, ⟨h5, h6⟩, h7, h8⟩

def runtimeTest (e : StreamEntry) : Runtime → Bool
  | .unmetered => decide (e.valid = false ∨ e.chainHead = none)
  | .metered _ .unbounded => decide (e.valid = true ∧ e.chainHead ≠ none)
  | .metered _ (.octets n) => decide (e.valid = true ∧ e.chainHead ≠ none ∧ n < 16777216)
  | .exhausted _ => decide (e.valid = true ∧ e.chainHead ≠ none)

theorem runtimeAgrees_of_test {e : StreamEntry} {r : Runtime} (h : runtimeTest e r = true) : runtimeAgrees e r := by
  unfold runtimeTest at h
  split at h <;> simpa [runtimeAgrees] using h

def streamsTest (s : State) : Bool :=
  tablesTest s && decide (validTags s.streams).Nodup &&
    s.streams.all (fun e => decide (e.2.valid = true ∧ e.2.tag ≠ 0)) &&
    (List.range 256).all fun i => runtimeTest (s.stream i) (s.runtime i)

/-- Beyond a bound that no listed index reaches, a table reads its power-on value. -/
theorem get_beyond {α : Type} {d : α} {m : List (Nat × α)} {n i : Nat} (h : ∀ e ∈ m, e.1 < n) (hi : n ≤ i) :
    Table.get d m i = d := by
  have : Table.find m i = none := by
    induction m with
    | nil => rfl
    | cons e m ih =>
      obtain ⟨j, a⟩ := e
      have hj := h (j, a) (by simp)
      have : j ≠ i := by simp only at hj; omega
      simp only [Table.find, this, if_false]
      exact ih fun e he => h e (List.mem_cons_of_mem _ he)
  simp [Table.get, this]

theorem streamsOk_of_test {s : State} (h : streamsTest s = true) : StreamsOk s := by
  simp only [streamsTest, Bool.and_eq_true, List.all_eq_true, decide_eq_true_eq] at h
  obtain ⟨⟨⟨h1, h2⟩, h3⟩, h4⟩ := h
  have ht := tablesOk_of_test h1
  refine ⟨ht, h2, h3, fun i => ?_⟩
  by_cases hi : i < 256
  · exact runtimeAgrees_of_test (h4 i (List.mem_range.mpr hi))
  · have e1 : s.stream i = StreamEntry.invalid := get_beyond ht.1.2 (by omega)
    have e2 : s.runtime i = .unmetered := get_beyond ht.2.2.1.2 (by omega)
    rw [e1, e2]
    exact Or.inl rfl

def linkTest (s : State) : Bool :=
  decide ((s.line.los = true → s.line.link = .down) ∧ s.line.idleRun ≤ 15 ∧ s.line.invalidRun ≤ 3 ∧
    (s.line.link ≠ .aligning → s.line.idleRun = 0) ∧ (s.line.link ≠ .up → s.line.invalidRun = 0) ∧
    (s.line.link = .up → s.line.beenUp = true) ∧ (s.line.link = .up ↔ s.tx.mode ≠ .offline) ∧
    (s.tx.mode ≠ .sending → s.tx.active = none ∧ s.tx.fragment = none ∧ s.tx.stack = [])) &&
    (decide (s.line.link = .up) || (decide (s.rx.fragment = none) && Tier.all.all fun t => decide (s.context t = .closed)))

theorem linkOk_of_test {s : State} (h : linkTest s = true) : LinkOk s := by
  simp only [linkTest, Bool.and_eq_true, Bool.or_eq_true, decide_eq_true_eq] at h
  obtain ⟨⟨a, b, c, d, e, f, g, k⟩, h2⟩ := h
  refine ⟨a, b, c, d, e, f, g, k, fun hu => ?_⟩
  rcases h2 with h2 | h2
  · exact absurd h2 hu
  · exact ⟨h2.1, fun t => of_decide_eq_true (Tier.forall_of_all h2.2 t)⟩

def NoticeQueue.headSentTest (q : NoticeQueue) (most : Nat) : Bool :=
  match q.records with
  | { state := .sent _ k _, .. } :: _ => decide (1 ≤ k ∧ k ≤ most)
  | _ => false

theorem headSent_of_test {q : NoticeQueue} {most : Nat} (h : q.headSentTest most = true) : q.headSent most := by
  unfold NoticeQueue.headSentTest at h
  split at h
  · rename_i n seq k lost rest hr
    have := of_decide_eq_true h
    exact ⟨n, seq, k, lost, rest, hr, this.1, this.2⟩
  · cases h

def noticesTest (s : State) : Bool :=
  let queued := s.notices.records.all fun r => decide (r.state = .queued)
  decide (s.notices.records.length ≤ 16) && s.notices.records.tail.all (fun r => decide (r.state = .queued)) &&
    decide ((s.notices.records.filter fun r => !r.isSent).Pairwise fun a b => a.notice.sameMatter b.notice = false) &&
    decide (s.notices.lost ≤ 255) &&
    (match s.notices.timer with
     | .stopped => (s.notices.pending || queued) &&
       (!s.notices.pending || (decide (s.notices.records ≠ []) && (queued || s.notices.headSentTest 3)))
     | .running _ => s.notices.headSentTest 4 && !s.notices.pending && s.noticesOpen
     | .held _ => s.notices.headSentTest 4 && !s.notices.pending && !s.noticesOpen) &&
    !s.firstSendReady

theorem noticesOk_of_test {s : State} (h : noticesTest s = true) : NoticesOk s := by
  simp only [noticesTest, Bool.and_eq_true, List.all_eq_true, decide_eq_true_eq, Bool.not_eq_true'] at h
  obtain ⟨⟨⟨⟨⟨h1, h2⟩, h3⟩, h4⟩, h5⟩, h6⟩ := h
  refine ⟨h1, h2, h3, h4, ?_, h6⟩
  cases ht : s.notices.timer with
  | stopped =>
    simp only [ht, Bool.and_eq_true, Bool.or_eq_true, List.all_eq_true, decide_eq_true_eq, Bool.not_eq_true'] at h5
    refine ⟨fun hp => ?_, fun hp => ?_⟩
    · rcases h5.1 with x | x
      · rw [hp] at x; cases x
      · exact x
    · rcases h5.2 with x | ⟨x, y⟩
      · rw [hp] at x; cases x
      · exact ⟨x, y.imp id headSent_of_test⟩
  | running e =>
    simp only [ht, Bool.and_eq_true, Bool.not_eq_true'] at h5
    exact ⟨headSent_of_test h5.1.1, h5.1.2, h5.2⟩
  | held e =>
    simp only [ht, Bool.and_eq_true, Bool.not_eq_true'] at h5
    exact ⟨headSent_of_test h5.1.1, h5.1.2, h5.2⟩

def boundsTest (s : State) : Bool :=
  allPorts.all (fun p => decide ((s.port p).egress.length ≤ 32) && match (s.port p).ingress with
    | .receiving _ hold => decide (hold.length ≤ 4)
    | _ => true) &&
    Tier.all.all (fun t => decide (1 ≤ (s.queue t).limit ∧ (s.queue t).limit ≤ 511)) &&
    (match s.rx.fragment with
     | some f => decide (f.header.length ≤ 4 ∧ f.hold.length ≤ 6)
     | none => true) && decide (s.agent.inbox.length ≤ 4)

theorem boundsOk_of_test {s : State} (h : boundsTest s = true) : BoundsOk s := by
  simp only [boundsTest, Bool.and_eq_true, decide_eq_true_eq] at h
  obtain ⟨⟨⟨h1, h2⟩, h3⟩, h4⟩ := h
  refine ⟨fun p => ?_, fun t => of_decide_eq_true (Tier.forall_of_all h2 t), fun f hf => ?_, h4⟩
  · have hp := List.all_eq_true.mp h1 p (by revert p; decide)
    simp only [Bool.and_eq_true, decide_eq_true_eq] at hp
    refine ⟨hp.1, fun k hold hk => ?_⟩
    have := hp.2
    rw [hk] at this
    simpa using this
  · rw [hf] at h3
    simpa using h3

def headsTest (s : State) (x : Instr) (h : ReqHeader) (n k : Nat) (behind : List Nat) : Bool :=
  holdersTest s && chainsTest s && decide (s.agent.inbox = k :: behind ∧ decodeRequest (s.bodyOf k) = requestOf x ∧
    word16At (s.bodyOf k) 2 = h.replyTag ∧ 1 ≤ s.freeHandles ∧ cellsFor n ≤ s.freeCells)

theorem heads_of_test {s : State} {x : Instr} {h : ReqHeader} {n k : Nat} {behind : List Nat}
    (ht : headsTest s x h n k behind = true) : s.Heads x h n k behind := by
  simp only [headsTest, Bool.and_eq_true, decide_eq_true_eq] at ht
  exact ⟨holdersOk_of_test ht.1.1, chainsFit_of_test ht.1.2, ht.2⟩

/-- The conditions of a request that is executed at a turn, with a reply of `n` octets. -/
def answersTest (s : State) (w : Turn) (x : Instr) (h : ReqHeader) (n : Nat) : Bool :=
  storesTest s && decide (s.releaseEvents = 0) &&
    (match s.agent.records.get h.controller with
     | none => true
     | some r => decide (r.number ≠ h.number)) &&
    match w with
    | .arrival => decide ((s.bodyOfRequest x).length ≤ 2048 ∧ s.agent.state = .idle ∧ s.agent.inbox = [] ∧
        2 ≤ s.freeHandles ∧ cellsFor (s.bodyOfRequest x).length + cellsFor n ≤ s.freeCells)
    | .attempt k behind => decide (s.agent.state = .idle) && headsTest s x h n k behind
    | .retry k behind => decide (s.agent.state = .waiting) && headsTest s x h n k behind

theorem answers_of_test {s : State} {w : Turn} {x : Instr} {h : ReqHeader} {n : Nat}
    (ht : answersTest s w x h n = true) : s.Answers w x h n := by
  simp only [answersTest, Bool.and_eq_true, decide_eq_true_eq] at ht
  obtain ⟨⟨⟨h1, h2⟩, h3⟩, h4⟩ := ht
  refine ⟨storesOk_of_test h1, h2, fun r hr => ?_, ?_⟩
  · rw [hr] at h3
    exact of_decide_eq_true h3
  · cases w with
    | arrival => exact of_decide_eq_true h4
    | attempt k behind =>
      simp only [Bool.and_eq_true, decide_eq_true_eq] at h4
      exact ⟨h4.1, heads_of_test h4.2⟩
    | retry k behind =>
      simp only [Bool.and_eq_true, decide_eq_true_eq] at h4
      exact ⟨h4.1, heads_of_test h4.2⟩

/-- Every invariant together. -/
def everyTest (s : State) : Bool :=
  storesTest s && chainsTest s && holdersTest s && receiverTest s && transmitterTest s && streamsTest s && linkTest s &&
    noticesTest s && boundsTest s

/-- Every invariant of Safety.lean. -/
def EveryInvariant (s : State) : Prop :=
  StoresOk s ∧ ChainsFit s ∧ HoldersOk s ∧ ReceiverOk s ∧ TransmitterOk s ∧ StreamsOk s ∧ LinkOk s ∧ NoticesOk s ∧
    BoundsOk s

theorem everyInvariant_of_test {s : State} (h : everyTest s = true) : EveryInvariant s := by
  simp only [everyTest, Bool.and_eq_true] at h
  obtain ⟨⟨⟨⟨⟨⟨⟨⟨h1, h2⟩, h3⟩, h4⟩, h5⟩, h6⟩, h7⟩, h8⟩, h9⟩ := h
  exact ⟨storesOk_of_test h1, chainsFit_of_test h2, holdersOk_of_test h3, receiverOk_of_test h4,
    transmitterOk_of_test h5, streamsOk_of_test h6, linkOk_of_test h7, noticesOk_of_test h8, boundsOk_of_test h9⟩

end Sys2Proof.Machine
end

