-- ==== Sys2Proof/Laws/Discards.lean ====
section
/-! SUPPORT. What a discard does, in the terms of Safety.lean (R189, R190), and how the frames of Safety.lean carry over
states that agree on the blocks they speak of. -/

namespace Sys2Proof.Machine

variable {s t u : State}

theorem ChangesOnly.refl (bs : List Block) (s : State) : ChangesOnly bs s s := by simp [ChangesOnly]

theorem or_eq_trans {α : Type} {p : Prop} {x y z : α} (h : p ∨ y = x) (g : p ∨ z = y) : p ∨ z = x := by
  rcases h with h | h
  · exact .inl h
  · exact g.imp id fun g => g.trans h

theorem ChangesOnly.trans {bs : List Block} (h : ChangesOnly bs s t) (g : ChangesOnly bs t u) : ChangesOnly bs s u := by
  obtain ⟨h1, h2, h3, h4, h5, h6, h7, h8, h9, h10, h11, h12, h13, h14⟩ := h
  obtain ⟨g1, g2, g3, g4, g5, g6, g7, g8, g9, g10, g11, g12, g13, g14⟩ := g
  exact ⟨or_eq_trans h1 g1, or_eq_trans h2 g2, or_eq_trans h3 g3, or_eq_trans h4 g4, or_eq_trans h5 g5,
    or_eq_trans h6 g6, or_eq_trans h7 g7, or_eq_trans h8 g8, or_eq_trans h9 g9, or_eq_trans h10 g10,
    or_eq_trans h11 g11, or_eq_trans h12 g12, or_eq_trans h13 g13, or_eq_trans h14 g14⟩

/-- A count of discards says the same of a state with the same tallies before it. -/
theorem Counted.of_eq {c : Cause} {o : Option StreamIx} (h : Counted t u c o) (ht : t.tallies = s.tallies) :
    Counted s u c o := by
  have hd : ∀ d, t.discardCount d = s.discardCount d := fun d => State.discardCount_of_tallies ht d
  have hi : ∀ i, t.tally i = s.tally i := fun i => State.tally_of_tallies ht i
  simpa only [Counted, hd, hi] using h

/-- A discard says the same of a state with the same stores, tallies and release events before it. -/
theorem Discarded.of_eq {c : Cause} {h : Nat} (hd : Discarded t u c h) (hb : t.buf = s.buf) (ht : t.tallies = s.tallies)
    (hr : t.releaseEvents = s.releaseEvents) : Discarded s u c h := by
  obtain ⟨h1, h2, h3, h4, h5⟩ := hd
  refine ⟨h1, fun k hk => (h2 k hk).trans (State.handle?_of_buf hb k), fun a => (h3 a).trans (by rw [hb]), ?_, by rw [h5, hr]⟩
  have : t.streamOf h = s.streamOf h := by simp [State.streamOf, State.handle?_of_buf hb]
  exact this ▸ h4.of_eq ht

namespace State

theorem counted_countDiscard (c : Cause) (o : Option StreamIx) : Counted s (s.countDiscard c o) c o :=
  countDiscard_spec s c o

/-- The discard of a held frame (R189). -/
theorem discarded_discard (c : Cause) (h : Nat) : Discarded s (s.discard c h) c h := by
  refine ⟨?_, ?_, ?_, ?_, ?_⟩
  · simp [discard, discardQuiet, handle?_of_buf (s := s.freeHandle h)]
  · intro k hk
    have : k ≠ h := by simpa using hk
    simp [discard, discardQuiet, handle?_of_buf (s := s.freeHandle h), freeHandle_handle?_other s this]
  · intro a
    simp [discard, discardQuiet]
  · exact (counted_countDiscard (s := s.freeHandle h) c (s.streamOf h)).of_eq rfl
  · simp [discard, discardQuiet, raiseRelease]

theorem changesOnly_discard (c : Cause) (h : Nat) : ChangesOnly [.buf, .tallies, .releaseEvents] s (s.discard c h) := by
  simp [ChangesOnly]

theorem changesOnly_countDiscard (c : Cause) (o : Option StreamIx) : ChangesOnly [.tallies] s (s.countDiscard c o) := by
  simp [ChangesOnly]

/-- An ingress that is set (R40). -/
theorem setsIngress_setIngress (p : Port) (v : Ingress) : SetsIngress p v s (s.setIngress p v) :=
  ⟨setIngress_port_self .., fun _ h => setIngress_port_other s v h⟩

end State
end Sys2Proof.Machine
end

