-- ==== Sys2Proof/Laws/Octets.lean ====
section
/-! SUPPORT. Fields of more than one octet read back as they were written, and the codes of named values (R199) read
back as the value. -/

namespace Sys2Proof.Machine

@[simp] theorem word16_octets2 (x : BitVec 16) : word16 (x.extractLsb' 8 8) (x.extractLsb' 0 8) = x := by
  apply BitVec.eq_of_getLsbD_eq
  intro i hi
  simp only [word16, BitVec.getLsbD_append, BitVec.getLsbD_extractLsb']
  by_cases h : i < 8
  · simp [h]
  · have : i - 8 < 8 := by omega
    have e : 8 + (i - 8) = i := by omega
    simp [h, this, e]

@[simp] theorem word24_octets3 (x : BitVec 24) :
    word24 (x.extractLsb' 16 8) (x.extractLsb' 8 8) (x.extractLsb' 0 8) = x := by
  apply BitVec.eq_of_getLsbD_eq
  intro i hi
  simp only [word24, BitVec.getLsbD_append, BitVec.getLsbD_extractLsb']
  by_cases h : i < 8
  · simp [h]
  · by_cases h' : i - 8 < 8
    · have e : 8 + (i - 8) = i := by omega
      simp [h, h', e]
    · have e : 16 + (i - 8 - 8) = i := by omega
      have h2 : i - 8 - 8 < 8 := by omega
      simp [h, h', e, h2]

@[simp] theorem word32_octets4 (x : BitVec 32) :
    word32 (x.extractLsb' 24 8) (x.extractLsb' 16 8) (x.extractLsb' 8 8) (x.extractLsb' 0 8) = x := by
  apply BitVec.eq_of_getLsbD_eq
  intro i hi
  simp only [word32, BitVec.getLsbD_append, BitVec.getLsbD_extractLsb']
  by_cases h : i < 8
  · simp [h]
  · by_cases h' : i - 8 < 8
    · have e : 8 + (i - 8) = i := by omega
      simp [h, h', e]
    · by_cases h2 : i - 8 - 8 < 8
      · have e : 16 + (i - 8 - 8) = i := by omega
        simp [h, h', h2, e]
      · have e : 24 + (i - 8 - 8 - 8) = i := by omega
        have h3 : i - 8 - 8 - 8 < 8 := by omega
        simp [h, h', h2, h3, e]

theorem octets2_eq (x : BitVec 16) : octets2 x = [x.extractLsb' 8 8, x.extractLsb' 0 8] := rfl

@[simp] theorem octets2_length (x : BitVec 16) : (octets2 x).length = 2 := rfl
@[simp] theorem octets3_length (x : BitVec 24) : (octets3 x).length = 3 := rfl
@[simp] theorem octets4_length (x : BitVec 32) : (octets4 x).length = 4 := rfl
@[simp] theorem octets6_length (x : BitVec 48) : (octets6 x).length = 6 := rfl
@[simp] theorem octets8_length (x : BitVec 64) : (octets8 x).length = 8 := rfl
@[simp] theorem count2_length (n : Nat) : (count2 n).length = 2 := rfl

@[simp] theorem StreamWords.octets_length (e : StreamWords) : (StreamWords.octets e).length = 14 := rfl
@[simp] theorem AllotWords.octets_length (e : AllotWords) : (AllotWords.octets e).length = 6 := rfl
@[simp] theorem TallyWords.octets_length (e : TallyWords) : (TallyWords.octets e).length = 16 := rfl
@[simp] theorem TierWords.octets_length (e : TierWords) : (TierWords.octets e).length = 4 := rfl
@[simp] theorem PortWords.octets_length (e : PortWords) : (PortWords.octets e).length = 3 := rfl
@[simp] theorem PartWords.octets_length (e : PartWords) : (PartWords.octets e).length = 7 := rfl

@[simp] theorem tierOfCode_tierCode (t : Tier) : tierOfCode (tierCode t) = some t := by cases t <;> rfl

@[simp] theorem tableOfCode_tableCode (t : TableName) : tableOfCode (tableCode t) = some t := by cases t <;> rfl

theorem flatMap_length_const {α β : Type} {f : α → List β} {n : Nat} (h : ∀ a, (f a).length = n) (l : List α) :
    (l.flatMap f).length = l.length * n := by
  induction l with
  | nil => simp
  | cons a l ih => simp [h, ih]; ring

/-- The entries of a WRITE are read back one by one. -/
theorem chunks_flatMap {α : Type} {f : α → List Byte} {size : Nat} (h : ∀ a, (f a).length = size) (l : List α) :
    chunks size l.length (l.flatMap f) = l.map f := by
  induction l with
  | nil => rfl
  | cons a l ih =>
    simp only [List.length_cons, chunks, List.flatMap_cons, List.map_cons]
    rw [List.take_left' (h a), List.drop_left' (h a), ih]

end Sys2Proof.Machine
end

