-- ==== Sys2Proof/Laws/Requests.lean ====
section
/-! SUPPORT. How a request is answered, at an attempt on the head of the inbox or within the event that delivers it: the
request's handle joins the empty inbox with its body stored, the reply's compound claim is granted, and the answer
follows (R139, R149 to R151). -/

namespace Sys2Proof.Machine.State

variable {s t : State}

/-- The judgement of a request reads the agent's window and records, the tables and the notices alone. -/
theorem verdict_congr (body : List Byte) (hr : t.agent.records = s.agent.records) (hw : t.agent.window = s.agent.window)
    (hm : t.metering = s.metering) (hst : t.streams = s.streams) (hn : t.notices = s.notices) :
    t.verdict body = s.verdict body := by
  have hj : ∀ q, t.judge q = s.judge q := by
    intro q
    have hv : ∀ tb i c d, t.validate tb i c d = s.validate tb i c d := by
      intro tb i c d
      simp only [validate, hst]
    have hrec : ∀ r, t.record r = s.record r := fun r => record_of_metering hm r
    have hak : ∀ x, t.acknowledged x = s.acknowledged x := by
      intro x
      simp only [acknowledged, hn]
    unfold judge
    split <;> simp only [hw, hv, hrec, hak]
  simp only [verdict, hr, hj]

/-- A claim for the request's own handle, and its body stored (R9, R6). -/
theorem deliver_stored (hs : StoresOk s) {tier : Tier} {body : List Byte} (hlen : 8 ≤ body.length ∧ body.length ≤ 2048)
    (hh : 1 ≤ s.freeHandles) (hc : cellsFor body.length ≤ s.freeCells) :
    ∃ u r, s.deliverRequest tier body = u.offerInbox s.lowestHandle ∧ StoresOk u ∧ s.handle? s.lowestHandle = none ∧
      u.handle? s.lowestHandle = some r ∧ Fits r ∧ u.bodyOf s.lowestHandle = body ∧
      (∀ k, k ≠ s.lowestHandle → u.handle? k = s.handle? k) ∧
      (∀ k q, k ≠ s.lowestHandle → s.handle? k = some q → Fits q → u.bodyOf k = s.bodyOf k) ∧
      u.buf.handles.length = s.buf.handles.length + 1 ∧
      u.heldCells.length = s.heldCells.length + cellsFor body.length ∧ ChangesOnly [.buf] s u := by
  have hnot : ¬ (body.length < Config.minBody ∨ Config.maxBody < body.length) := by
    unfold Config.minBody Config.maxBody; omega
  obtain ⟨k1, k2, k3⟩ := storesOk_newHandle hs
    (r := Handle.granted (.reassembly tier) (word16At body 0) tier none) rfl hh
  have hclaim : s.claimHandle true (.reassembly tier) (word16At body 0) tier none =
      some (s.lowestHandle, s.setHandle s.lowestHandle (Handle.granted (.reassembly tier) (word16At body 0) tier none)) := by
    unfold claimHandle handleGranted
    simp [hh]
  obtain ⟨u, r', j1, j2, j3, j4, j5, j6, j7, j8, j9, j10⟩ := appendOctets_body body k1
    (setHandle_handle?_self s s.lowestHandle (Handle.granted (.reassembly tier) (word16At body 0) tier none))
    (by simp [Handle.granted, cellsFor, Config.cellSize]) (by
      have : freeCells (s.setHandle s.lowestHandle (Handle.granted (.reassembly tier) (word16At body 0) tier none)) =
          s.freeCells := by unfold freeCells; rw [k2]
      simp only [Handle.granted, Nat.zero_add, List.length_nil] at this ⊢
      rw [this]; exact hc)
  simp only [Handle.granted, Nat.zero_add] at j4 j5 j10
  refine ⟨u, r', ?_, j2, lowestHandle_free hh, j3, ?_, ?_, fun k hk => (j7 k hk).trans (setHandle_handle?_other _ _ hk), ?_,
    by omega, ?_, ?_⟩
  · unfold deliverRequest
    rw [if_neg hnot, hclaim]
    simp only [j1]
  · unfold Fits
    rw [j5, j4]
    exact cellsFor_mul _
  · rw [j6, bodyOf_eq (setHandle_handle?_self ..)]
    simp [Handle.granted, bodySlice]
  · intro k q hk hq hfit
    have hq1 := (setHandle_handle?_other s (Handle.granted (.reassembly tier) (word16At body 0) tier none) hk).trans hq
    rw [j8 k q hk hq1 hfit]
    exact bodyOf_congr hq hq1 rfl rfl rfl
  · simp only [Handle.granted] at k2
    rw [k2, j5] at j10; simpa using j10
  · have e : ∀ (x : State × State), x = (s.setHandle s.lowestHandle
        (Handle.granted (.reassembly tier) (word16At body 0) tier none), u) → u = (x.1.appendOctets true s.lowestHandle body).2 := by
      rintro _ rfl; simp [j1]
    have hu := e _ rfl
    simp only [ChangesOnly]
    rw [hu]
    simp

/-- The head of the inbox is held, by the inbox (R3, R148). -/
theorem heads_held {x : Instr} {h : ReqHeader} {n k : Nat} {behind : List Nat} (hd : s.Heads x h n k behind) :
    ∃ q, s.handle? k = some q ∧ q.holder = .inbox := by
  obtain ⟨ho, -, hin, -⟩ := hd
  exact ho.2.1 (k, .inbox) (by simp [members, hin])

/-- A head request that its controller has not numbered before is executed, and judged by its kind (R150, R156). -/
theorem heads_fresh {x : Instr} {h : ReqHeader} {n k : Nat} {behind : List Nat} {q : Request}
    (hd : s.Heads x h n k behind) (hx : requestOf x = some q)
    (hr : ∀ r, s.agent.records.get q.controller = some r → r.number ≠ q.number) :
    s.verdict (s.bodyOf k) = .fresh q (s.judge q) := by
  obtain ⟨-, -, -, hb, -⟩ := hd
  simp only [verdict, hb, hx]
  split
  · rename_i r hc
    simp [hr r hc]
  · rfl

/-- An attempt on the head of the inbox when the stores hold its reply: what the state is when the answer (R151)
begins. -/
theorem attempt_answers (hs : StoresOk s) {k : Nat} {behind : List Nat} {q : Handle} (hin : s.agent.inbox = k :: behind)
    (hk : s.handle? k = some q) (hh : 1 ≤ s.freeHandles)
    (hc : cellsFor (s.verdict (s.bodyOf k)).replyLength ≤ s.freeCells) :
    ∃ u r cells, s.attempt = u.answer k r (s.bodyOf k) (s.verdict (s.bodyOf k)) ∧ StoresOk u ∧ k ≠ r ∧
      s.handle? r = none ∧
      u.handle? r = some { Handle.granted .agentBuild (word16At (s.bodyOf k) 2) .t0 none with chain := cells } ∧
      cells.length = cellsFor (s.verdict (s.bodyOf k)).replyLength ∧ (∀ j, j ≠ r → u.handle? j = s.handle? j) ∧
      u.buf.octets = s.buf.octets ∧ u.buf.handles.length = s.buf.handles.length + 1 ∧
      u.heldCells.length = s.heldCells.length + cellsFor (s.verdict (s.bodyOf k)).replyLength ∧ ChangesOnly [.buf] s u := by
  obtain ⟨x, cells, n1, n2, n3, n4, n5, n6, n7, n8, n9⟩ := claimCompound_granted hs (word16At (s.bodyOf k) 2) hh hc
  have hne : k ≠ s.lowestHandle := by
    rintro rfl
    rw [hk] at n4
    cases n4
  refine ⟨x, s.lowestHandle, cells, ?_, n2, hne, n4, n5, n3, n6, n7, n8, n9, ?_⟩
  · unfold attempt
    rw [hin]
    simp only [n1]
  · simp only [ChangesOnly, List.mem_singleton, reduceCtorEq, false_or, true_or, true_and]
    rw [claimCompound_streams n1, claimCompound_metering n1, claimCompound_ports n1, claimCompound_queues n1,
      claimCompound_tx n1, claimCompound_line n1, claimCompound_rx n1, claimCompound_agent n1, claimCompound_part n1,
      claimCompound_notices n1, claimCompound_tallies n1, claimCompound_releaseEvents n1, claimCompound_pending n1]
    simp

/-- A request delivered to an IDLE agent with an empty inbox is answered at once when the stores hold its reply: what
the state is when the answer (R151) begins. -/
theorem deliver_answers (hs : StoresOk s) {tier : Tier} {body : List Byte}
    (hlen : 8 ≤ body.length ∧ body.length ≤ 2048) (hidle : s.agent.state = .idle) (hin : s.agent.inbox = [])
    (hh : 2 ≤ s.freeHandles) (hc : cellsFor body.length + cellsFor (s.verdict body).replyLength ≤ s.freeCells) :
    ∃ u h r q cells, s.deliverRequest tier body = u.answer h r body (s.verdict body) ∧ StoresOk u ∧ h ≠ r ∧
      s.handle? h = none ∧ s.handle? r = none ∧ u.handle? h = some q ∧ Fits q ∧ u.bodyOf h = body ∧
      u.handle? r = some { Handle.granted .agentBuild (word16At body 2) .t0 none with chain := cells } ∧
      cells.length = cellsFor (s.verdict body).replyLength ∧
      (∀ k, k ≠ h → k ≠ r → u.handle? k = s.handle? k) ∧
      (∀ k x, k ≠ h → k ≠ r → s.handle? k = some x → Fits x → u.bodyOf k = s.bodyOf k) ∧
      u.buf.handles.length = s.buf.handles.length + 2 ∧
      u.heldCells.length = s.heldCells.length + cellsFor body.length + cellsFor (s.verdict body).replyLength ∧
      u.agent = { s.agent with inbox := [h] } ∧ ChangesOnly [.buf, .agent] s u := by
  obtain ⟨u, q, i1, i2, i3, i4, i5, i6, i7, i8, i9, i10, i11⟩ := deliver_stored hs (tier := tier) hlen (by omega)
    (by omega)
  obtain ⟨-, c2, c3, c4, c5, c6, c7, c8, c9, c10, c11, c12, c13, c14⟩ := i11
  simp only [List.mem_singleton, reduceCtorEq, false_or] at c2 c3 c4 c5 c6 c7 c8 c9 c10 c11 c12 c13 c14
  have hle := heldCells_length_le i2
  have hlh := handles_length_le i2
  obtain ⟨m1, m2, m3⟩ := storesOk_setHolder i2 s.lowestHandle .inbox
  let w := (u.setHolder s.lowestHandle .inbox).withAgent { u.agent with inbox := u.agent.inbox ++ [s.lowestHandle] }
  have hw : StoresOk w := storesOk_of_buf (s := u.setHolder s.lowestHandle .inbox) m1 rfl
  have hwh : w.handle? s.lowestHandle = some { q with holder := .inbox } := modHandle_handle?_self u _ i4
  have hwb : w.bodyOf s.lowestHandle = body :=
    (bodyOf_congr i4 hwh rfl rfl (by simp [w])).trans i6
  have hoffer : u.offerInbox s.lowestHandle = w.attempt := by
    unfold offerInbox
    rw [c9, hin, hidle]
    simp [Config.inboxSize, w, c9, hin]
  have hwi : w.agent.inbox = [s.lowestHandle] := by simp [w, c9, hin]
  have hv : w.verdict body = s.verdict body := by
    apply verdict_congr <;> simp [w, c2, c3, c9, c11]
  have hwfh : 1 ≤ w.freeHandles := by
    have : w.buf.handles.length = s.buf.handles.length + 1 := by
      show (u.setHolder s.lowestHandle .inbox).buf.handles.length = _
      rw [m3, i9]
    simp only [freeHandles, Config.handleCount] at hh ⊢; omega
  have hwhc : w.heldCells.length = s.heldCells.length + cellsFor body.length := by
    show (u.setHolder s.lowestHandle .inbox).heldCells.length = _
    rw [m2, i10]
  have hwfc : cellsFor (s.verdict body).replyLength ≤ w.freeCells := by
    simp only [freeCells, Config.cellCount] at hc ⊢; omega
  obtain ⟨x, r, cells, n1, n2, hne, n4, n5, n3, n6, n7, n8, n9, n10⟩ :=
    attempt_answers hw hwi hwh hwfh (by rw [hwb, hv]; exact hwfc)
  rw [hwb, hv] at n1 n3 n9
  rw [hwb] at n5
  obtain ⟨-, b2, b3, b4, b5, b6, b7, b8, b9, b10, b11, b12, b13, b14⟩ := n10
  simp only [List.mem_singleton, reduceCtorEq, false_or] at b2 b3 b4 b5 b6 b7 b8 b9 b10 b11 b12 b13 b14
  refine ⟨x, s.lowestHandle, r, _, cells, i1.trans (hoffer.trans n1), n2, hne, i3, ?_, (n6 _ hne).trans hwh, i5, ?_, n5, n3,
    ?_, ?_, ?_, by rw [n9, hwhc], ?_, ?_⟩
  · exact (i7 _ hne.symm).symm.trans ((modHandle_handle?_other u _ hne.symm).symm.trans n4)
  · exact (bodyOf_congr hwh ((n6 _ hne).trans hwh) rfl rfl n7).trans hwb
  · intro k hk hk'
    exact (n6 k hk').trans ((modHandle_handle?_other u _ hk).trans (i7 k hk))
  · intro k y hk hk' hy hfit
    have h1 : u.handle? k = some y := (i7 k hk).trans hy
    have h2 : w.handle? k = some y := (modHandle_handle?_other u _ hk).trans h1
    rw [bodyOf_congr h2 ((n6 k hk').trans h2) rfl rfl n7, bodyOf_congr h1 h2 rfl rfl (by simp [w]), i8 k y hk hy hfit]
  · rw [n8]
    show (u.setHolder s.lowestHandle .inbox).buf.handles.length + 1 = _
    rw [m3, i9]
  · rw [b9]
    simp [w, c9, hin]
  · simp only [ChangesOnly, List.mem_cons, reduceCtorEq, List.not_mem_nil, or_false, false_or, or_true, true_or, true_and]
    rw [b2, b3, b4, b5, b6, b7, b8, b10, b11, b12, b13, b14]
    simp [w, c2, c3, c4, c5, c6, c7, c8, c10, c11, c12, c13, c14]

/-- Where no release event has been raised, taking the release events changes nothing (R13). -/
theorem settle_none (h : s.releaseEvents = 0) : s.settle = s := by
  have : s.withReleaseEvents 0 = s := by rw [← h]; exact withReleaseEvents_self s
  simp [settle, h, releaseEventsTaken, this]

/-- A release event that finds no waiting claimer has no effect (R13). -/
theorem releaseEvent_idle (ha : s.agent.state = .idle) (hp : s.notices.pending = false) : s.releaseEvent = s := by
  simp [releaseEvent, noticeRetry, ha, hp]

/-- Release events that find no waiting claimer have no effect (R13). -/
theorem settle_idle (ha : s.agent.state = .idle) (hp : s.notices.pending = false) :
    s.settle = s.withReleaseEvents 0 := by
  have key : ∀ n (u : State), u.agent.state = .idle → u.notices.pending = false → u.releaseEventsTaken n = u := by
    intro n
    induction n with
    | zero => intro u _ _; rfl
    | succ n ih =>
      intro u h1 h2
      simp [releaseEventsTaken, releaseEvent_idle h1 h2, ih u h1 h2]
  exact key _ _ (by simpa using ha) (by simpa using hp)

end Sys2Proof.Machine.State
end

