-- ==== Sys2Proof/Tests/Slice0.lean ====
section
/-! SUPPORT. Tests: ill-formed terms that WellFormed refuses, the checks and codes of chapter 11 on words written out
by hand, one step of every command with the outcome the manual gives, and, for each statement of Obligations.lean that
has hypotheses, a witness that meets them, clause by clause, at the boundaries. -/

namespace Sys2Proof.Tests

open Sys2Proof Sys2Proof.Machine

-- One theorem after another: each waits for the kernel's evaluation of the ones before it.
set_option Elab.async false

/-! ## Small states -/

/-- Whether a command answers a next state with a property. -/
def after (x : Instr) (s : State) (p : State → Bool) : Bool :=
  match exec x s with
  | .next t => p t
  | _ => false

/-- The link UP, the transmitter IDLE. -/
def up : State :=
  (State.reset.withLine { State.reset.line with link := .up, beenUp := true }).withTx
    { mode := .idle, active := none, fragment := none, stack := [] }

/-- A held frame at its beginning. -/
def frame (holder : Holder) (tag : Tag) (stream : Option StreamIx) (tier : Tier) (len : Nat) (chain : List Nat) : Handle :=
  { holder := holder, tag := tag, stream := stream, tier := tier, bodyLength := len, chain := chain, sentOffset := 0
    nextIndex := 0, restartCount := 0, whole := false, resumeHold := false }

/-- The octets of a body from the first position of a cell on, none of them zero. -/
def octetsAt (cell : Nat) (l : List Byte) : List Host.Cell :=
  (List.range l.length).map fun k => (64 * cell + k, l.getD k 0)

def body8 : List Byte := [0x12, 0x34, 1, 2, 3, 4, 5, 6]
def check8 : List Byte := [0x0e, 0x3f, 0x08, 0x2b]

def withFrames (s : State) (l : List (Nat × Handle)) (octets : List Host.Cell) : State :=
  s.withBuf { handles := l, octets := octets }

/-- `n` frames of no octets, H0 on, in the T3 queue. -/
def filled (s : State) (n : Nat) : State :=
  (withFrames s ((List.range n).map fun h => (h, frame (.tierQueue .t3) 0 none .t3 0 [])) []).setMembers .t3 (List.range n)

/-- One frame H0 in the T3 queue that fills cells 0 to `n - 1`, and others behind it. -/
def crowded (s : State) (n : Nat) (l : List (Nat × Handle)) (octets : List Host.Cell) : State :=
  (withFrames s ((0, frame (.tierQueue .t3) 0 none .t3 (64 * n) (List.range n)) :: l) octets).setMembers .t3 [0]

def smallTest (n : Nat) (l : List (Nat × Handle)) (octets : List Host.Cell) : Bool :=
  Table.risingFrom 1 l && l.all (fun e => decide (e.1 < 512)) &&
    decide (l.flatMap fun e => e.2.chain).Nodup && (l.flatMap fun e => e.2.chain).all (fun c => decide (n ≤ c ∧ c < 4096)) &&
    Memory.wf octets && octets.all fun e => decide (e.1 < 4096 * 64)

/-- A crowded store is in order, without listing its cells one by one. -/
theorem storesOk_crowded {s : State} {n : Nat} {l : List (Nat × Handle)} {octets : List Host.Cell} (hn : n ≤ 4096)
    (h : smallTest n l octets = true) : StoresOk (crowded s n l octets) := by
  simp only [smallTest, Bool.and_eq_true, List.all_eq_true, decide_eq_true_eq] at h
  obtain ⟨⟨⟨⟨⟨h1, h2⟩, h3⟩, h4⟩, h5⟩, h6⟩ := h
  have hc : (crowded s n l octets).heldCells = List.range n ++ l.flatMap fun e => e.2.chain := by
    simp [crowded, withFrames, State.heldCells, State.setMembers, State.setQueue, State.withQueues, State.withBuf, frame]
  refine ⟨?_, ?_, ?_, ?_, h5, h6⟩
  · simpa [crowded, withFrames, State.setMembers, State.setQueue, State.withQueues, State.withBuf, Table.risingFrom] using h1
  · intro e he
    simp only [crowded, withFrames, State.setMembers, State.setQueue, State.withQueues, State.withBuf, List.mem_cons] at he
    rcases he with rfl | he
    · simp
    · exact h2 e he
  · rw [hc, List.nodup_append]
    refine ⟨List.nodup_range, h3, fun a ha b hb => ?_⟩
    have := (h4 b hb).1
    have := List.mem_range.mp ha
    omega
  · intro c hcm
    rw [hc, List.mem_append] at hcm
    rcases hcm with hcm | hcm
    · have := List.mem_range.mp hcm; omega
    · exact (h4 c hcm).2

/-- What is found in a list of the numbers below `n`, each with a value. -/
theorem find_range {α : Type} (g : Nat → α) (m n k : Nat) :
    Table.find ((List.range' m n).map fun h => (h, g h)) k = if m ≤ k ∧ k < m + n then some (g k) else none := by
  induction n generalizing m with
  | zero => exact (if_neg (by omega)).symm
  | succ n ih =>
    simp only [List.range'_succ, List.map_cons, Table.find, ih]
    split
    · rename_i h; subst h; simp
    · split <;> split <;> first | rfl | omega

theorem rising_range {α : Type} (g : Nat → α) (m n : Nat) :
    Table.risingFrom m ((List.range' m n).map fun h => (h, g h)) = true := by
  induction n generalizing m with
  | zero => rfl
  | succ n ih => simp [List.range'_succ, Table.risingFrom, ih]

/-- A store with `n` handles and no cell held, in order without listing its handles one by one. -/
theorem storesOk_filled (s : State) {n : Nat} (hn : n ≤ 512) : StoresOk (filled s n) := by
  have hc : (filled s n).heldCells = [] := by
    simp [filled, withFrames, State.heldCells, State.setMembers, State.setQueue, State.withQueues, State.withBuf, frame]
  refine ⟨?_, ?_, by simp [hc], by simp [hc], rfl, fun e he => absurd he (List.not_mem_nil)⟩
  · have := rising_range (fun _ => frame (.tierQueue .t3) 0 none .t3 0 []) 0 n
    simpa [filled, withFrames, State.setMembers, State.setQueue, State.withQueues, State.withBuf, List.range_eq_range'] using this
  · intro e he
    simp only [filled, withFrames, State.setMembers, State.setQueue, State.withQueues, State.withBuf, List.mem_map,
      List.mem_range] at he
    obtain ⟨k, hk, rfl⟩ := he
    show k < 512
    omega

/-- The holders are in order where the T3 queue holds all the handles of a filled store and nothing else holds any. -/
theorem holdersOk_filled {s t : State} {n : Nat} (hb : t.buf = (filled s n).buf)
    (hm : t.members = (List.range n).map fun h => (h, .tierQueue .t3)) : HoldersOk t := by
  have hh : ∀ k, t.handle? k = if k < n then some (frame (.tierQueue .t3) 0 none .t3 0 []) else none := by
    intro k
    have := find_range (fun _ => frame (.tierQueue .t3) 0 none .t3 0 []) 0 n k
    simpa [State.handle?, hb, filled, withFrames, State.setMembers, State.setQueue, State.withQueues, State.withBuf,
      List.range_eq_range'] using this
  refine ⟨?_, fun m hmem => ?_, fun e he => ?_⟩
  · rw [hm]
    rw [List.map_map]
    exact (List.map_id (List.range n)).symm ▸ List.nodup_range
  · rw [hm, List.mem_map] at hmem
    obtain ⟨k, hk, rfl⟩ := hmem
    exact ⟨_, by rw [hh]; simp [List.mem_range.mp hk]; rfl, rfl⟩
  · rw [hb] at he
    simp only [filled, withFrames, State.setMembers, State.setQueue, State.withQueues, State.withBuf, List.mem_map,
      List.mem_range] at he
    obtain ⟨k, hk, rfl⟩ := he
    rw [hm]
    exact List.mem_map.mpr ⟨k, List.mem_range.mpr hk, rfl⟩

/-- A request header: T0, this part's own tag, reply tag 0x7001, controller C2, number 9. -/
def h2 : ReqHeader := { tier := .t0, broadcast := false, replyTag := 0x7001, controller := 2, number := 9 }

def entry5 : StreamEntry :=
  { valid := true, tag := 0x1234, port := 2, baseTier := .t1, whole := false, chainHead := some 7, endAction := .drop }

/-- Stream S5 with tag 0x1234 on P2, its chain A7 (100 octets, T2), A9 (50 octets, KEEP), and a runtime. -/
def metered (s : State) (rt : Runtime) : State :=
  (s.withStreams [(5, entry5)]).withMetering
    { records := [(7, { budget := 100, tier := some .t2, next := some 9 }), (9, { budget := 50, tier := none, next := none })]
      runtimes := [(5, rt)], epochElapsed := 0 }

/-- The same stream without a chain. -/
def unmetered (s : State) : State := s.withStreams [(5, { entry5 with chainHead := none })]

/-- P2 is RECEIVING in H0 with a hold-back. -/
def receiving (s : State) (r : Handle) (octets : List Host.Cell) (hold : List Byte) : State :=
  (withFrames s [(0, r)] octets).setPort 2 { enabled := true, ingress := .receiving 0 hold, egress := [], sent := [.idle] }

/-- A good frame of 8 octets of S5, complete at the ingress of P2. -/
def good (s : State) : State := receiving s (frame (.ingress 2) 0x1234 (some 5) .t1 8 [0]) (octetsAt 0 body8) check8

/-- Every kind of holder at once, link UP, in the middle of everything. -/
def busy : State :=
  let s := metered up (.metered 7 (.octets 100))
  let s := withFrames s
    [(0, frame (.ingress 2) 0x1234 (some 5) .t1 8 [0]), (1, frame (.tierQueue .t1) 0x1234 (some 5) .t1 10 [1]),
     (2, { frame .trunkActive 0x1234 (some 5) .t2 200 [2, 3, 4, 5] with sentOffset := 64, nextIndex := 1, resumeHold := true }),
     (3, { frame .trunkSuspended 0x1234 (some 5) .t3 200 [6, 7, 8, 9] with sentOffset := 64, nextIndex := 1, restartCount := 2 }),
     (4, frame (.reassembly .t0) 0x1234 none .t0 2 [10]), (5, frame .inbox 0xFFFF none .t0 8 [11]),
     (6, frame (.egress 3) 0x1234 (some 5) .t1 8 [12])] (octetsAt 0 body8 ++ octetsAt 10 [0x12, 0x34] ++ octetsAt 11 [0xFF, 0xFF])
  let s := s.setMembers .t1 [1]
  let s := s.withTx
    { mode := .sending, active := some 2, stack := [3]
      fragment := some { kind := .next, tier := .t2, index := 1, carried := 0, closing := .none } }
  let s := s.setPort 2 { enabled := true, ingress := .receiving 0 check8, egress := [], sent := [.idle] }
  let s := s.setPort 3 { enabled := true, ingress := .idle, egress := [6], sent := [.idle, .opened] }
  let s := s.setContext .t0
    (.opened { handle := some 4, tag := some 0x1234, declared := some 20, received := 2, expected := 0, mgmt := false })
  let s := s.setFragment
    (some { tier := .t0, kind := .first, mode := .storing, header := [0, 20, 0x12, 0x34], hold := [], check := 0 })
  let s := s.withAgent { s.agent with inbox := [5], window := some { holder := 2, table := .port, base := 0, idle := 0 } }
  let s := s.withPart { s.part with noticeTag := 0x0900 }
  s.withNotices
    { records := [{ notice := .announce .power 0, state := .sent 0 1 0 }, { notice := .chainEnd 5 9, state := .queued }]
      counter := 1, lost := 0, timer := .running 5, pending := false }

/-- The same without the request in the inbox. -/
def quiet : State := (busy.freeHandle 5).withAgent { busy.agent with inbox := [] }

/-- Written entries: S5 as above, a budget of 100 at T2, a limit of 511, an enabled port, period 5 and tag 0x0900. -/
def streamWords : StreamWords :=
  { flags := 1, tag := 0x1234, port := 2, baseTier := 1, endAction := 0, chainHead := 7, runtime := 0 }
def allotWords : AllotWords := { budget := 100, tier := 2, next := 9 }
def tallyWords : TallyWords := { framesToTrunk := 1, octetsToTrunk := 2, framesDelivered := 3, framesDiscarded := 4 }
def tierWords : TierWords := { limit := 511, length := 0 }
def portWords (on : Byte) : PortWords := { enabled := on, ingressBusy := 0, egressLength := 0 }
def partWords : PartWords := { epochPeriod := 5, noticeTag := 0x0900, nodeNumber := 0, resetCause := 0, linkState := 0 }

/-! ## WellFormed refuses ill-formed terms -/

theorem test_malformed_request_too_short : (Instr.malformedRequest .t0 true [0, 0, 0, 0, 0]).wellFormed = false := by decide

theorem test_malformed_request_too_long :
    (Instr.malformedRequest .t0 true (List.replicate 2047 0)).wellFormed = false := by decide +kernel

/-- A SELECT of table 0x01 by C0 is no malformed request. -/
theorem test_malformed_request_not_malformed :
    (Instr.malformedRequest .t0 true [0x70, 0x01, 0, 9, 1, 1, 0, 0]).wellFormed = false := by decide

/-- A SELECT of table 0x09, a request of C4 and one of kind 0x0A are (R154). -/
theorem test_malformed_requests :
    (Instr.malformedRequest .t0 true [0x70, 0x01, 0, 9, 1, 9, 0, 0]).wellFormed = true ∧
    (Instr.malformedRequest .t0 true [0x70, 0x01, 4, 9, 7, 0]).wellFormed = true ∧
    (Instr.malformedRequest .t0 true [0x70, 0x01, 0, 9, 0x0A, 0]).wellFormed = true := by decide

/-- The most entries whose octets still fit a body of 2048, and one more, for each WRITE. -/
theorem test_writes_too_long :
    (Instr.writeStream h2 0 8 (List.replicate 146 streamWords)).wellFormed = false ∧
    (Instr.writeAllot h2 0 8 (List.replicate 340 allotWords)).wellFormed = false ∧
    (Instr.writeStreamTally h2 0 8 (List.replicate 128 tallyWords)).wellFormed = false ∧
    (Instr.writeTier h2 0 8 (List.replicate 510 tierWords)).wellFormed = false ∧
    (Instr.writePort h2 0 8 (List.replicate 680 (portWords 1))).wellFormed = false ∧
    (Instr.writePart h2 0 8 (List.replicate 292 partWords)).wellFormed = false ∧
    (Instr.writeDiscard h2 0 8 (List.replicate 510 (1 : BitVec 32))).wellFormed = false ∧
    (Instr.writeNotices h2 0 8 (List.replicate 255 (1 : BitVec 64))).wellFormed = false := by decide +kernel

/-! ## The checks, the line codes and the request bodies of chapter 11 -/

/-- The nine octets "123456789": the two checks computed bit by bit from R198 outside Lean; 0x29B1 is also the value
published for this generator and start. -/
theorem test_checks :
    frameCheck [0x31, 0x32, 0x33, 0x34, 0x35, 0x36, 0x37, 0x38, 0x39] = 0x05440F15 ∧
    fragmentCheck [0x31, 0x32, 0x33, 0x34, 0x35, 0x36, 0x37, 0x38, 0x39] = 0x29B1 ∧
    octets4 (frameCheck body8) = check8 ∧ fragmentCheck [0, 8, 0x12, 0x34] = 0x3EA7 ∧
    fragmentCheck [0x0e, 0x3f, 0x08, 0x2b] = 0xD3AE := by decide +kernel

/-- Marker codes of R196: OPEN FIRST(t) is 0x10 + t, OPEN NEXT(t, i) is 0x20 + 8t + i. -/
theorem test_trunk_codes :
    decodeTrunkCode (.marker 0x00) = .idle ∧ decodeTrunkCode (.marker 0x01) = .clear ∧
    decodeTrunkCode (.marker 0x02) = .closeMore ∧ decodeTrunkCode (.marker 0x03) = .closeLast ∧
    decodeTrunkCode (.marker 0x13) = .openFirst .t3 ∧ decodeTrunkCode (.marker 0x2B) = .openNext .t1 3 ∧
    decodeTrunkCode (.marker 0x3F) = .openNext .t3 7 ∧ decodeTrunkCode (.marker 0x40) = .invalid ∧
    decodeTrunkCode (.data 0x02) = .data 0x02 := by decide

theorem test_tributary_codes :
    decodeTribCode (.marker 0x00) = .idle ∧ decodeTribCode (.marker 0x40) = .opened ∧
    decodeTribCode (.marker 0x41) = .closeEnd ∧ decodeTribCode (.marker 0x42) = .closeAbort ∧
    decodeTribCode (.marker 0x01) = .invalid ∧ decodeTribCode .undecodable = .invalid := by decide

/-! ## One step of every command -/

/-- R18 on a part in the middle of everything, with straps of 5 and TRK_LOS asserted. -/
theorem test_power_on_reset : after (.powerOnReset 5 true) busy (fun t =>
    decide (t.buf.handles = [] ∧ t.freeCells = 4096 ∧ t.line.link = .down ∧ t.part.node = 5 ∧ (t.port 2).enabled = false)) =
    true := by decide +kernel

/-- R41: an enabled port enters TAG_WAIT, a disabled one stays IDLE. -/
theorem test_tributary_open :
    after (.tributaryOpen 3) busy (fun t => decide ((t.port 3).ingress = .tagWait none)) = true ∧
    after (.tributaryOpen 4) busy (fun t => decide ((t.port 4).ingress = .idle)) = true := by decide +kernel

/-- R47: OPEN in RECEIVING discards the frame with cause INGRESS_ABORTED, counted against its stream. -/
theorem test_tributary_open_interrupts : after (.tributaryOpen 2) busy (fun t =>
    decide ((t.port 2).ingress = .tagWait none ∧ t.handle? 0 = none ∧ t.discardCount .ingressAborted = 1 ∧
      (t.tally 5).framesDiscarded = 1)) = true := by decide +kernel

/-- E1 of chapter 1: the second tag octet takes H0 and one cell, body length 2. -/
theorem test_tributary_tag : after (.tributaryDataOctet 2 0x34)
    ((unmetered up).setPort 2 { enabled := true, ingress := .tagWait (some 0x12), egress := [], sent := [.idle] }) (fun t =>
      decide ((t.port 2).ingress = .receiving 0 [] ∧
        t.handle? 0 = some (frame (.ingress 2) 0x1234 (some 5) .t1 2 [0]) ∧ t.bodyOf 0 = [0x12, 0x34])) = true := by
  decide +kernel

/-- R43: a full hold-back gives its oldest octet to the body. -/
theorem test_tributary_data : after (.tributaryDataOctet 2 0x99) (good up) (fun t =>
    decide ((t.port 2).ingress = .receiving 0 [0x3f, 0x08, 0x2b, 0x99] ∧ t.bodyOf 0 = body8 ++ [0x0e])) = true := by
  decide +kernel

/-- A good frame of an unmetered stream at T1: selected at once, OPEN FIRST(T1) and its length 8 on the trunk. -/
theorem test_close_end_good : after (.closeEnd 2) (good (unmetered up)) (fun t =>
    decide ((t.port 2).ingress = .idle ∧ t.tx.active = some 0 ∧
      t.line.sent = [.idle, .openFirst .t1, .data 0, .data 8])) = true := by decide +kernel

/-- R44: three octets in the hold-back are INGRESS_LENGTH. -/
theorem test_close_end_short : after (.closeEnd 2)
    (receiving up (frame (.ingress 2) 0x1234 (some 5) .t1 8 [0]) (octetsAt 0 body8) [1, 2, 3]) (fun t =>
      decide ((t.port 2).ingress = .idle ∧ t.buf.handles = [] ∧ t.discardCount .ingressLength = 1)) = true := by
  decide +kernel

theorem test_close_abort : after (.closeAbort 2) busy (fun t =>
    decide ((t.port 2).ingress = .idle ∧ t.handle? 0 = none ∧ t.discardCount .ingressAborted = 1 ∧
      t.freeHandles = 506)) = true := by decide +kernel

theorem test_tributary_invalid_symbol : after (.tributaryInvalidSymbol 2) busy (fun t =>
    decide ((t.port 2).ingress = .skipping ∧ t.handle? 0 = none ∧ t.discardCount .ingressCheck = 1)) = true := by
  decide +kernel

theorem test_tributary_idle : after (.tributaryIdle 2) busy (fun t => decide (t = busy)) = true := by decide +kernel

/-- R52: body, frame check and CLOSE END follow the OPEN already sent; then IDLE. -/
theorem test_egress_close_end_sent : after (.egressCloseEndSent 3)
    ((withFrames up [(6, frame (.egress 3) 0x1234 (some 5) .t1 8 [12])] (octetsAt 12 body8)).setPort 3
      { enabled := true, ingress := .idle, egress := [6], sent := [.idle, .opened] }) (fun t =>
    decide (t.buf.handles = [] ∧ (t.port 3).egress = [] ∧ (t.port 3).sent =
      [.idle, .opened] ++ (body8 ++ check8).map TribSymbol.data ++ [.closeEnd, .idle])) = true := by decide +kernel

/-- R103: the active frame goes back to the head of T2; the suspended one, at its third loss, is discarded. -/
theorem test_trk_los_asserted : after .trkLosAsserted busy (fun t =>
    decide (t.line.link = .down ∧ t.line.returned = 1 ∧ t.line.discarded = 1 ∧ t.line.contexts = 1 ∧
      (t.queue .t2).members = [2] ∧ (t.queue .t3).members = [] ∧ t.discardCount .restartLimit = 1 ∧
      t.discardCount .trunkDown = 1 ∧ t.notices.timer = .held 5)) = true := by decide +kernel

theorem test_trk_los_deasserted : after .trkLosDeasserted (State.powerOnWith 0 true)
    (fun t => decide (t.line.link = .aligning ∧ t.line.los = false)) = true := by decide +kernel

/-- R117: 15 IDLEs do not bring the link UP, the 16th does. -/
theorem test_trunk_idle_received :
    after .trunkIdleReceived (State.reset.withLine { State.reset.line with idleRun := 14 })
      (fun t => decide (t.line.link = .aligning ∧ t.line.idleRun = 15)) = true ∧
    after .trunkIdleReceived (State.reset.withLine { State.reset.line with idleRun := 15 })
      (fun t => decide (t.line.link = .up ∧ t.tx.mode = .clearing ∧ t.line.beenUp = true)) = true := by decide +kernel

/-- E5 of chapter 7 in small: a less urgent OPEN FIRST finds a more urgent context OPEN. -/
theorem test_open_first_nesting : after (.openFirst .t2) busy (fun t =>
    decide (t.context .t0 = .closed ∧ t.handle? 4 = none ∧ t.discardCount .fragmentCheck = 1 ∧
      (t.context .t2).isOpen = true ∧ t.rx.fragment = some
        { tier := .t2, kind := .first, mode := .storing, header := [], hold := [], check := 0xFFFF })) = true := by
  decide +kernel

/-- A context T2 OPEN at index 1, between fragments. -/
def between : State :=
  (withFrames up [(0, frame (.reassembly .t2) 0x0520 none .t2 8 [0])] (octetsAt 0 body8)).setContext .t2
    (.opened { handle := some 0, tag := some 0x0520, declared := some 9, received := 8, expected := 1, mgmt := false })

/-- E3 of chapter 7: index 2 is not 1: a gap, H61 released, notice SEQUENCE_FAULT (T2, GAP), TRACKING. -/
theorem test_open_next_gap : after (.openNext .t2 2) between (fun t =>
    decide (t.context .t2 = .discarding
        { tag := some 0x0520, declared := some 9, expected := 2, mgmt := false, cause := .sequence } ∧
      t.buf.handles = [] ∧ t.discardCount .sequence = 1 ∧ (t.rx.fragment.map fun f => f.mode) = some .tracking ∧
      t.notices.records.map (fun r => r.notice) = [.announce .power 0, .sequenceFault .t2 .gap])) = true := by
  decide +kernel

/-- E6 of chapter 7: an orphan. -/
theorem test_open_next_orphan : after (.openNext .t1 1) between (fun t =>
    decide (t.context .t1 = .closed ∧ (t.rx.fragment.map fun f => f.mode) = some .ignored ∧
      t.notices.records.map (fun r => r.notice) = [.announce .power 0, .sequenceFault .t1 .orphan])) = true := by
  decide +kernel

/-- A FIRST fragment of T0 in STORING mode with some header octets and a declared length. -/
def heading (s : State) (header : List Byte) (declared : Option Nat) : State :=
  (s.setContext .t0 (.opened { handle := none, tag := none, declared := declared, received := 0, expected := 0, mgmt := false })).setFragment
    (some { tier := .t0, kind := .first, mode := .storing, header := header, hold := [], check := fragmentStart })

/-- E8 of chapter 7: the tag 0xFFC5 at node 5 makes the claims management claims. -/
theorem test_trunk_data_octet_tag : after (.trunkDataOctet 0xC5)
    (heading (up.withPart { up.part with node := 5 }) [0, 40, 0xFF] (some 40)) (fun t =>
      decide (t.context .t0 = .opened
          { handle := some 0, tag := some 0xFFC5, declared := some 40, received := 2, expected := 0, mgmt := true } ∧
        t.bodyOf 0 = [0xFF, 0xC5])) = true := by decide +kernel

/-- R132: a declared length of 7 gives the frame up with cause FRAME_CHECK. -/
theorem test_trunk_data_octet_length : after (.trunkDataOctet 7) (heading up [0] none) (fun t =>
    decide ((t.context .t0).isDiscarding = true ∧ t.discardCount .frameCheck = 1)) = true := by decide +kernel

/-- A NEXT fragment of T2 over `between`, with a hold-back. -/
def continuing (s : State) (mode : RxMode) (hold : List Byte) : State :=
  s.setFragment (some { tier := .t2, kind := .next, mode := mode, header := [], hold := hold, check := fragmentStart })

/-- A fragment with no data: its check is the starting value 0xFFFF; the index advances to 2. -/
theorem test_close_more : after .closeMore (continuing between .storing [0xFF, 0xFF]) (fun t =>
    decide (t.rx.fragment = none ∧ t.context .t2 = .opened
      { handle := some 0, tag := some 0x0520, declared := some 9, received := 8, expected := 2, mgmt := false })) = true := by
  decide +kernel

theorem test_close_more_bad_check : after .closeMore (continuing between .storing [0xFF, 0xFE]) (fun t =>
    decide (t.rx.fragment = none ∧ t.buf.handles = [] ∧ t.discardCount .fragmentCheck = 1)) = true := by decide +kernel

/-- A whole downward frame of tag 0x1234, its last fragment carrying the two checks. -/
def arrived (s : State) (mgmt : Bool) : State :=
  continuing ((withFrames s [(0, frame (.reassembly .t2) 0x1234 none .t2 8 [0])] (octetsAt 0 body8)).setContext .t2
    (.opened { handle := some 0, tag := some 0x1234, declared := some 8, received := 8, expected := 1, mgmt := mgmt }))
    .storing (check8 ++ [0xD3, 0xAE])

/-- E7 of chapter 7: the frame joins the egress queue of its port, whose transmission begins. -/
theorem test_close_last : after .closeLast
    (arrived ((unmetered up).setPort 2 { enabled := true, ingress := .idle, egress := [], sent := [.idle] }) false) (fun t =>
      decide (t.context .t2 = .closed ∧ (t.port 2).egress = [0] ∧ (t.port 2).sent = [.idle, .opened] ∧
        (t.tally 5).framesDelivered = 1 ∧ t.streamOf 0 = some 5)) = true := by decide +kernel

theorem test_close_last_port_disabled : after .closeLast (arrived (unmetered up) false) (fun t =>
    decide (t.buf.handles = [] ∧ t.discardCount .portDisabled = 1 ∧ (t.tally 5).framesDiscarded = 1)) = true := by
  decide +kernel

theorem test_clear_received : after .clearReceived busy (fun t =>
    decide (t.context .t0 = .closed ∧ t.handle? 4 = none ∧ t.rx.fragment = none ∧ t.discardCount .cleared = 1)) = true := by
  decide +kernel

/-- R119: the 4th invalid symbol takes the link DOWN; the first is a slip inside the open fragment. -/
theorem test_trunk_invalid_symbol :
    after .trunkInvalidSymbol busy (fun t =>
      decide (t.line.invalidRun = 1 ∧ t.rx.fragment = none ∧ t.discardCount .fragmentCheck = 1)) = true ∧
    after .trunkInvalidSymbol (busy.withLine { busy.line with invalidRun := 3 }) (fun t =>
      decide (t.line.link = .down ∧ t.line.invalidRun = 0)) = true := by decide +kernel

/-- The active frame H2 of tier T2 with `len` octets of zero, a frame H1 waiting at T1, and a record of the fragment. -/
def sending (len offset carried : Nat) (kind : FragKind) (hold : Bool) (closing : Closing) : State :=
  ((withFrames up
    [(1, frame (.tierQueue .t1) 0x1234 (some 5) .t1 10 [1]),
     (2, { frame .trunkActive 0x1234 (some 5) .t2 len [2, 3, 4, 5] with sentOffset := offset, resumeHold := hold })] []).setMembers
    .t1 [1]).withTx
    { mode := .sending, active := some 2, stack := []
      fragment := some { kind := kind, tier := .t2, index := 0, carried := carried, closing := closing } }

/-- E3 and E4 of chapter 5: no cut at 48 carried octets, a cut at 64. -/
theorem test_block_sent_cut :
    after .blockSent (sending 200 32 32 .first false .none) (fun t =>
      decide ((t.tx.fragment.map fun f => (f.carried, f.closing)) = some (48, .none))) = true ∧
    after .blockSent (sending 200 48 48 .first false .none) (fun t =>
      decide ((t.tx.fragment.map fun f => (f.carried, f.closing)) = some (64, .more))) = true := by decide +kernel

/-- E20 and E21 of chapter 5: the resume hold forbids the cut up to 112 carried octets and clears at 128. -/
theorem test_block_sent_hold :
    after .blockSent (sending 200 96 96 .next true .none) (fun t =>
      decide ((t.tx.fragment.map fun f => (f.carried, f.closing)) = some (112, .none))) = true ∧
    after .blockSent (sending 200 112 112 .next true .none) (fun t =>
      decide ((t.tx.fragment.map fun f => (f.carried, f.closing)) = some (128, .more))) = true := by decide +kernel

/-- E5 of chapter 5: the frame is pushed with next index 1 and the more urgent one opens; the check is that of R198
over 4 zero octets. -/
theorem test_close_more_sent : after .closeMoreSent (sending 200 68 4 .next false .more) (fun t =>
    decide (t.tx.stack = [2] ∧ t.tx.active = some 1 ∧ (t.handle? 2).map (fun r => r.nextIndex) = some 1 ∧
      t.line.sent = [.idle, .data 0x84, .data 0xC0, .closeMore, .openFirst .t1, .data 0, .data 10])) = true := by
  decide +kernel

/-- E17 of chapter 5: the stream's tallies go up by 1 frame and its octets; 0x514D1431 is the frame check of 8 zero
octets, 0x1786 the fragment check over the length, the data and the frame check. -/
theorem test_close_last_sent : after .closeLastSent (sending 8 8 8 .first false .last) (fun t =>
    decide (t.handle? 2 = none ∧ t.tx.active = some 1 ∧ (t.tally 5).framesToTrunk = 1 ∧ (t.tally 5).octetsToTrunk = 8 ∧
      t.line.sent.take 8 =
        [.idle, .data 0x51, .data 0x4D, .data 0x14, .data 0x31, .data 0x17, .data 0x86, .closeLast])) = true := by decide +kernel

theorem test_clear_sent : after .clearSent (up.withTx { up.tx with mode := .clearing })
    (fun t => decide (t.tx.mode = .idle ∧ t.line.sent = [.idle, .clear, .idle])) = true := by decide +kernel

/-- E12 of chapter 4: the head's budget is loaded again. -/
theorem test_epoch_expiry : after .epochExpiry
    ((metered up (.exhausted 9)).withPart { up.part with epochPeriod := 10000 })
    (fun t => decide (t.runtime 5 = .metered 7 (.octets 100))) = true := by decide +kernel

theorem test_window_idle_timeout : after .windowIdleTimeout busy (fun t => decide (t.agent.window = none)) = true := by
  decide +kernel

/-- R180: the second frame of the SENT record, and R181: its end after the fourth. -/
theorem test_resend_timer_expiry :
    after .resendTimerExpiry busy (fun t =>
      decide (t.notices.records.head?.map (fun r => r.state) = some (.sent 0 2 0) ∧ (t.queue .t0).members = [7] ∧
        t.bodyOf 7 = [0x09, 0x00, 0, 0, 1, 0, 1, 0, 0, 0, 0, 2])) = true ∧
    after .resendTimerExpiry
      (busy.withNotices { busy.notices with records := [{ notice := .announce .power 0, state := .sent 0 4 0 }] })
      (fun t => decide (t.notices.records = [] ∧ t.notices.lost = 1 ∧ t.notices.timer = .stopped)) = true := by
  decide +kernel

/-- The head request of `busy` has kind 0: it is answered BAD_REQUEST. -/
theorem test_agent_attempt_event : after .agentAttemptEvent busy (fun t =>
    decide (t.agent.inbox = [] ∧ t.handle? 5 = none ∧ (t.queue .t0).members = [7] ∧
      t.bodyOf 7 = [0, 0, 0, 0, 0, 0, 0x0A, 0])) = true := by decide +kernel

theorem test_agent_retry :
    after .agentRetry busy (fun t => decide (t = busy)) = true ∧
    after .agentRetry (busy.withAgent { busy.agent with state := .waiting }) (fun t =>
      decide (t.agent.inbox = [] ∧ t.agent.state = .idle)) = true := by decide +kernel

/-- R178: the pending first send of the oldest record. -/
theorem test_notice_claim_retry : after .noticeClaimRetry
    (busy.withNotices { busy.notices with
      records := [{ notice := .chainEnd 5 9, state := .queued }], timer := .stopped, pending := true }) (fun t =>
    decide (t.notices = { records := [{ notice := .chainEnd 5 9, state := .sent 1 1 0 }], counter := 2, lost := 0
                          timer := .running 0, pending := false } ∧
      t.bodyOf 7 = [0x09, 0x00, 0, 1, 2, 5, 0, 0, 0, 9, 0, 1])) = true := by decide +kernel

/-- The body of the active frame, which the reply is where the transmitter was IDLE. -/
def reply (t : State) : List Byte :=
  match t.tx.active with
  | some r => t.bodyOf r
  | none => []

/-- The window held by a controller on a table. -/
def window (s : State) (c : Controller) (table : TableName) (base : Nat) : State :=
  s.withAgent { s.agent with window := some { holder := c, table := table, base := base, idle := 7 } }

/-- The request of a command at the head of the inbox, in H50 from cell 100 on, with three more requests behind it. -/
def headed (s : State) (x : Instr) : State :=
  let b := s.bodyOfRequest x
  (s.withBuf
    { handles := s.buf.handles ++ [(50, frame .inbox 0xFFFF none .t0 b.length (List.range' 100 (cellsFor b.length))),
        (51, frame .inbox 0xFFFF none .t0 8 [200]), (52, frame .inbox 0xFFFF none .t0 8 [201]),
        (53, frame .inbox 0xFFFF none .t0 8 [202])]
      octets := s.buf.octets ++ (octetsAt 100 b).filter fun e => decide (e.2 ≠ 0) }).withAgent
    { s.agent with inbox := [50, 51, 52, 53] }

/-- The agent WAITING on the head of its inbox. -/
def retrying (s : State) : State := s.withAgent { s.agent with state := .waiting }

theorem test_malformed_request : after (.malformedRequest .t0 true [0x70, 0x01, 4, 9, 7, 0]) up (fun t =>
    decide (reply t = [0x70, 0x01, 0, 4, 9, 7, 0x0A, 0] ∧ (t.agent.records.get 2) = none)) = true := by decide +kernel

/-- R159: a free window is taken; another controller's is not; a base beyond the table is RANGE. -/
theorem test_select :
    after (.select h2 .stream 255) up (fun t => decide (reply t = [0x70, 0x01, 0, 2, 9, 1, 0, 0] ∧
      t.agent.window = some { holder := 2, table := .stream, base := 255, idle := 0 })) = true ∧
    after (.select h2 .stream 256) up (fun t => decide (reply t = [0x70, 0x01, 0, 2, 9, 1, 4, 0])) = true ∧
    after (.select h2 .stream 0) (window up 1 .part 0) (fun t => decide (reply t = [0x70, 0x01, 0, 2, 9, 1, 2, 0])) =
      true := by decide +kernel

theorem test_release :
    after (.release h2) (window up 2 .part 0) (fun t => decide (reply t = [0x70, 0x01, 0, 2, 9, 2, 0, 0] ∧
      t.agent.window = none)) = true ∧
    after (.release h2) up (fun t => decide (reply t = [0x70, 0x01, 0, 2, 9, 2, 3, 0])) = true := by decide +kernel

/-- R161, R204: A7 and A8 of `metered`: 100 octets at T2 with next A9, and the power-on record; S5 with 40 octets left at
A7; a SENT ANNOUNCE, a QUEUED CHAIN_END of S5 at A9, and an empty position. -/
theorem test_read :
    after (.read h2 1 2) (window (metered up .unmetered) 2 .allot 6) (fun t =>
      decide (reply t = [0x70, 0x01, 0, 2, 9, 3, 0, 0, 0, 7, 0, 0, 100, 2, 0, 9, 0, 0, 0, 4, 0xFF, 0xFF])) = true ∧
    after (.read h2 0 1) (window (metered up (.metered 7 (.octets 40))) 2 .stream 5) (fun t =>
      decide (reply t = [0x70, 0x01, 0, 2, 9, 3, 0, 0, 0, 5, 1, 0x12, 0x34, 2, 1, 0, 0, 7, 1, 0, 7, 0, 0, 40])) = true ∧
    after (.read h2 0 3) (window (up.withNotices busy.notices) 2 .notices 0) (fun t =>
      decide (reply t = [0x70, 0x01, 0, 2, 9, 3, 0, 0, 0, 0, 1, 0, 1, 0, 0, 0, 0, 1, 2, 5, 0, 0, 0, 9, 0, 0,
        0, 0, 0, 0, 0, 0, 0, 0])) = true := by
  decide +kernel

/-- R161: the span ends at entry 64 of the window. -/
theorem test_read_range : after (.read h2 63 2) (window up 2 .stream 0) (fun t =>
    decide (reply t = [0x70, 0x01, 0, 2, 9, 3, 4, 0] ∧ (t.agent.records.get 2) = some { number := 9, status := .range })) =
    true := by decide +kernel

theorem test_write_stream :
    after (.writeStream h2 0 1 [streamWords]) (window (metered up .unmetered) 2 .stream 6) (fun t =>
      decide (reply t = [0x70, 0x01, 0, 2, 9, 4, 7, 0])) = true ∧
    after (.writeStream h2 0 1 [streamWords]) (window ((metered up .unmetered).withStreams []) 2 .stream 6) (fun t =>
      decide (t.lookup 0x1234 = some 6 ∧ t.runtime 6 = .metered 7 (.octets 100))) = true := by decide +kernel

theorem test_write_allot : after (.writeAllot h2 0 1 [allotWords]) (window up 2 .allot 1023) (fun t =>
    decide (t.record 1023 = { budget := 100, tier := some .t2, next := some 9 })) = true := by decide +kernel

/-- R205: a tier code of 5 fails, and the reply names the entry. -/
theorem test_write_allot_invalid : after (.writeAllot h2 0 2 [allotWords, { allotWords with tier := 5 }])
    (window up 2 .allot 1000) (fun t =>
      decide (reply t = [0x70, 0x01, 0, 2, 9, 4, 6, 0, 0x03, 0xE9] ∧ t.metering.records = [])) = true := by decide +kernel

theorem test_write_stream_tally : after (.writeStreamTally h2 0 1 [tallyWords]) (window up 2 .streamTally 5) (fun t =>
    decide (t.tally 5 = { framesToTrunk := 1, octetsToTrunk := 2, framesDelivered := 3, framesDiscarded := 4 })) = true := by
  decide +kernel

theorem test_write_tier :
    after (.writeTier h2 0 1 [tierWords]) (window up 2 .tier 3) (fun t => decide ((t.queue .t3).limit = 511)) = true ∧
    after (.writeTier h2 0 1 [{ tierWords with limit := 512 }]) (window up 2 .tier 3) (fun t =>
      decide (reply t = [0x70, 0x01, 0, 2, 9, 4, 6, 0, 0, 3] ∧ (t.queue .t3).limit = 128)) = true := by decide +kernel

/-- F1 of chapter 3: a disable discards the frames behind the one in transmission. -/
theorem test_write_port : after (.writePort h2 0 1 [portWords 0])
    (window ((withFrames up [(0, frame (.egress 4) 1 none .t1 8 [0]), (1, frame (.egress 4) 1 none .t1 8 [1]),
        (2, frame (.egress 4) 1 none .t1 8 [2])] []).setPort 4
      { enabled := true, ingress := .idle, egress := [0, 1, 2], sent := [.opened] }) 2 .port 4) (fun t =>
    decide ((t.port 4) = { enabled := false, ingress := .idle, egress := [0], sent := [.opened] } ∧
      t.discardCount .portDisabled = 2)) = true := by decide +kernel

theorem test_write_part : after (.writePart h2 0 1 [partWords]) (window up 2 .part 0) (fun t =>
    decide (t.part.epochPeriod = 5 ∧ t.part.noticeTag = 0x0900 ∧ t.notices.timer = .running 0)) = true := by decide +kernel

theorem test_write_discard : after (.writeDiscard h2 0 1 [0xFFFFFFFF]) (window up 2 .discard 19) (fun t =>
    decide (t.discardCount .flush = 0xFFFFFFFF)) = true := by decide +kernel

theorem test_write_notices : after (.writeNotices h2 0 1 [0]) (window up 2 .notices 0) (fun t =>
    decide (reply t = [0x70, 0x01, 0, 2, 9, 4, 5, 0] ∧ t.notices = up.notices)) = true := by decide +kernel

/-- E8 of chapter 4 with one stream exhausted at A9. -/
theorem test_append : after (.append h2 9 7) (metered up (.exhausted 9)) (fun t =>
    decide (reply t = [0x70, 0x01, 0, 2, 9, 5, 0, 0, 0, 1] ∧ t.runtime 5 = .metered 7 (.octets 100) ∧
      (t.record 9).next = some 7)) = true := by decide +kernel

/-- E9 of chapter 4: the tail already has a next record. -/
theorem test_append_not_end : after (.append h2 7 9) (metered up (.exhausted 9)) (fun t =>
    decide (reply t = [0x70, 0x01, 0, 2, 9, 5, 8, 0])) = true := by decide +kernel

/-- R182, R177: the SENT record leaves; the reply stands ahead of the frame of the next record. -/
theorem test_acknowledge :
    after (.acknowledge h2 0) quiet (fun t =>
      decide (t.notices.records = [{ notice := .chainEnd 5 9, state := .sent 1 1 0 }] ∧
        (t.queue .t0).members.map t.bodyOf =
          [[0x70, 0x01, 0, 2, 9, 6, 0, 0], [0x09, 0x00, 0, 1, 2, 5, 0, 0, 0, 9, 0, 1]])) = true ∧
    after (.acknowledge h2 1) up (fun t => decide (reply t = [0x70, 0x01, 0, 2, 9, 6, 9, 0])) = true := by decide +kernel

/-- R201: 31 octets; the request and the reply hold 2 handles and 2 cells: 510 and 4094 are free. -/
theorem test_status : after (.status h2) (window up 1 .part 0) (fun t =>
    decide (reply t = [0x70, 0x01, 0, 2, 9, 7, 0, 0, 2, 0x01, 0xFE, 0x0F, 0xFE, 0, 0, 0, 0, 0, 0, 0, 0, 0, 0, 0, 0, 0, 1, 1, 6,
      1, 0])) = true := by decide +kernel

/-- R168: at a retry with three requests behind, 4 of them and the reply are held: 507 and 4091 are free; the inbox
holds 4. -/
theorem test_status_head : after .agentRetry (retrying (headed (window up 1 .part 0) (.status h2))) (fun t =>
    decide (reply t = [0x70, 0x01, 0, 2, 9, 7, 0, 0, 2, 0x01, 0xFB, 0x0F, 0xFB, 0, 0, 0, 0, 0, 0, 0, 0, 0, 0, 0, 0, 0, 4, 1, 6,
      1, 0] ∧ t.agent.inbox = [51, 52, 53] ∧ t.handle? 50 = none)) = true := by decide +kernel

/-- R170 step 1: the three requests behind the RESTART are flushed with the six frames of `quiet`. -/
theorem test_restart_head : after .agentAttemptEvent (headed quiet (.restart h2)) (fun t =>
    decide (t.discardCount .flush = 9 ∧ t.agent.inbox = [] ∧ t.freeHandles = 510 ∧
      (t.queue .t0).members.map t.bodyOf = [[0x70, 0x01, 0, 2, 9, 8, 0, 0], [0x09, 0x00, 0, 1, 1, 0, 2, 0, 0, 0, 0, 1]])) =
    true := by decide +kernel

/-- R170: everything but the request and the reply is flushed; the reply is the first T0 frame and the ANNOUNCE frame
stands behind it. -/
theorem test_restart : after (.restart h2) quiet (fun t =>
    decide ((t.queue .t0).members.map t.bodyOf = [[0x70, 0x01, 0, 2, 9, 8, 0, 0], [0x09, 0x00, 0, 1, 1, 0, 2, 0, 0, 0, 0, 1]] ∧
      t.tx.mode = .clearing ∧ t.discardCount .flush = 6 ∧ t.part.cause = .soft ∧ (t.port 3).sent = [.idle, .opened, .closeAbort, .idle])) =
    true := by decide +kernel

theorem test_port_reset :
    after (.portReset h2 3) quiet (fun t =>
      decide ((t.port 3) = { enabled := true, ingress := .idle, egress := [], sent := [.idle, .opened, .closeAbort, .idle] } ∧
        t.discardCount .flush = 1)) = true ∧
    after (.portReset h2 8) up (fun t => decide (reply t = [0x70, 0x01, 0, 2, 9, 9, 4, 0])) = true := by decide +kernel

/-! ## Witnesses: states and operands that meet the hypotheses of each statement, clause by clause -/

theorem every_busy : EveryInvariant busy := everyInvariant_of_test (by decide +kernel)
theorem every_quiet : EveryInvariant quiet := everyInvariant_of_test (by decide +kernel)
theorem every_reset : EveryInvariant State.reset := everyInvariant_of_test (by decide +kernel)

/-- A part in the middle of everything with a command waiting: what the statements about every step ask. -/
def stepping : State := busy.withPending [.blockSent]

theorem every_stepping : EveryInvariant stepping ∧ ∃ t, step stepping = .next t :=
  ⟨everyInvariant_of_test (by decide +kernel), _, rfl⟩

theorem witness_StepRunsFrontCommand : stepping.pending = .blockSent :: [] := rfl

theorem witness_WhatEveryCommandKeeps :
    busy.releaseEvents = 0 ∧ busy.pending = [] ∧ (∃ t, step busy = .next t) ∧ addressesPart 62 0xFFFE = true ∧
    addressesPart 63 0xFFFF = true ∧ addressesPart 63 0xFFC0 = false := by
  refine ⟨rfl, rfl, ⟨_, rfl⟩, ?_⟩
  decide

/-- Elapsed times at both sides of each timer's end. -/
def timed (period : BitVec 16) (epoch resend : Nat) : State :=
  let s := up.withPart { up.part with epochPeriod := period }
  (s.withMetering { s.metering with epochElapsed := epoch }).withNotices { s.notices with timer := .running resend }

theorem witness_EmptyQueueStepIsATick :
    ((timed 0 0 0).pending = [] ∧ (timed 0 0 0).part.epochPeriod = 0) ∧
    ((timed 5 3 198).part.epochPeriod ≠ 0 ∧ (timed 5 3 198).metering.epochElapsed + 1 < (timed 5 3 198).part.epochPeriod.toNat ∧
      (timed 5 3 198).notices.timer = .running 198 ∧ 198 + 1 < 200) ∧
    (timed 5 4 199).part.epochPeriod ≠ 0 ∧ (timed 5 4 199).part.epochPeriod.toNat ≤ (timed 5 4 199).metering.epochElapsed + 1 ∧
      (timed 5 4 199).notices.timer = .running 199 ∧ 200 ≤ 199 + 1 := by decide +kernel

theorem witness_PowerOnStoresAreFree :
    1 ≤ cellsFor 1 ∧ cellsFor 1 ≤ 4096 ∧ cellsFor 64 = 1 ∧ cellsFor 65 = 2 ∧ cellsFor (64 * 4096) ≤ 4096 := by decide

theorem witness_RequestBodiesDecode :
    requestParts (.select h2 .notices 0xFFFF) = some (h2, 1, [8, 0xFF, 0xFF]) ∧
    requestParts (.release h2) = some (h2, 2, [0]) ∧ requestParts (.read h2 63 1) = some (h2, 3, [63, 1]) ∧
    requestParts (.writeTier h2 0 1 [tierWords]) = some (h2, 4, [0, 1, 0x01, 0xFF, 0, 0]) ∧
    State.reset.bodyOfRequest (.portReset h2 7) = [0xFF, 0xC0, 0x70, 0x01, 2, 9, 9, 7] := by decide +kernel

theorem witness_RequestBodiesDecode_others :
    requestParts (.append h2 0x0123 0x0456) = some (h2, 5, [0x01, 0x23, 0x04, 0x56]) ∧
    requestParts (.acknowledge h2 7) = some (h2, 6, [7]) ∧ requestParts (.status h2) = some (h2, 7, [0]) ∧
    requestParts (.restart h2) = some (h2, 8, [0]) ∧ requestParts (.portReset h2 7) = some (h2, 9, [7]) := by decide +kernel

theorem witness_TableEntriesRoundTrip :
    (entry5.valid = true → entry5.tag ≠ 0) ∧ (entry5.valid = false → entry5 = StreamEntry.invalid) ∧
    (StreamEntry.invalid.valid = false) ∧ 1 ≤ (up.queue .t0).limit ∧ (up.queue .t0).limit ≤ 511 := by decide

theorem witness_WrittenCodesThatFail :
    streamWords.flags.getLsbD 0 = true ∧ parseStream (StreamWords.octets streamWords) = some entry5 ∧
    ({ streamWords with flags := 2 } : StreamWords).flags.getLsbD 0 = false ∧
    parseStream (StreamWords.octets { streamWords with chainHead := 1024 }) = none ∧
    parseAllot (AllotWords.octets { allotWords with tier := 4 }) = some { budget := 100, tier := none, next := some 9 } ∧
    parseAllot (AllotWords.octets { allotWords with tier := 5 }) = none := by decide +kernel

theorem witness_StoresStayAccounted : StoresOk stepping ∧ ∃ t, step stepping = .next t :=
  ⟨every_stepping.1.1, every_stepping.2⟩

theorem witness_HoldersStayAccounted :
    StoresOk stepping ∧ LinkOk stepping ∧ ReceiverOk stepping ∧ HoldersOk stepping ∧ ∃ t, step stepping = .next t := by
  obtain ⟨⟨a, _, b, c, _, _, d, _⟩, e⟩ := every_stepping
  exact ⟨a, d, c, b, e⟩

theorem witness_ChainsStayFit :
    StoresOk stepping ∧ LinkOk stepping ∧ ReceiverOk stepping ∧ HoldersOk stepping ∧ ChainsFit stepping ∧
    ∃ t, step stepping = .next t := by
  obtain ⟨⟨a, x, b, c, _, _, d, _⟩, e⟩ := every_stepping
  exact ⟨a, d, c, b, x, e⟩

theorem witness_StreamsStayUnique : StreamsOk stepping ∧ ∃ t, step stepping = .next t := by
  obtain ⟨⟨_, _, _, _, _, a, _⟩, e⟩ := every_stepping
  exact ⟨a, e⟩

theorem witness_LinkStaysInOrder : LinkOk stepping ∧ BoundsOk stepping ∧ ∃ t, step stepping = .next t := by
  obtain ⟨⟨_, _, _, _, _, _, a, _, b⟩, e⟩ := every_stepping
  exact ⟨a, b, e⟩

theorem witness_NoticesStayInOrder : NoticesOk stepping ∧ ∃ t, step stepping = .next t := by
  obtain ⟨⟨_, _, _, _, _, _, _, a, _⟩, e⟩ := every_stepping
  exact ⟨a, e⟩

theorem witness_TransmitterStaysInOrder :
    StoresOk stepping ∧ LinkOk stepping ∧ ReceiverOk stepping ∧ HoldersOk stepping ∧ TransmitterOk stepping ∧
    ∃ t, step stepping = .next t := by
  obtain ⟨⟨a, _, b, c, x, _, d, _⟩, e⟩ := every_stepping
  exact ⟨a, d, c, b, x, e⟩

/-- 17, 16, 1 and no free handles; the cells of a compound claim just there, and one short. -/
theorem witness_ClaimsTakeTheLowest :
    StoresOk (filled up 495) ∧ 16 < (filled up 495).freeHandles ∧ StoresOk (filled up 496) ∧
    ¬ 16 < (filled up 496).freeHandles ∧ StoresOk (filled up 511) ∧ 1 ≤ (filled up 511).freeHandles ∧
    StoresOk (filled up 512) ∧ ¬ 1 ≤ (filled up 512).freeHandles ∧ StoresOk (crowded up 4094 [] []) ∧
    cellsFor 128 ≤ (crowded up 4094 [] []).freeCells ∧ ¬ cellsFor 129 ≤ (crowded up 4094 [] []).freeCells :=
  ⟨storesOk_filled up (by decide), by decide +kernel, storesOk_filled up (by decide), by decide +kernel,
    storesOk_filled up (by decide), by decide +kernel, storesOk_filled up (by decide), by decide +kernel,
    storesOk_crowded (by decide) (by decide), by decide +kernel, by decide +kernel⟩

/-- The record of the one frame of a crowded store. -/
theorem crowded_handle (s : State) (n : Nat) (l : List (Nat × Handle)) (octets : List Host.Cell) :
    (crowded s n l octets).handle? 0 = some (frame (.tierQueue .t3) 0 none .t3 (64 * n) (List.range n)) := rfl

/-- At a multiple of 64 with 129, 128, 1 and no free cells, and at another offset. -/
theorem witness_OctetsAreStoredInOrder :
    (∀ n, n ≤ 4096 → StoresOk (crowded up n [] []) ∧ ∃ r, (crowded up n [] []).handle? 0 = some r ∧
      r.chain.length = cellsFor r.bodyLength ∧ r.bodyLength % 64 = 0) ∧
    128 < (crowded up 3967 [] []).freeCells ∧ ¬ 128 < (crowded up 3968 [] []).freeCells ∧
    1 ≤ (crowded up 4095 [] []).freeCells ∧ ¬ 1 ≤ (crowded up 4096 [] []).freeCells ∧
    ∃ r, busy.handle? 0 = some r ∧ r.chain.length = cellsFor r.bodyLength ∧ r.bodyLength % 64 ≠ 0 := by
  refine ⟨fun n hn => ⟨storesOk_crowded hn (by simp [smallTest, Memory.wf, Table.wf, Table.risingFrom]),
    _, crowded_handle .., ?_, ?_⟩, by decide +kernel, by decide +kernel, by decide +kernel, by decide +kernel,
    _, rfl, by decide, by decide⟩
  · simp only [frame, List.length_range, cellsFor, Config.cellSize]; omega
  · simp only [frame]; omega

theorem witness_ReleasesAndTheirEvents :
    StoresOk busy ∧ (busy.handle? 0).isSome = true ∧ quiet.agent.state = .idle ∧ quiet.notices.pending = false ∧
    busy.releaseEvents = 0 ∧ (busy.withAgent { busy.agent with state := .waiting }).agent.state = .waiting ∧
    (busy.withReleaseEvents 2).releaseEvents = 1 + 1 :=
  ⟨every_busy.1, rfl, rfl, rfl, rfl, rfl, rfl⟩

/-- The hold-back below 4; 2048 octets; a cell refused; and the storing of an octet. -/
theorem witness_TributaryDataIsTaken :
    StoresOk busy ∧
    (StoresOk (good up) ∧ ((good up).port 2).ingress = .receiving 0 check8 ∧
      (∃ r, (good up).handle? 0 = some r ∧ r.chain.length = cellsFor r.bodyLength ∧ r.bodyLength < 2048 ∧
        r.bodyLength % 64 ≠ 0)) ∧
    (let s := receiving up (frame (.ingress 2) 0x1234 (some 5) .t1 2048 (List.range 32)) [] check8
     StoresOk s ∧ (s.port 2).ingress = .receiving 0 check8 ∧
      ∃ r, s.handle? 0 = some r ∧ r.chain.length = cellsFor r.bodyLength ∧ r.bodyLength = 2048) ∧
    (let s := receiving up (frame (.ingress 2) 0x1234 (some 5) .t1 64 [0]) [] [1, 2, 3]
     StoresOk s ∧ (s.port 2).ingress = .receiving 0 [1, 2, 3] ∧
      ∃ r, s.handle? 0 = some r ∧ r.chain.length = cellsFor r.bodyLength) ∧
    ∀ n, 3967 ≤ n → n ≤ 3968 →
      let s := (crowded up (n - 1) [(1, frame (.ingress 2) 0x1234 (some 5) .t1 64 [4000])] []).setPort 2
        { enabled := true, ingress := .receiving 1 check8, egress := [], sent := [.idle] }
      StoresOk s ∧ (s.port 2).ingress = .receiving 1 check8 ∧ (s.freeCells ≤ 128 ↔ n = 3968) ∧
      ∃ r, s.handle? 1 = some r ∧ r.chain.length = cellsFor r.bodyLength ∧ r.bodyLength % 64 = 0 ∧ r.bodyLength < 2048 := by
  refine ⟨every_busy.1, ⟨storesOk_of_test (by decide +kernel), by decide +kernel, _, rfl, by decide, by decide, by decide⟩,
    ⟨storesOk_of_test (by decide +kernel), by decide +kernel, _, rfl, by decide, rfl⟩,
    ⟨storesOk_of_test (by decide +kernel), by decide +kernel, _, rfl, by decide⟩, fun n h1 h2 => ?_⟩
  refine ⟨State.storesOk_of_buf (s := crowded up (n - 1) [(1, frame (.ingress 2) 0x1234 (some 5) .t1 64 [4000])] [])
    (storesOk_crowded (by omega) (by simp [smallTest, Memory.wf, Table.wf, Table.risingFrom, frame]; omega)) rfl, ?_, ?_, _,
    rfl, by decide, by decide, by decide⟩
  · rw [State.setPort_port_self]
  · simp [State.freeCells, State.heldCells, crowded, withFrames, State.setPort, State.withPorts, State.setMembers,
      State.setQueue, State.withQueues, State.withBuf, frame, Config.cellCount]
    omega

/-- The record of a held handle. -/
def recordOf (s : State) (h : Nat) (p : Handle → Bool) : Bool := s.handleTest h p

/-- A stream whose next record holds 7 octets, one less than the frame. -/
def tight : State :=
  (metered up (.metered 7 (.octets 7))).withMetering
    { records := [(7, { budget := 100, tier := some .t2, next := some 9 }), (9, { budget := 7, tier := none, next := none })]
      runtimes := [(5, .metered 7 (.octets 7))], epochElapsed := 0 }

/-- A T1 queue at its limit. -/
def full (s : State) : State := s.setQueue .t1 { limit := 1, members := [1] }

/-- A frame of the least length, with a charge that fixes its tier, ends it, or finds its queue full. -/
theorem witness_GoodFrameIsHandedOver :
    (∀ s ∈ [good (unmetered up), good tight, good (metered up (.metered 9 (.octets 7))), full (good (unmetered up))],
      (s.port 2).ingress = .receiving 0 check8 ∧ s.handle? 0 = some (frame (.ingress 2) 0x1234 (some 5) .t1 8 [0]) ∧
      check8 = octets4 (frameCheck (s.bodyOf 0)) ∧ (s.stream 5).valid = true ∧ (s.stream 5).tag = 0x1234) ∧
    ((good (unmetered up)).charge 5 8).1 = .fixed .t1 ∧ ((good tight).charge 5 8).1 = .overbudget ∧
    ((good (metered up (.metered 9 (.octets 7)))).charge 5 8).1 = .chainEnd ∧
    ((full (good (unmetered up))).charge 5 8).1 = .fixed .t1 ∧
    ¬ ((full (good (unmetered up))).queue .t1).members.length < ((full (good (unmetered up))).queue .t1).limit := by
  decide +kernel

/-- A hold-back of 3, a body of 7, a wrong check, and an entry that is gone. -/
theorem witness_BadFrameIsDiscarded :
    (let s := receiving up (frame (.ingress 2) 0x1234 (some 5) .t1 8 [0]) (octetsAt 0 body8) [1, 2, 3]
     (s.port 2).ingress = .receiving 0 [1, 2, 3] ∧ (s.handle? 0).isSome = true) ∧
    (let s := receiving up (frame (.ingress 2) 0x1234 (some 5) .t1 7 [0]) (octetsAt 0 body8) check8
     (s.port 2).ingress = .receiving 0 check8 ∧ (s.handle? 0).map (fun r => r.bodyLength) = some 7) ∧
    (let s := receiving up (frame (.ingress 2) 0x1234 (some 5) .t1 8 [0]) (octetsAt 0 body8) [0, 0, 0, 0]
     (s.port 2).ingress = .receiving 0 [0, 0, 0, 0] ∧ [0, 0, 0, 0] ≠ octets4 (frameCheck (s.bodyOf 0))) ∧
    check8 = octets4 (frameCheck ((good up).bodyOf 0)) ∧ ((good up).stream 5).valid = false := by decide +kernel

theorem witness_CloseAbortThrowsTheFrameAway :
    (busy.port 2).ingress = .receiving 0 check8 ∧ (∃ r, busy.handle? 0 = some r) ∧ StoresOk busy :=
  ⟨rfl, ⟨_, rfl⟩, every_busy.1⟩

theorem witness_EgressFrameCompletes : (busy.port 3).egress = [6] ∧ ∃ r, busy.handle? 6 = some r := ⟨rfl, _, rfl⟩

/-- The last frame that fits: its length is the remaining budget. -/
theorem witness_ChargeWithinBudget :
    (unmetered up).runtime 5 = .unmetered ∧ (metered up (.metered 7 .unbounded)).runtime 5 = .metered 7 .unbounded ∧
    (metered up (.metered 7 (.octets 8))).runtime 5 = .metered 7 (.octets 8) ∧ 8 ≤ 8 := by decide +kernel

/-- One octet too long; with no next record, an unbounded one, one that fits and one that does not. -/
theorem witness_ChargeBeyondBudget :
    (metered up (.exhausted 9)).runtime 5 = .exhausted 9 ∧ 7 < 8 ∧
    ((metered up (.metered 9 (.octets 7))).runtime 5 = .metered 9 (.octets 7) ∧
      ((metered up (.metered 9 (.octets 7))).record 9).next = none) ∧
    (let s := (metered up (.metered 7 (.octets 7))).setRecord 9 AllotRecord.powerOn
     s.runtime 5 = .metered 7 (.octets 7) ∧ (s.record 7).next = some 9 ∧ (s.record 9).budget = 0) ∧
    (let s := (metered up (.metered 7 (.octets 7))).setRecord 9 { budget := 8, tier := none, next := none }
     (s.record 7).next = some 9 ∧ 8 ≤ (s.record 9).budget.toNat) ∧
    (tight.record 7).next = some 9 ∧ ¬ 8 ≤ (tight.record 9).budget.toNat := by decide +kernel

theorem witness_TimersExpire :
    TablesOk (metered up (.exhausted 9)) ∧ (metered up (.exhausted 9)).part.epochPeriod = 0 ∧
    TablesOk (timed 1 0 0) ∧ (timed 1 0 0).part.epochPeriod ≠ 0 :=
  ⟨tablesOk_of_test (by decide +kernel), by decide +kernel, tablesOk_of_test (by decide +kernel), by decide +kernel⟩

/-- A more urgent queue over the top of the stack; the top with nothing more urgent; nothing at all. -/
theorem witness_SelectionRule :
    ((busy.queue .t1).members = 1 :: [] ∧ (∀ x : Tier, x.moreUrgent .t1 = true → (busy.queue x).members = []) ∧
      busy.tx.stack = 3 :: [] ∧ Tier.moreUrgent .t1 (busy.tierOf 3) = true ∧ (busy.handle? 1).isSome = true) ∧
    (let s := busy.setMembers .t1 []
     s.tx.stack = 3 :: [] ∧ (∀ x : Tier, x.moreUrgent (s.tierOf 3) = true → (s.queue x).members = []) ∧
      (s.handle? 3).isSome = true) ∧
    (∀ x : Tier, (up.queue x).members = []) ∧ up.tx.stack = [] := by
  refine ⟨⟨rfl, ?_, rfl, by decide +kernel, rfl⟩, ⟨rfl, ?_, rfl⟩, ?_, rfl⟩ <;> intro x <;> cases x <;> decide +kernel

/-- The end of the body, a cut with 64 octets carried, a cut with 64 octets left, and neither. -/
theorem witness_BlockSentAdvancesAndCuts :
    (∀ s ∈ [sending 200 184 184 .first false .none, sending 200 48 48 .first false .none,
        sending 200 120 120 .first false .none, sending 200 121 121 .first false .none],
      s.tx.active = some 2 ∧ (s.tx.fragment.map fun f => f.closing) = some .none ∧
      recordOf s 2 (fun r => decide (r.sentOffset ≤ r.bodyLength)) = true) ∧
    184 + 16 = 200 ∧ 48 + 16 = 64 ∧ 200 - (120 + 16) = 64 ∧ 200 - (121 + 16) < 64 ∧ up.tx.active = none := by
  decide +kernel

theorem witness_CloseMoreAndClearSent :
    (let s := sending 200 64 64 .first false .more
     s.tx.active = some 2 ∧ (s.tx.fragment.map fun f => (f.closing, f.carried)) = some (.more, 64) ∧
      recordOf s 2 (fun r => decide (64 ≤ r.sentOffset ∧ r.sentOffset ≤ r.bodyLength)) = true) ∧
    up.tx.active = none ∧ (up.withTx { up.tx with mode := .clearing }).tx.mode = .clearing ∧ up.tx.mode ≠ .clearing := by
  decide +kernel

theorem witness_CloseLastSentCompletes :
    (let s := sending 200 200 72 .next false .last
     s.tx.active = some 2 ∧ (s.tx.fragment.map fun f => (f.closing, f.carried)) = some (.last, 72) ∧
      recordOf s 2 (fun r => decide (72 ≤ r.sentOffset ∧ r.sentOffset = r.bodyLength)) = true) ∧
    up.tx.active = none := by decide +kernel

/-- The third invalid symbol has arrived. -/
def failing : State := busy.withLine { busy.line with invalidRun := 3 }

theorem witness_LeavingUpReturnsFrames :
    EveryInvariant busy ∧ busy.line.link = .up ∧ EveryInvariant failing ∧ failing.line.link = .up ∧
    failing.line.invalidRun = 3 :=
  ⟨every_busy, rfl, everyInvariant_of_test (by decide +kernel), rfl, rfl⟩

/-- The link ALIGNING with a run of IDLEs. -/
def aligning (run : Nat) : State := State.reset.withLine { State.reset.line with idleRun := run }

theorem witness_TrkLosAndAlignment :
    (State.powerOnWith 0 true).line.link = .down ∧ (State.powerOnWith 0 true).line.los = true ∧
    (aligning 14).line.link = .aligning ∧ (aligning 14).line.los = false ∧ (aligning 14).line.idleRun < 15 ∧
    (aligning 14).line.link ≠ .down := by decide

/-- DOWN after a loss by invalid symbols. -/
def lost : State := State.reset.withLine { State.reset.line with link := .down }

theorem witness_AnySymbolStartsAlignment : lost.line.link = .down ∧ lost.line.los = false := ⟨rfl, rfl⟩

/-- A run of 15 with a notice tag, and a notice queue. -/
def returning (q : NoticeQueue) : State := ((aligning 15).withPart { State.reset.part with noticeTag := 0x0900 }).withNotices q

theorem witness_SixteenIdlesBringTheLinkUp :
    (LinkOk (aligning 15) ∧ NoticesOk (aligning 15) ∧ (aligning 15).line.link = .aligning ∧
      (aligning 15).line.idleRun = 15 ∧ (aligning 15).part.noticeTag = 0) ∧
    (∀ q ∈ [State.reset.notices, { State.reset.notices with pending := true },
        { State.reset.notices with records := [{ notice := .announce .power 0, state := .sent 0 1 0 }], timer := .held 199 }],
      LinkOk (returning q) ∧ NoticesOk (returning q) ∧ (returning q).line.link = .aligning ∧
      (returning q).line.idleRun = 15 ∧ (returning q).part.noticeTag ≠ 0) := by
  refine ⟨⟨linkOk_of_test (by decide +kernel), noticesOk_of_test (by decide +kernel), rfl, rfl, rfl⟩, fun q hq => ?_⟩
  simp only [List.mem_cons, List.not_mem_nil, or_false] at hq
  rcases hq with rfl | rfl | rfl <;>
    exact ⟨linkOk_of_test (by decide +kernel), noticesOk_of_test (by decide +kernel), rfl, rfl, by decide⟩

/-- What the statements about the receiver ask of a state. -/
def Ready (s : State) : Prop := StoresOk s ∧ LinkOk s ∧ ReceiverOk s ∧ HoldersOk s ∧ s.line.link = .up

def readyTest (s : State) : Bool := linkTest s && receiverTest s && holdersTest s && decide (s.line.link = .up)

theorem ready_of_test {s : State} (h1 : StoresOk s) (h : readyTest s = true) : Ready s := by
  simp only [readyTest, Bool.and_eq_true, decide_eq_true_eq] at h
  exact ⟨h1, linkOk_of_test h.1.1.1, receiverOk_of_test h.1.1.2, holdersOk_of_test h.1.2, h.2⟩

theorem ready_busy : Ready busy := ready_of_test every_busy.1 (by decide +kernel)

theorem witness_InvalidSymbolsAndClear :
    Ready busy ∧ (let s := busy.withLine { busy.line with invalidRun := 2 }
      LinkOk s ∧ ReceiverOk s ∧ s.line.link = .up ∧ s.line.invalidRun < 3) :=
  ⟨ready_busy, linkOk_of_test (by decide +kernel), receiverOk_of_test (by decide +kernel), rfl, by decide⟩

theorem witness_OpenFirstOpensTheContext : Ready busy ∧ Ready between ∧ (between.context .t2).isOpen = true :=
  ⟨ready_busy, ready_of_test (storesOk_of_test (by decide +kernel)) (by decide +kernel), rfl⟩

/-- Context T2 between fragments, its frame already given up. -/
def givenUp : State :=
  up.setContext .t2 (.discarding { tag := some 0x0520, declared := some 9, expected := 3, mgmt := false, cause := .sequence })

/-- CLOSED, OPEN with index 1 (received 1 or another), and DISCARDING. -/
theorem witness_OpenNextContinuesTheContext :
    Ready between ∧ between.rx.fragment = none ∧ between.context .t1 = .closed ∧ (between.context .t2).isOpen = true ∧
    Ready givenUp ∧ (givenUp.context .t2).isDiscarding = true :=
  ⟨ready_of_test (storesOk_of_test (by decide +kernel)) (by decide +kernel), rfl, rfl, rfl,
    ready_of_test (storesOk_of_test (by decide +kernel)) (by decide +kernel), rfl⟩

/-- The second header octet at the ends of the range of lengths, and the fourth with the stores at the ends of both
kinds of claim. -/
theorem witness_HeaderOctetsClaimTheHandle :
    (∀ x ∈ ([0, 8] : List Byte), Ready (heading up [x] none) ∧ (heading up [x] none).context .t0 = .opened
      { handle := none, tag := none, declared := none, received := 0, expected := 0, mgmt := false }) ∧
    ((0 : Byte) ++ (8 : Byte)).toNat = 8 ∧ ((0 : Byte) ++ (7 : Byte)).toNat = 7 ∧ ((8 : Byte) ++ (0 : Byte)).toNat = 2048 ∧
    ((8 : Byte) ++ (1 : Byte)).toNat = 2049 ∧
    addressesPart 0 ((0xFF : Byte) ++ (0xC0 : Byte)) = true ∧ addressesPart 0 ((0xFF : Byte) ++ (0xC1 : Byte)) = false := by
  refine ⟨fun x hx => ?_, by decide⟩
  simp only [List.mem_cons, List.not_mem_nil, or_false] at hx
  rcases hx with rfl | rfl <;> exact ⟨ready_of_test (storesOk_of_test (by decide +kernel)) (by decide +kernel), rfl⟩

/-- Any number of free handles: 17 and 16 for an ordinary claim, 1 and 0 for a management claim. -/
theorem witness_HeaderOctetsClaimTheHandle_handles (n : Nat) (hn : n ≤ 512) :
    Ready (heading (filled up n) [0, 8, 0xFF] (some 8)) ∧
    (heading (filled up n) [0, 8, 0xFF] (some 8)).freeHandles = 512 - n := by
  refine ⟨⟨State.storesOk_of_buf (storesOk_filled up hn) rfl, linkOk_of_test rfl, receiverOk_of_test rfl,
    holdersOk_filled (s := up) rfl ?_, rfl⟩, ?_⟩
  · show [] ++ ((List.range n).map (fun h => (h, Holder.tierQueue .t3)) ++ []) ++ [] ++ [] ++ [] ++ [] = _
    simp
  · simp [State.freeHandles, heading, filled, withFrames, State.setContext, State.setFragment, State.setMembers,
      State.setQueue, Config.handleCount]

/-- Any number of free cells: 129 and 128 for an ordinary claim, 1 and 0 for a management claim. -/
theorem stores_heading_crowded {n : Nat} (hn : n ≤ 4096) (l : List Byte) (d : Option Nat) :
    StoresOk (heading (crowded up n [] []) l d) :=
  State.storesOk_of_buf (storesOk_crowded (s := up) (l := []) (octets := []) hn (by
    simp [smallTest, Memory.wf, Table.wf, Table.risingFrom])) rfl

theorem witness_HeaderOctetsClaimTheHandle_cells (n : Nat) (hn : n ∈ [3967, 3968, 4095, 4096]) :
    Ready (heading (crowded up n [] []) [0, 8, 0xFF] (some 8)) := by
  simp only [List.mem_cons, List.not_mem_nil, or_false] at hn
  rcases hn with rfl | rfl | rfl | rfl <;>
    exact ready_of_test (stores_heading_crowded (by decide) _ _) (by decide +kernel)

/-- Context T2 OPEN in handle `h` with a NEXT fragment in STORING mode. -/
def filling (s : State) (h declared received : Nat) (mgmt : Bool) (hold : List Byte) : State :=
  continuing (s.setContext .t2 (.opened { handle := some h, tag := some 0x0520, declared := some declared
                                          received := received, expected := 1, mgmt := mgmt })) .storing hold

/-- Eight octets received into H0. -/
def eight (declared : Nat) (hold : List Byte) : State :=
  filling (withFrames up [(0, frame (.reassembly .t2) 0x0520 none .t2 8 [0])] (octetsAt 0 body8)) 0 declared 8 false hold

/-- Sixty-four octets received into H1, with 4095 less `n` cells free. -/
def thin (n : Nat) (mgmt : Bool) (hold : List Byte) : State :=
  filling (crowded up n [(1, frame (.reassembly .t2) 0x0520 none .t2 64 [4095])] []) 1 65 64 mgmt hold

theorem stores_thin {n : Nat} (hn : n ≤ 4095) (mgmt : Bool) (hold : List Byte) : StoresOk (thin n mgmt hold) :=
  State.storesOk_of_buf (storesOk_crowded (s := up) (l := [(1, frame (.reassembly .t2) 0x0520 none .t2 64 [4095])])
    (octets := []) (by omega) (by simp [smallTest, Memory.wf, Table.wf, Table.risingFrom, frame]; omega)) rfl

theorem ready_eight (declared : Nat) (hold : List Byte) (h : readyTest (eight declared hold) = true) : Ready (eight declared hold) :=
  ready_of_test (State.storesOk_of_buf (s := withFrames up [(0, frame (.reassembly .t2) 0x0520 none .t2 8 [0])] (octetsAt 0 body8))
    (storesOk_of_test (by decide +kernel)) rfl) h

def hold6 : List Byte := [1, 2, 3, 4, 0x89, 0xC3]

theorem witness_DataOctetsAreReassembled :
    (Ready up ∧ ChainsFit up ∧ up.rx.fragment = none) ∧
    (Ready (eight 9 [1, 2, 3, 4, 5]) ∧ ChainsFit (eight 9 [1, 2, 3, 4, 5])) ∧
    (Ready (eight 9 hold6) ∧ ChainsFit (eight 9 hold6) ∧ hold6.length = 6) ∧
    (Ready (eight 8 hold6) ∧ ChainsFit (eight 8 hold6)) ∧
    (Ready (thin 3966 false hold6) ∧ ChainsFit (thin 3966 false hold6) ∧ 128 < (thin 3966 false hold6).freeCells) ∧
    (Ready (thin 3967 false hold6) ∧ ChainsFit (thin 3967 false hold6) ∧ ¬ 128 < (thin 3967 false hold6).freeCells) ∧
    (Ready (thin 4094 true hold6) ∧ ChainsFit (thin 4094 true hold6) ∧ 1 ≤ (thin 4094 true hold6).freeCells) ∧
    (Ready (thin 4095 true hold6) ∧ ChainsFit (thin 4095 true hold6) ∧ ¬ 1 ≤ (thin 4095 true hold6).freeCells) :=
  ⟨⟨ready_of_test (storesOk_of_test (by decide +kernel)) (by decide +kernel), chainsFit_of_test (by decide +kernel), rfl⟩,
    ⟨ready_eight _ _ (by decide +kernel), chainsFit_of_test (by decide +kernel)⟩,
    ⟨ready_eight _ _ (by decide +kernel), chainsFit_of_test (by decide +kernel), rfl⟩,
    ⟨ready_eight _ _ (by decide +kernel), chainsFit_of_test (by decide +kernel)⟩,
    ⟨ready_of_test (stores_thin (by decide) _ _) (by decide +kernel), chainsFit_of_test (by decide +kernel), by decide +kernel⟩,
    ⟨ready_of_test (stores_thin (by decide) _ _) (by decide +kernel), chainsFit_of_test (by decide +kernel), by decide +kernel⟩,
    ⟨ready_of_test (stores_thin (by decide) _ _) (by decide +kernel), chainsFit_of_test (by decide +kernel), by decide +kernel⟩,
    ready_of_test (stores_thin (by decide) _ _) (by decide +kernel), chainsFit_of_test (by decide +kernel), by decide +kernel⟩

/-- No fragment; IGNORED; TRACKING with a right and a wrong check; STORING with a wrong check, with no data, with 4
octets of data that fit and that do not, and with no cell. -/
theorem witness_CloseMoreKeepsTheContext :
    (Ready up ∧ up.rx.fragment = none) ∧ Ready (continuing up .ignored [0xFF, 0xFF]) ∧
    Ready (continuing givenUp .tracking [0xFF, 0xFF]) ∧ Ready (continuing givenUp .tracking [0xFF]) ∧
    octets2 (fragmentCheckFrom fragmentStart []) = [0xFF, 0xFF] ∧
    Ready (eight 9 [0xFF, 0xFE]) ∧ Ready (eight 9 [0xFF, 0xFF]) ∧
    (Ready (eight 12 hold6) ∧ ChainsFit (eight 12 hold6)) ∧ Ready (eight 11 hold6) ∧
    octets2 (fragmentCheckFrom fragmentStart (hold6.take 4)) = hold6.drop 4 ∧
    8 + (hold6.length - 2) ≤ 12 ∧ 11 < 8 + (hold6.length - 2) ∧
    Ready (thin 3967 false hold6) ∧ ¬ 128 < (thin 3967 false hold6).freeCells :=
  ⟨⟨ready_of_test (storesOk_of_test (by decide +kernel)) (by decide +kernel), rfl⟩,
    ready_of_test (storesOk_of_test (by decide +kernel)) (by decide +kernel),
    ready_of_test (storesOk_of_test (by decide +kernel)) (by decide +kernel),
    ready_of_test (storesOk_of_test (by decide +kernel)) (by decide +kernel), by decide +kernel,
    ready_eight _ _ (by decide +kernel), ready_eight _ _ (by decide +kernel),
    ⟨ready_eight _ _ (by decide +kernel), chainsFit_of_test (by decide +kernel)⟩, ready_eight _ _ (by decide +kernel),
    by decide +kernel, by decide, by decide, ready_of_test (stores_thin (by decide) _ _) (by decide +kernel),
    by decide +kernel⟩

/-- What the statement about CLOSE_LAST asks, tested at once. -/
theorem arriving_of_test {s : State} (h : (storesTest s && readyTest s && streamsTest s) = true) : Ready s ∧ StreamsOk s := by
  simp only [Bool.and_eq_true] at h
  exact ⟨ready_of_test (storesOk_of_test h.1.1) h.1.2, streamsOk_of_test h.2⟩

/-- Three or four requests in the inbox. -/
def waiting (n : Nat) : State :=
  let s := arrived up true
  let l := (List.range n).map fun k => k + 1
  (s.withBuf { s.buf with handles := s.buf.handles ++ l.map fun k => (k, frame .inbox 0xFFFF none .t0 0 []) }).withAgent
    { s.agent with inbox := l }

/-- An enabled P2 with 31 or 32 frames in its egress queue. -/
def routed (n : Nat) : State :=
  let s := arrived (unmetered up) false
  let l := (List.range n).map fun k => k + 1
  (s.withBuf { s.buf with handles := s.buf.handles ++ l.map fun k => (k, frame (.egress 2) 1 none .t1 0 []) }).setPort 2
    { enabled := true, ingress := .idle, egress := l, sent := [.opened] }

theorem witness_CloseLastRoutesTheFrame :
    (Ready up ∧ StreamsOk up ∧ up.rx.fragment = none) ∧
    (∀ s ∈ [continuing up .ignored [], continuing givenUp .tracking [], eight 9 [0xFF, 0xFF], eight 9 (check8 ++ [0xD3, 0xAE]),
        arrived up true, waiting 3, waiting 4, arrived up false, arrived (unmetered up) false, routed 31, routed 32],
      Ready s ∧ StreamsOk s) ∧
    octets2 (fragmentCheckFrom fragmentStart check8) = [0xD3, 0xAE] ∧
    check8 = octets4 (frameCheck ((arrived up true).bodyOf 0)) ∧
    up.lookup 0x1234 = none ∧ (unmetered up).lookup 0x1234 = some 5 ∧ (waiting 4).agent.inbox.length = 4 ∧
    ((routed 32).port 2).egress.length = 32 := by
  refine ⟨⟨(arriving_of_test (by decide +kernel)).1, (arriving_of_test (by decide +kernel)).2, rfl⟩, fun s hs => ?_,
    by decide +kernel⟩
  simp only [List.mem_cons, List.not_mem_nil, or_false] at hs
  rcases hs with rfl | rfl | rfl | rfl | rfl | rfl | rfl | rfl | rfl | rfl | rfl <;>
    exact arriving_of_test (by decide +kernel)

/-- The least store that answers a request: 2 free handles and 2 free cells. -/
theorem witness_SelectAndReleaseMoveTheWindow :
    (∀ s ∈ [up, window up 2 .part 0, window up 1 .part 0, filled up 510],
      s.Answers .arrival (.select h2 .stream 255) h2 8 ∧ s.Answers .arrival (.select h2 .stream 256) h2 8 ∧
      s.Answers .arrival (.release h2) h2 8) ∧
    (crowded up 4094 [] []).Answers .arrival (.select h2 .stream 255) h2 8 ∧ tableEntries .stream ≤ (256 : BitVec 16).toNat ∧
    ¬ tableEntries .stream ≤ (255 : BitVec 16).toNat := by
  refine ⟨fun s hs => ?_, ⟨storesOk_crowded (by decide) (by decide), rfl, (fun r hr => by cases hr),
    by decide +kernel, rfl, rfl, by decide +kernel, by decide +kernel⟩, by decide, by decide⟩
  simp only [List.mem_cons, List.not_mem_nil, or_false] at hs
  rcases hs with rfl | rfl | rfl | rfl <;>
    exact ⟨answers_of_test (by decide +kernel), answers_of_test (by decide +kernel), answers_of_test (by decide +kernel)⟩

/-- No window; another's; RANGE at the 65th entry; and the longest payload, 16 entries of 16 octets. -/
theorem witness_ReadAndStatusReport :
    up.Answers .arrival (.read h2 0 1) h2 8 ∧ (window up 1 .part 0).Answers .arrival (.read h2 0 1) h2 8 ∧
    (window up 2 .stream 0).Answers .arrival (.read h2 63 2) h2 8 ∧
    (window up 2 .streamTally 192).Answers .arrival (.read h2 48 16) h2 (8 + 258) ∧ 48 + 16 ≤ 64 ∧
    192 + 48 + 16 - 1 < 256 ∧
    up.Answers .arrival (.status h2) h2 31 ∧ (filled up 510).Answers .arrival (.status h2) h2 31 :=
  ⟨answers_of_test (by decide +kernel), answers_of_test (by decide +kernel), answers_of_test (by decide +kernel),
    answers_of_test (by decide +kernel), by decide, by decide, answers_of_test (by decide +kernel),
    answers_of_test (by decide +kernel)⟩

/-- The eight writes. -/
def writes : List Instr :=
  [.writeStream h2 0 1 [streamWords], .writeAllot h2 0 1 [allotWords], .writeStreamTally h2 0 1 [tallyWords],
   .writeTier h2 0 1 [tierWords], .writePort h2 0 1 [portWords 1], .writePart h2 0 1 [partWords],
   .writeDiscard h2 0 1 [1], .writeNotices h2 0 1 [1]]

theorem witness_RefusedWritesStoreNothing :
    (∀ x ∈ writes, ∀ s ∈ [up, window up 1 .tier 0, window up 2 .notices 0, window up 2 .tier 4],
      s.Answers .arrival x h2 10 ∧ ∃ args, requestParts x = some (h2, 4, args) ∧ ∃ data, requestOf x = some ⟨2, 9, .write 0 1 data⟩) ∧
    (window up 2 .notices 0).Holds 2 .notices 0 ∧ ¬ InWindow .tier 4 0 1 8 ∧ InWindow .tier 3 0 1 8 ∧
    (PortWords.octets (portWords 1)).length < 1 * entrySize .tier ∧
    entryFails .tier (writtenEntry .tier (TierWords.octets { tierWords with limit := 512 }) 0) ∧
    ¬ entryFails .tier (writtenEntry .tier (TierWords.octets tierWords) 0) := by
  refine ⟨fun x hx s hs => ?_, ⟨7, rfl⟩, by unfold InWindow; decide, by unfold InWindow; decide, by decide,
    by unfold entryFails; decide, by unfold entryFails; decide⟩
  have ha : ∀ s ∈ [up, window up 1 .tier 0, window up 2 .notices 0, window up 2 .tier 4], ∀ x ∈ writes,
      answersTest s .arrival x h2 10 = true := by decide +kernel
  refine ⟨answers_of_test (ha s hs x hx), ?_⟩
  simp only [writes, List.mem_cons, List.not_mem_nil, or_false] at hx
  rcases hx with rfl | rfl | rfl | rfl | rfl | rfl | rfl | rfl <;> exact ⟨_, rfl, _, rfl⟩

/-- One entry and the value its octets spell. -/
theorem spell_one {α β : Type} {parse : List Byte → Option β} {octets : α → List Byte} {e : α} {v : β}
    (h : parse (octets e) = some v) : Spell parse octets [e] 1 [v] := by
  refine ⟨rfl, fun k w hk => ?_⟩
  cases k with
  | zero => cases hk; exact ⟨e, rfl, h⟩
  | succ k => cases hk

/-- An entry whose tag S5 already holds, and one whose tag nothing else holds; the window's and the table's last entry. -/
theorem witness_WriteStreamStoresEntries :
    (let s := window (metered up .unmetered) 2 .stream 192
     s.Answers .arrival (.writeStream h2 63 1 [streamWords]) h2 8 ∧ s.Holds 2 .stream 192 ∧ InWindow .stream 192 63 1 8 ∧
      Spell parseStream StreamWords.octets [streamWords] 1 [entry5] ∧ (s.stream 5).tag = entry5.tag) ∧
    StreamsOk (window (metered up (.metered 7 (.octets 1))) 2 .stream 192) ∧
    (let s := window up 2 .stream 192
     s.Answers .arrival (.writeStream h2 63 1 [streamWords]) h2 8 ∧ StreamsOk s ∧ s.Holds 2 .stream 192 ∧ s.streams = []) :=
  ⟨⟨answers_of_test (by decide +kernel), ⟨7, rfl⟩, by unfold InWindow; decide, spell_one (by decide +kernel), rfl⟩,
    streamsOk_of_test (by decide +kernel),
    answers_of_test (by decide +kernel), streamsOk_of_test (by decide +kernel), ⟨7, rfl⟩, rfl⟩

/-- The last entry of each of the four tables. -/
theorem witness_WritesStoreTableEntries :
    ((window up 2 .allot 1023).Answers .arrival (.writeAllot h2 0 1 [allotWords]) h2 8 ∧ (window up 2 .allot 1023).Holds 2 .allot 1023 ∧
      InWindow .allot 1023 0 1 8 ∧
      Spell parseAllot AllotWords.octets [allotWords] 1 [{ budget := 100, tier := some .t2, next := some 9 }]) ∧
    ((window up 2 .tier 3).Answers .arrival (.writeTier h2 0 1 [tierWords]) h2 8 ∧ (window up 2 .tier 3).Holds 2 .tier 3 ∧
      InWindow .tier 3 0 1 8 ∧ Spell parseTier TierWords.octets [tierWords] 1 [511]) ∧
    ((window up 2 .streamTally 255).Answers .arrival (.writeStreamTally h2 0 1 [tallyWords]) h2 8 ∧
      (window up 2 .streamTally 255).Holds 2 .streamTally 255 ∧ InWindow .streamTally 255 0 1 8 ∧
      Spell parseTally TallyWords.octets [tallyWords] 1
        [{ framesToTrunk := 1, octetsToTrunk := 2, framesDelivered := 3, framesDiscarded := 4 }]) ∧
    (window up 2 .discard 19).Answers .arrival (.writeDiscard h2 0 1 [1]) h2 8 ∧ (window up 2 .discard 19).Holds 2 .discard 19 ∧
      InWindow .discard 19 0 1 8 ∧ Spell parseDiscard octets4 [1] 1 [1] :=
  ⟨⟨answers_of_test (by decide +kernel), ⟨7, rfl⟩, by unfold InWindow; decide, spell_one (by decide +kernel)⟩,
    ⟨answers_of_test (by decide +kernel), ⟨7, rfl⟩, by unfold InWindow; decide, spell_one (by decide +kernel)⟩,
    ⟨answers_of_test (by decide +kernel), ⟨7, rfl⟩, by unfold InWindow; decide, spell_one (by decide +kernel)⟩,
    answers_of_test (by decide +kernel), ⟨7, rfl⟩, by unfold InWindow; decide, spell_one (by decide +kernel)⟩

/-- A disable of P3 with a frame in transmission, and an enable of P7. -/
theorem witness_WritePortEnablesAndDisables :
    (let s := window quiet 2 .port 3
     s.Answers .arrival (.writePort h2 0 1 [portWords 0]) h2 8 ∧ HoldersOk s ∧ s.Holds 2 .port 3 ∧ InWindow .port 3 0 1 8 ∧
      Spell parsePort PortWords.octets [portWords 0] 1 [false] ∧ (s.port 3).enabled = true ∧ (s.port 3).egress = [6]) ∧
    (window up 2 .port 7).Answers .arrival (.writePort h2 0 1 [portWords 1]) h2 8 ∧ HoldersOk (window up 2 .port 7) ∧
    InWindow .port 7 0 1 8 ∧ Spell parsePort PortWords.octets [portWords 1] 1 [true] :=
  ⟨⟨answers_of_test (by decide +kernel), holdersOk_of_test (by decide +kernel), ⟨7, rfl⟩, by unfold InWindow; decide,
      spell_one (by decide +kernel), rfl, rfl⟩,
    answers_of_test (by decide +kernel), holdersOk_of_test (by decide +kernel), by unfold InWindow; decide,
    spell_one (by decide +kernel)⟩

/-- A notice queue with its timer running (UP with a tag), held (UP without one), stopped with a QUEUED record, and
stopped with none; tags of zero and not. -/
theorem witness_WritePartSetsPeriodAndTag :
    (∀ s ∈ [window quiet 2 .part 0, window (quiet.withPart { quiet.part with noticeTag := 0 }) 2 .part 0 |>.withNotices
          { quiet.notices with timer := .held 5 }, window up 2 .part 0,
        window (up.withNotices { up.notices with records := [] }) 2 .part 0],
      s.Answers .arrival (.writePart h2 0 1 (partWords :: [])) h2 8 ∧
      s.Answers .arrival (.writePart h2 0 1 ({ partWords with noticeTag := 0 } :: [])) h2 8 ∧ NoticesOk s ∧ s.Holds 2 .part 0 ∧
      s.line.link = .up) ∧ InWindow .part 0 0 1 8 := by
  refine ⟨fun s hs => ?_, by unfold InWindow; decide⟩
  simp only [List.mem_cons, List.not_mem_nil, or_false] at hs
  rcases hs with rfl | rfl | rfl | rfl <;>
    exact ⟨answers_of_test (by decide +kernel), answers_of_test (by decide +kernel), noticesOk_of_test (by decide +kernel),
      ⟨7, rfl⟩, rfl⟩

/-- Indices at the end of the range; a tail with and without a next; an acknowledgement that names the SENT record, with
and without a record behind it, and one that names none. -/
theorem witness_AppendAndAcknowledge :
    (let s := metered up (.exhausted 9)
     s.Answers .arrival (.append h2 1024 0) h2 10 ∧ s.Answers .arrival (.append h2 1023 1023) h2 10 ∧ s.Answers .arrival (.append h2 7 9) h2 10 ∧
      TablesOk s ∧ (s.record 7).next ≠ none ∧ (s.record 1023).next = none ∧ s.runtime 5 = .exhausted 9 ∧
      (s.record 9).next = none) ∧
    (quiet.Answers .arrival (.acknowledge h2 0) h2 8 ∧ NoticesOk quiet ∧ quiet.notices.records =
      { notice := .announce .power 0, state := .sent 0 1 0 } :: [{ notice := .chainEnd 5 9, state := .queued }] ∧
      quiet.line.link = .up ∧ quiet.part.noticeTag ≠ 0) ∧
    (let s := quiet.withNotices { quiet.notices with records := [{ notice := .announce .power 0, state := .sent 0 4 3 }] }
     s.Answers .arrival (.acknowledge h2 0) h2 8 ∧ NoticesOk s) ∧
    up.Answers .arrival (.acknowledge h2 0) h2 8 ∧ NoticesOk up ∧ ∀ r ∈ up.notices.records, r.state = .queued := by
  refine ⟨⟨answers_of_test (by decide +kernel), answers_of_test (by decide +kernel), answers_of_test (by decide +kernel),
      tablesOk_of_test (by decide +kernel), by decide +kernel, by decide +kernel, by decide +kernel, by decide +kernel⟩,
    ⟨answers_of_test (by decide +kernel), every_quiet.2.2.2.2.2.2.2.1, rfl, rfl, by decide⟩,
    ⟨answers_of_test (by decide +kernel), noticesOk_of_test (by decide +kernel)⟩,
    answers_of_test (by decide +kernel), noticesOk_of_test (by decide +kernel), by decide +kernel⟩

theorem witness_RestartFlushesThePart :
    (quiet.Answers .arrival (.restart h2) h2 8 ∧ HoldersOk quiet ∧ ReceiverOk quiet ∧ TablesOk quiet ∧ quiet.line.link = .up ∧
      quiet.part.noticeTag ≠ 0) ∧
    State.reset.Answers .arrival (.restart h2) h2 8 ∧ HoldersOk State.reset ∧ ReceiverOk State.reset ∧ TablesOk State.reset ∧
    State.reset.line.link ≠ .up :=
  ⟨⟨answers_of_test (by decide +kernel), every_quiet.2.2.1, every_quiet.2.2.2.1, every_quiet.2.2.2.2.2.1.1, rfl, by decide⟩,
    answers_of_test (by decide +kernel), every_reset.2.2.1, every_reset.2.2.2.1, every_reset.2.2.2.2.2.1.1, by decide⟩

theorem witness_PortResetFlushesThePort :
    quiet.Answers .arrival (.portReset h2 8) h2 8 ∧ quiet.Answers .arrival (.portReset h2 7) h2 8 ∧ quiet.Answers .arrival (.portReset h2 2) h2 8 ∧
    quiet.Answers .arrival (.portReset h2 3) h2 8 ∧ HoldersOk quiet ∧ (quiet.port 2).ingress = .receiving 0 check8 ∧
    (quiet.port 3).egress = [6] ∧ quiet.notices.pending = false :=
  ⟨answers_of_test (by decide +kernel), answers_of_test (by decide +kernel), answers_of_test (by decide +kernel),
    answers_of_test (by decide +kernel), every_quiet.2.2.1, by decide +kernel, by decide +kernel, rfl⟩

/-- States, commands and reply lengths that the statements on each request are witnessed with at the other two turns: the
window where the command needs one, and the reply of a READ of 16 STREAM_TALLY entries. -/
def turns : List (State × Instr × Nat) :=
  [(quiet, .select h2 .stream 255, 8), (quiet, .release h2, 8), (window quiet 2 .streamTally 192, .read h2 48 16, 266),
   (window quiet 2 .notices 0, .read h2 0 16, 138), (quiet, .status h2, 31),
   (window quiet 2 .notices 0, .writeNotices h2 0 1 [1], 10), (window quiet 2 .stream 192, .writeStream h2 63 1 [streamWords], 10),
   (window quiet 2 .allot 1023, .writeAllot h2 0 1 [allotWords], 10), (window quiet 2 .tier 3, .writeTier h2 0 1 [tierWords], 10),
   (window quiet 2 .streamTally 255, .writeStreamTally h2 0 1 [tallyWords], 10),
   (window quiet 2 .discard 19, .writeDiscard h2 0 1 [1], 10), (window quiet 2 .port 3, .writePort h2 0 1 [portWords 0], 10),
   (window quiet 2 .part 0, .writePart h2 0 1 [partWords], 10), (quiet, .append h2 1023 1023, 10),
   (quiet, .acknowledge h2 0, 8), (quiet, .restart h2, 8), (quiet, .portReset h2 3, 8)]

/-- The statements on SELECT and RELEASE, READ and STATUS, the WRITEs, APPEND and ACKNOWLEDGE, RESTART and PORT-RESET, at
an attempt event and at a retry, with three requests behind and every invariant met. -/
theorem witness_turns : ∀ e ∈ turns,
    EveryInvariant (headed e.1 e.2.1) ∧ (headed e.1 e.2.1).agent.window = e.1.agent.window ∧
    (headed e.1 e.2.1).Answers (.attempt 50 [51, 52, 53]) e.2.1 h2 e.2.2 ∧
    EveryInvariant (retrying (headed e.1 e.2.1)) ∧
    (retrying (headed e.1 e.2.1)).Answers (.retry 50 [51, 52, 53]) e.2.1 h2 e.2.2 := by
  have ht : turns.all (fun e =>
      everyTest (headed e.1 e.2.1) && answersTest (headed e.1 e.2.1) (.attempt 50 [51, 52, 53]) e.2.1 h2 e.2.2 &&
        everyTest (retrying (headed e.1 e.2.1)) &&
        answersTest (retrying (headed e.1 e.2.1)) (.retry 50 [51, 52, 53]) e.2.1 h2 e.2.2) = true := by decide +kernel
  intro e he
  have h := List.all_eq_true.mp ht e he
  simp only [Bool.and_eq_true] at h
  exact ⟨everyInvariant_of_test h.1.1.1, rfl, answers_of_test h.1.1.2, everyInvariant_of_test h.1.2, answers_of_test h.2⟩

/-- The shortest malformed request; and a SELECT with the number its controller used last. -/
theorem witness_MalformedAndRepeatedRequests :
    ((Instr.malformedRequest .t0 true [0x70, 0x01, 4, 9, 7, 0]).wellFormed = true ∧ StoresOk up ∧ up.agent.state = .idle ∧
      up.agent.inbox = [] ∧ up.releaseEvents = 0 ∧ 2 ≤ up.freeHandles ∧ cellsFor (2 + 6) + 1 ≤ up.freeCells) ∧
    (let s := up.withAgent { up.agent with records := up.agent.records.set 2 (some { number := 9, status := .range }) }
     requestParts (.select h2 .part 0) = some (h2, 1, [6, 0, 0]) ∧ (Instr.select h2 .part 0).wellFormed = true ∧
      s.agent.records.get h2.controller = some { number := 9, status := .range } ∧ StoresOk s ∧ s.agent.state = .idle ∧
      s.agent.inbox = [] ∧ s.releaseEvents = 0 ∧ 2 ≤ s.freeHandles ∧
      cellsFor (s.bodyOfRequest (.select h2 .part 0)).length + 1 ≤ s.freeCells) := by
  refine ⟨⟨by decide, storesOk_of_test (by decide +kernel), rfl, rfl, rfl, by decide +kernel, by decide +kernel⟩,
    by decide, rfl, rfl, storesOk_of_test (by decide +kernel), rfl, rfl, rfl, by decide +kernel, by decide +kernel⟩

/-- A body of 2053 octets; no handle, one, two; no cell, one; four requests, three, none; and a WAITING agent with three,
with none. -/
theorem witness_RequestsWaitInTheInbox :
    requestParts (.status h2) = some (h2, 7, [0]) ∧
    2048 < (up.bodyOfRequest (.writeStream h2 0 1 (List.replicate 146 streamWords))).length ∧
    (up.bodyOfRequest (.status h2)).length = 8 ∧
    (StoresOk (filled up 512) ∧ (filled up 512).freeHandles = 0) ∧
    (StoresOk (crowded up 4096 [] []) ∧ (crowded up 4096 [] []).freeCells < cellsFor 8 ∧
      1 ≤ (crowded up 4096 [] []).freeHandles) ∧
    (StoresOk (waiting 4) ∧ (waiting 4).agent.inbox.length = 4) ∧ (StoresOk (waiting 3) ∧ (waiting 3).agent.inbox ≠ []) ∧
    (∀ s ∈ [retrying (waiting 3), retrying up], StoresOk s ∧ s.agent.state = .waiting ∧ s.agent.inbox.length < 4 ∧
      1 ≤ s.freeHandles ∧ cellsFor 8 ≤ s.freeCells) ∧
    (StoresOk (filled up 511) ∧ (filled up 511).freeHandles = 1 ∧ (filled up 511).agent.inbox = []) ∧
    (StoresOk (crowded up 4095 [] []) ∧ (crowded up 4095 [] []).freeCells = cellsFor 8) :=
  ⟨rfl, by decide +kernel, by decide +kernel, ⟨storesOk_filled up (by decide), by decide +kernel⟩,
    ⟨storesOk_crowded (by decide) (by decide), by decide +kernel, by decide +kernel⟩,
    ⟨storesOk_of_test (by decide +kernel), rfl⟩, ⟨storesOk_of_test (by decide +kernel), by decide⟩,
    fun s hs => by
      have h : (storesTest s && decide (s.agent.state = .waiting ∧ s.agent.inbox.length < 4 ∧ 1 ≤ s.freeHandles ∧
          cellsFor 8 ≤ s.freeCells)) = true := by revert s; decide +kernel
      simp only [Bool.and_eq_true, decide_eq_true_eq] at h
      exact ⟨storesOk_of_test h.1, h.2⟩,
    ⟨storesOk_filled up (by decide), by decide +kernel, rfl⟩, storesOk_crowded (by decide) (by decide), by decide +kernel⟩

/-- A request in the inbox with a body of 10 octets of cell 11, and the other frames of `busy`. -/
def asking (body : List Byte) : State :=
  (busy.setHandle 5 (frame .inbox 0xFFFF none .t0 10 [11])).withBuf
    { handles := (busy.setHandle 5 (frame .inbox 0xFFFF none .t0 10 [11])).buf.handles
      octets := (octetsAt 11 body).filter fun e => decide (e.2 ≠ 0) }

/-- One request in the inbox of a part with no free cell. -/
def starved : State :=
  let s := crowded up 4095 [(1, frame .inbox 0xFFFF none .t0 8 [4095])] []
  s.withAgent { s.agent with inbox := [1] }

theorem witness_AttemptsAnswerTheHead :
    up.agent.inbox = [] ∧ (StoresOk starved ∧ HoldersOk starved ∧ starved.agent.inbox = 1 :: [] ∧
      starved.freeCells < cellsFor (starved.verdict (starved.bodyOf 1)).replyLength) ∧
    (StoresOk busy ∧ HoldersOk busy ∧ busy.agent.inbox = 5 :: [] ∧ busy.agent.state = .idle ∧ 1 ≤ busy.freeHandles ∧
      1 ≤ busy.freeCells ∧ (busy.verdict (busy.bodyOf 5)).plain = true) ∧
    (let s := asking [0xFF, 0xFF, 0x70, 0x01, 2, 9, 1, 6, 0, 0]
     StoresOk s ∧ HoldersOk s ∧ s.agent.inbox = 5 :: [] ∧ (s.verdict (s.bodyOf 5)).plain = true ∧
      s.verdict (s.bodyOf 5) = .fresh ⟨2, 9, .select .part 0⟩ (.done (.select .part 0))) ∧
    (let s := asking [0xFF, 0xFF, 0x70, 0x01, 2, 9, 2, 0, 0, 0]
     (s.verdict (s.bodyOf 5)).plain = true ∧ s.verdict (s.bodyOf 5) = .fresh ⟨2, 9, .release⟩ (.done .release)) ∧
    (busy.withAgent { busy.agent with state := .waiting }).agent.state = .waiting := by
  refine ⟨rfl, ⟨State.storesOk_of_buf (storesOk_crowded (s := up) (n := 4095) (l := [(1, frame .inbox 0xFFFF none .t0 8 [4095])])
      (octets := []) (by decide) (by decide +kernel)) rfl, holdersOk_of_test (by decide +kernel), rfl, by decide +kernel⟩,
    ⟨every_busy.1, every_busy.2.2.1, rfl, rfl, by decide +kernel, by decide +kernel, by decide +kernel⟩,
    ⟨storesOk_of_test (by decide +kernel), holdersOk_of_test (by decide +kernel), by decide +kernel, by decide +kernel,
      by decide +kernel⟩, ⟨by decide +kernel, by decide +kernel⟩, rfl⟩

/-- A QUEUED record of the same matter behind a SENT one; none of it with 15 and with 16 records. -/
theorem witness_RaisesCoalesceDropOrAppend :
    busy.notices.records[1]? = some { notice := .chainEnd 5 9, state := .queued } ∧
    Notice.sameMatter (.chainEnd 5 9) (.chainEnd 5 7) = true ∧ Notice.sameMatter (.chainEnd 5 9) (.chainEnd 6 9) = false ∧
    (∀ n ∈ [15, 16], ∀ r ∈ (List.range n).map (fun k => NoticeRecord.mk (.chainEnd (Fin.ofNat 256 k) 0) .queued),
      r.notice.sameMatter (.chainEnd 16 0) = false) := by decide +kernel

/-- The conditions of a first send, of a pending retry and of an expiry after 3 and after 4 sends, with and without
room. -/
theorem witness_NoticesAreSentAndResent :
    (let s := up.withPart { up.part with noticeTag := 0x0900 }
     StoresOk s ∧ s.line.link = .up ∧ s.part.noticeTag ≠ 0 ∧ s.notices.pending = false ∧
      s.notices.records = { notice := .announce .power 0, state := .queued } :: [] ∧ 1 ≤ s.freeHandles ∧ 1 ≤ s.freeCells) ∧
    (StoresOk (filled up 512) ∧ ¬ (1 ≤ (filled up 512).freeHandles ∧ 1 ≤ (filled up 512).freeCells)) ∧
    (let s := busy.withNotices { busy.notices with timer := .stopped, pending := true }
     StoresOk s ∧ s.line.link = .up ∧ s.part.noticeTag ≠ 0 ∧ s.notices.pending = true) ∧
    (StoresOk busy ∧ busy.notices.timer = .running 5 ∧ busy.notices.records =
      { notice := .announce .power 0, state := .sent 0 1 0 } :: [{ notice := .chainEnd 5 9, state := .queued }]) ∧
    up.notices.timer = .stopped ∧ 3 < 4 ∧ 4 ≤ 4 :=
  ⟨⟨storesOk_of_test (by decide +kernel), rfl, by decide, rfl, rfl, by decide +kernel, by decide +kernel⟩,
    ⟨storesOk_filled up (by decide), by decide +kernel⟩, ⟨storesOk_of_test (by decide +kernel), rfl, by decide, rfl⟩,
    ⟨every_busy.1, rfl, rfl⟩, rfl, by decide, by decide⟩

end Sys2Proof.Tests
end

section
/-! PROOFS. Power-on reset (R18): the stores are full, the collections are empty, and the first grants are H0 and
cell 0. -/

namespace Sys2Proof.Machine

/-- The search stops where it starts when its start is unused. -/
theorem lowestFrom_of_not_mem {used : List Nat} {n : Nat} (h : n ∉ used) (fuel : Nat) :
    lowestFrom used n fuel = n := by
  cases fuel with
  | zero => rfl
  | succ f => simp [lowestFrom, h]

namespace State

/-! ## What power-on reset leaves in the collections of R3 -/

section PowerOn

variable (s : State) (straps : BitVec 6) (los : Bool)

@[simp] theorem powerOn_handles : (s.powerOn straps los).buf.handles = [] := rfl

@[simp] theorem powerOn_tx :
    (s.powerOn straps los).tx = { mode := .offline, active := none, fragment := none, stack := [] } := rfl

@[simp] theorem powerOn_inbox : (s.powerOn straps los).agent.inbox = [] := rfl

@[simp] theorem powerOn_port (p : Port) : (s.powerOn straps los).port p = PortState.powerOn := by
  simp [port, powerOn, powerOnWith, Vector.get_eq_getElem]

@[simp] theorem powerOn_queue (q : Tier) :
    (s.powerOn straps los).queue q = { limit := Config.powerOnLimit, members := [] } := by
  simp [queue, powerOn, powerOnWith, Vector.get_eq_getElem]

@[simp] theorem powerOn_context (q : Tier) : (s.powerOn straps los).context q = .closed := by
  simp [context, powerOn, powerOnWith, Vector.get_eq_getElem]

theorem powerOn_members : (s.powerOn straps los).members = [] := by
  simp [members, PortState.powerOn]

theorem powerOn_noWaiter : (s.powerOn straps los).NoWaiter := ⟨rfl, rfl, rfl⟩

end PowerOn

/-! ## Full stores -/

variable {s : State}

theorem handle?_of_handles_nil (he : s.buf.handles = []) (h : Nat) : s.handle? h = none := by
  simp [handle?, he]

theorem heldCells_of_handles_nil (he : s.buf.handles = []) : s.heldCells = [] := by
  simp [heldCells, he]

theorem freeHandles_of_handles_nil (he : s.buf.handles = []) : s.freeHandles = 512 := by
  simp [freeHandles, he, Config.handleCount]

theorem freeCells_of_heldCells_nil (hc : s.heldCells = []) : s.freeCells = 4096 := by
  simp [freeCells, hc, Config.cellCount]

theorem lowestHandle_of_handles_nil (he : s.buf.handles = []) : s.lowestHandle = 0 :=
  lowestFrom_of_not_mem (by simp [he]) _

theorem lowestCell_of_heldCells_nil (hc : s.heldCells = []) : s.lowestCell = 0 :=
  lowestFrom_of_not_mem (by simp [hc]) _

theorem handleGranted_of_handles_nil (he : s.buf.handles = []) (mgmt : Bool) : s.handleGranted mgmt = true := by
  cases mgmt <;> simp [handleGranted, freeHandles_of_handles_nil he, Config.reserveHandles]

theorem cellGranted_of_heldCells_nil (hc : s.heldCells = []) (mgmt : Bool) : s.cellGranted mgmt = true := by
  cases mgmt <;> simp [cellGranted, freeCells_of_heldCells_nil hc, Config.reserveCells]

/-- The first handle, taken with an empty chain, holds no cell. -/
theorem heldCells_setHandle_of_handles_nil (he : s.buf.handles = []) (h : Nat) {r : Handle} (hr : r.chain = []) :
    (s.setHandle h r).heldCells = [] := by
  have hkeep : (s.setHandle h r).heldCells = s.heldCells := flatMap_put_new hr (by simp [he])
  rw [hkeep, heldCells_of_handles_nil he]

/-! ## The first grants -/

/-- The first octet of a body claims the lowest-numbered free cell (R1, R6). -/
theorem appendOctet_first {mgmt : Bool} {h : Nat} {r : Handle} (b : Byte) (hr : s.handle? h = some r)
    (hlen : r.bodyLength = 0) (hg : s.cellGranted mgmt = true) :
    ∃ v q, s.appendOctet mgmt h b = some v ∧ v.handle? h = some q ∧ q.chain = r.chain ++ [s.lowestCell] := by
  have hsome : s.appendOctet mgmt h b ≠ none := by simp [appendOctet_none hr, hg]
  obtain ⟨v, hv⟩ := Option.ne_none_iff_exists'.1 hsome
  obtain ⟨chain, hchain, -, hq, -⟩ := appendOctet_spec hr hv
  exact ⟨v, _, hv, hq, by simpa [hlen] using hchain⟩

/-- Taking cells extends a chain at its end, whatever the stores hold (R1). -/
theorem takeCells_extends (n : Nat) {h : Nat} {s : State} {r : Handle} (hr : s.handle? h = some r) :
    ∃ cells, (s.takeCells h n).handle? h = some { r with chain := r.chain ++ cells } := by
  induction n generalizing s r with
  | zero => exact ⟨[], by simpa [takeCells] using hr⟩
  | succ n ih =>
    obtain ⟨cells, hcells⟩ := ih (takeCell_handle?_self hr)
    exact ⟨s.lowestCell :: cells, by simpa [takeCells] using hcells⟩

/-- The first of one or more cells taken for an empty chain is the lowest-numbered free one (R1). -/
theorem takeCells_head {n h : Nat} {r : Handle} (hn : 1 ≤ n) (hr : s.handle? h = some r) (hnil : r.chain = []) :
    ∃ q, (s.takeCells h n).handle? h = some q ∧ q.chain.head? = some s.lowestCell := by
  obtain ⟨m, rfl⟩ := Nat.exists_eq_add_of_le' hn
  obtain ⟨cells, hcells⟩ := takeCells_extends m (takeCell_handle?_self hr)
  exact ⟨_, hcells, by simp [hnil]⟩

/-- With every handle FREE, a claim of either kind takes H0, and the first cell of that handle is cell 0. -/
theorem claimHandle_of_handles_nil (he : s.buf.handles = []) (mgmt : Bool) (holder : Holder) (tag : Tag) (tier : Tier)
    (stream : Option StreamIx) :
    ∃ u, s.claimHandle mgmt holder tag tier stream = some (0, u) ∧
      ∀ m b, ∃ v r, u.appendOctet m 0 b = some v ∧ v.handle? 0 = some r ∧ r.chain = [0] := by
  have hcells := heldCells_setHandle_of_handles_nil he 0 (r := Handle.granted holder tag tier stream) rfl
  refine ⟨s.setHandle 0 (Handle.granted holder tag tier stream), ?_, fun m b => ?_⟩
  · simp [claimHandle, handleGranted_of_handles_nil he, lowestHandle_of_handles_nil he]
  · obtain ⟨v, r, hv, hr, hchain⟩ :=
      appendOctet_first b (setHandle_handle?_self ..) rfl (cellGranted_of_heldCells_nil hcells m)
    exact ⟨v, r, hv, hr, by rw [hchain, lowestCell_of_heldCells_nil hcells]; rfl⟩

/-- With every handle FREE, a compound claim that the cell store can meet takes H0 with cell 0 first (R9). -/
theorem claimCompound_of_handles_nil (he : s.buf.handles = []) (tag : Tag) {n : Nat} (hpos : 1 ≤ cellsFor n)
    (hfit : cellsFor n ≤ 4096) :
    ∃ u r, s.claimCompound tag n = some (0, u) ∧ u.handle? 0 = some r ∧ r.chain.head? = some 0 := by
  have hroom : 1 ≤ s.freeHandles ∧ cellsFor n ≤ s.freeCells := by
    rw [freeHandles_of_handles_nil he, freeCells_of_heldCells_nil (heldCells_of_handles_nil he)]
    exact ⟨by decide, hfit⟩
  have hcells := heldCells_setHandle_of_handles_nil he 0 (r := Handle.granted .agentBuild tag .t0 none) rfl
  obtain ⟨r, hr, hhead⟩ :=
    takeCells_head hpos (setHandle_handle?_self s 0 (Handle.granted .agentBuild tag .t0 none)) rfl
  refine ⟨_, r, ?_, hr, by rw [hhead, lowestCell_of_heldCells_nil hcells]⟩
  rw [claimCompound, if_pos hroom, lowestHandle_of_handles_nil he]

end State

/-- Settles O4: power-on reset lists no handle, and the full stores alone decide the first grants. -/
theorem powerOnStoresAreFree : Obligations.PowerOnStoresAreFree := by
  intro straps los s
  have he := State.powerOn_handles s straps los
  have hcells := State.heldCells_of_handles_nil he
  refine ⟨s.powerOn straps los, rfl, fun h _ => State.handle?_of_handles_nil he h, fun i _ => by simp [hcells],
    State.powerOn_members s straps los, State.powerOn_noWaiter s straps los, State.freeHandles_of_handles_nil he,
    State.freeCells_of_heldCells_nil hcells, fun u => ⟨rfl, rfl⟩, State.claimHandle_of_handles_nil he,
    fun tag n => State.claimCompound_of_handles_nil he tag⟩

end Sys2Proof.Machine
end

section
/-! PROOFS. The end of a frame in progress at a tributary ingress (R46, R48): what CLOSE ABORT and an invalid symbol do in
each ingress state, and what SKIPPING ignores. -/

namespace Sys2Proof.Machine

variable {s t u : State} {p : Port}

/-- A port set in one state is set the same in another with the same ports. -/
theorem SetsIngress.of_ports {v : Ingress} (h : SetsIngress p v s t) (hu : u.ports = t.ports) : SetsIngress p v s u :=
  ⟨(State.port_of_ports hu p).trans h.1, fun q hq => (State.port_of_ports hu q).trans (h.2 q hq)⟩

/-- A state sets an ingress to what it holds already. -/
theorem SetsIngress.refl {v : Ingress} (hi : (s.port p).ingress = v) : SetsIngress p v s s :=
  ⟨by rw [← hi], fun _ _ => rfl⟩

namespace State

/-! ## An ingress that is set, alone or with a count or a discard -/

/-- Setting an ingress to what it holds already changes nothing. -/
theorem setIngress_self {v : Ingress} (hi : (s.port p).ingress = v) : s.setIngress p v = s := by
  have hp : ({ s.port p with ingress := v } : PortState) = s.port p := by rw [← hi]
  have hv : s.ports.set p.val (s.port p) = s.ports := by simp [port, Vector.get_eq_getElem]
  rw [setIngress, hp, setPort, hv, withPorts]

theorem changesOnly_setIngress (p : Port) (v : Ingress) : ChangesOnly [.ports] s (s.setIngress p v) := by
  simp [ChangesOnly]

/-- A frame in TAG_WAIT ends: its ingress is set and its cause is counted (R190). -/
theorem setIngress_countDiscard_spec (s : State) (p : Port) (v : Ingress) (c : Cause) (o : Option StreamIx) :
    SetsIngress p v s ((s.setIngress p v).countDiscard c o) ∧
    ChangesOnly [.ports, .tallies] s ((s.setIngress p v).countDiscard c o) ∧
    Counted s ((s.setIngress p v).countDiscard c o) c o :=
  ⟨(setsIngress_setIngress p v).of_ports (countDiscard_ports ..), by simp [ChangesOnly],
    (counted_countDiscard c o).of_eq (setIngress_tallies ..)⟩

/-- A frame in RECEIVING ends: its ingress is set and its handle discarded (R189). -/
theorem setIngress_discard_spec (s : State) (p : Port) (v : Ingress) (c : Cause) (h : Nat) :
    SetsIngress p v s ((s.setIngress p v).discard c h) ∧
    ChangesOnly [.buf, .ports, .tallies, .releaseEvents] s ((s.setIngress p v).discard c h) ∧
    Discarded s ((s.setIngress p v).discard c h) c h :=
  ⟨(setsIngress_setIngress p v).of_ports (discard_ports ..), by simp [ChangesOnly],
    (discarded_discard c h).of_eq (setIngress_buf ..) (setIngress_tallies ..) (setIngress_releaseEvents ..)⟩

/-! ## The cells of a discarded frame (R12) -/

theorem freeHandle_frees_chain (hs : StoresOk s) {h : Nat} {r : Handle} (hr : s.handle? h = some r) :
    ∀ x ∈ r.chain, x ∉ (s.freeHandle h).heldCells := by
  obtain ⟨a, b, hheld, -, hfree, -⟩ := heldCells_split hs hr
  obtain ⟨-, -, hnodup, -⟩ := hs
  have hperm : s.heldCells.Perm (r.chain ++ (a ++ b)) := by
    simpa [hheld] using (List.perm_append_comm (l₁ := a) (l₂ := r.chain)).append_right b
  rw [hfree]
  exact fun x hx hrest => List.disjoint_of_nodup_append (hperm.nodup hnodup) hx hrest

theorem discard_heldCells (c : Cause) (h : Nat) : (s.discard c h).heldCells = (s.freeHandle h).heldCells := by
  simp [heldCells, discard, discardQuiet]

theorem discard_frees_chain (hs : StoresOk s) {h : Nat} {r : Handle} (hr : s.handle? h = some r) (c : Cause) :
    ∀ x ∈ r.chain, x ∉ (s.discard c h).heldCells :=
  discard_heldCells (s := s) c h ▸ freeHandle_frees_chain hs hr

/-! ## The end of the frame in progress, by the state of its ingress -/

section EndIngress

variable (c : Cause) (next : Ingress)

theorem endIngress_of_idle (hi : (s.port p).ingress = .idle) : s.endIngress p c next = s := by
  simp [endIngress, hi]

theorem endIngress_of_skipping (hi : (s.port p).ingress = .skipping) : s.endIngress p c next = s := by
  simp [endIngress, hi]

theorem endIngress_of_tagWait {first : Option Byte} (hi : (s.port p).ingress = .tagWait first) :
    s.endIngress p c next = (s.setIngress p next).countDiscard c none := by
  simp [endIngress, hi]

theorem endIngress_of_receiving {h : Nat} {hold : List Byte} (hi : (s.port p).ingress = .receiving h hold) :
    s.endIngress p c next = (s.setIngress p next).discard c h := by
  simp [endIngress, hi]

end EndIngress

/-! ## CLOSE ABORT, by the state of the ingress (R46) -/

theorem ingressAbort_of_idle (hi : (s.port p).ingress = .idle) : s.ingressAbort p = s := by
  rw [ingressAbort, endIngress_of_idle _ _ hi, setIngress_self hi]

theorem ingressAbort_of_skipping (hi : (s.port p).ingress = .skipping) : s.ingressAbort p = s.setIngress p .idle := by
  rw [ingressAbort, endIngress_of_skipping _ _ hi]

/-- The frame's end leaves the ingress IDLE, so the abort adds nothing to it. -/
theorem ingressAbort_of_setsIdle (h : SetsIngress p .idle s (s.endIngress p .ingressAborted .idle)) :
    s.ingressAbort p = s.endIngress p .ingressAborted .idle :=
  setIngress_self (by rw [h.1])

theorem ingressAbort_of_tagWait {first : Option Byte} (hi : (s.port p).ingress = .tagWait first) :
    s.ingressAbort p = (s.setIngress p .idle).countDiscard .ingressAborted none := by
  have he := endIngress_of_tagWait .ingressAborted .idle hi
  rw [ingressAbort_of_setsIdle (he ▸ (setIngress_countDiscard_spec ..).1), he]

theorem ingressAbort_of_receiving {h : Nat} {hold : List Byte} (hi : (s.port p).ingress = .receiving h hold) :
    s.ingressAbort p = (s.setIngress p .idle).discard .ingressAborted h := by
  have he := endIngress_of_receiving .ingressAborted .idle hi
  rw [ingressAbort_of_setsIdle (he ▸ (setIngress_discard_spec ..).1), he]

/-! ## The other symbols in SKIPPING (R48) -/

theorem ingressData_of_skipping (hi : (s.port p).ingress = .skipping) (b : Byte) : s.ingressData p b = s := by
  simp [ingressData, hi]

theorem ingressEnd_of_skipping (hi : (s.port p).ingress = .skipping) : s.ingressEnd p = s.setIngress p .idle := by
  simp [ingressEnd, hi]

/-- With no frame in progress OPEN is taken by the enabled field alone (R41). -/
theorem ingressOpen_of_skipping (hi : (s.port p).ingress = .skipping) :
    s.ingressOpen p = s.setIngress p (if (s.port p).enabled then .tagWait none else .idle) := by
  rw [ingressOpen, endIngress_of_skipping _ _ hi, apply_ite (s.setIngress p)]

end State

/-! ## The commands -/

section Commands

variable (p : Port) (s : State)

theorem exec_tributaryOpen : exec (.tributaryOpen p) s = .next (s.ingressOpen p).settle := rfl

theorem exec_tributaryDataOctet (b : Byte) :
    exec (.tributaryDataOctet p b) s = .next (s.ingressData p b).settle := rfl

theorem exec_closeEnd : exec (.closeEnd p) s = .next (s.ingressEnd p).settle := rfl

theorem exec_closeAbort : exec (.closeAbort p) s = .next (s.ingressAbort p).settle := rfl

theorem exec_tributaryInvalidSymbol :
    exec (.tributaryInvalidSymbol p) s = .next (s.endIngress p .ingressCheck .skipping).settle := rfl

theorem exec_tributaryIdle : exec (.tributaryIdle p) s = .next s := rfl

end Commands

/-- Settles O25, by the state of the ingress: a frame with a handle is discarded with it, one in TAG_WAIT is only
counted. -/
theorem closeAbortThrowsTheFrameAway : Obligations.CloseAbortThrowsTheFrameAway := by
  intro p s
  refine ⟨s.ingressAbort p, exec_closeAbort p s, ?_⟩
  cases hi : (s.port p).ingress with
  | idle =>
    rw [State.ingressAbort_of_idle hi]
    exact ⟨.refl hi, rfl⟩
  | tagWait first =>
    rw [State.ingressAbort_of_tagWait hi]
    exact State.setIngress_countDiscard_spec ..
  | receiving h hold =>
    rw [State.ingressAbort_of_receiving hi]
    obtain ⟨hset, honly, hdisc⟩ := State.setIngress_discard_spec s p .idle .ingressAborted h
    have hok (hs : StoresOk s) : StoresOk (s.setIngress p .idle) := State.storesOk_of_buf hs (State.setIngress_buf ..)
    exact ⟨hset, honly, hdisc, fun r hr hs => State.discard_frees_chain (hok hs) hr _⟩
  | skipping =>
    rw [State.ingressAbort_of_skipping hi]
    exact ⟨State.setsIngress_setIngress .., State.changesOnly_setIngress ..⟩

/-- Settles O26, by the state of the ingress: SKIPPING holds no frame to end, and an invalid symbol ends the frame of
the other states as CLOSE ABORT does, but with its own cause and into SKIPPING. -/
theorem skippingAndInvalidSymbols : Obligations.SkippingAndInvalidSymbols := by
  intro p s
  refine ⟨?_, exec_tributaryIdle p s⟩
  have hinvalid := exec_tributaryInvalidSymbol p s
  have hset (v : Ingress) : SetsIngress p v s (s.setIngress p v) ∧ ChangesOnly [.ports] s (s.setIngress p v) :=
    ⟨State.setsIngress_setIngress p v, State.changesOnly_setIngress p v⟩
  cases hi : (s.port p).ingress with
  | idle => rwa [State.endIngress_of_idle _ _ hi] at hinvalid
  | tagWait first =>
    rw [State.endIngress_of_tagWait _ _ hi] at hinvalid
    exact ⟨_, hinvalid, State.setIngress_countDiscard_spec ..⟩
  | receiving h hold =>
    rw [State.endIngress_of_receiving _ _ hi] at hinvalid
    exact ⟨_, hinvalid, State.setIngress_discard_spec ..⟩
  | skipping =>
    rw [State.endIngress_of_skipping _ _ hi] at hinvalid
    refine ⟨fun b => ?_, exec_tributaryIdle p s, hinvalid, ⟨_, ?_, hset .idle⟩, ⟨_, ?_, hset .idle⟩,
      ⟨_, ?_, (hset _).symm⟩⟩
    · rw [exec_tributaryDataOctet, State.ingressData_of_skipping hi]
    · rw [exec_closeEnd, State.ingressEnd_of_skipping hi]
    · rw [exec_closeAbort, State.ingressAbort_of_skipping hi]
    · rw [exec_tributaryOpen, State.ingressOpen_of_skipping hi]

end Sys2Proof.Machine
end

section
/-! PROOFS. The charge of a frame that needs no advance (R62, R63, R64): one equation per runtime the charge can meet, and
what a write of one runtime leaves unchanged. -/

namespace Sys2Proof.Machine

namespace State

variable {s : State}

/-! ## The frame of a runtime write -/

@[simp] theorem setRuntime_epochElapsed (i : Nat) (rt : Runtime) :
    (s.setRuntime i rt).metering.epochElapsed = s.metering.epochElapsed := rfl

theorem changesOnly_setRuntime (i : Nat) (rt : Runtime) : ChangesOnly [.metering] s (s.setRuntime i rt) := by
  simp [ChangesOnly]

/-! ## The charge at each runtime that needs no advance -/

variable {i : StreamIx} {c : RecordIx} {left : Nat} (len : Nat)

theorem charge_of_unmetered (hrt : s.runtime i.val = .unmetered) :
    s.charge i len = (.fixed (s.stream i.val).baseTier, s) := by
  simp [charge, hrt]

theorem charge_of_unbounded (hrt : s.runtime i.val = .metered c .unbounded) :
    s.charge i len = (.fixed (recordTier (s.stream i.val) (s.record c)), s) := by
  simp [charge, hrt]

variable {len}

theorem charge_of_le (hrt : s.runtime i.val = .metered c (.octets left)) (hle : len ≤ left) :
    s.charge i len = (.fixed (recordTier (s.stream i.val) (s.record c)),
      s.setRuntime i.val (.metered c (.octets (left - len)))) := by
  simp [charge, hrt, hle]

end State

/-- Settles O28, by the runtime of the stream: only a bounded budget is written, and the write of one runtime leaves
every other runtime, the records and the epoch timer as they were. -/
theorem chargeWithinBudget : Obligations.ChargeWithinBudget := by
  intro s i len
  refine ⟨State.charge_of_unmetered len, fun r => State.charge_of_unbounded len, fun r left hrt hle => ?_⟩
  exact ⟨_, State.charge_of_le hrt hle, State.setRuntime_runtime_self .., fun _ => State.setRuntime_runtime_other _ _,
    State.setRuntime_record _ _ _, State.setRuntime_epochElapsed .., State.changesOnly_setRuntime ..⟩

end Sys2Proof.Machine
end

section
/-! PROOFS. The start of the alignment (R116): on a DOWN link with TRK_LOS deasserted the symbol functions of the trunk
agree, and whatever the symbol, its arrival is one of them. -/

namespace Sys2Proof.Machine

namespace State

variable {s : State}

@[simp] theorem alignFrom_line : s.alignFrom.line = { s.line with link := .aligning, idleRun := 0 } := rfl

theorem changesOnly_alignFrom : ChangesOnly [.line] s s.alignFrom := by
  simp [ChangesOnly, alignFrom]

/-! ## The symbol functions on a DOWN link -/

theorem trunkSymbol_of_down (hlos : s.line.los = false) (hdown : s.line.link = .down) (f : State → State) :
    s.trunkSymbol f = s.alignFrom := by
  simp [trunkSymbol, hlos, hdown]

theorem trunkIdleSymbol_of_down (hlos : s.line.los = false) (hdown : s.line.link = .down) :
    s.trunkIdleSymbol = s.alignFrom := by
  simp [trunkIdleSymbol, hlos, hdown]

theorem trunkInvalid_of_down (hlos : s.line.los = false) (hdown : s.line.link = .down) :
    s.trunkInvalid = s.alignFrom := by
  simp [trunkInvalid, hlos, hdown]

end State

/-! ## The arrival of a symbol -/

/-- IDLE and an invalid symbol have functions of their own; every other symbol differs only in what it hands to the
receiver of an UP link. -/
theorem exec_trunkArrival_cases (s : State) (x : TrunkSymbol) :
    (x = .idle ∧ exec (trunkArrival x) s = .next s.trunkIdleSymbol) ∨
    (x = .invalid ∧ exec (trunkArrival x) s = .next s.trunkInvalid) ∨
    (x ≠ .idle ∧ x ≠ .invalid ∧ ∃ f, exec (trunkArrival x) s = .next (s.trunkSymbol f)) := by
  cases x with
  | idle => exact .inl ⟨rfl, rfl⟩
  | invalid => exact .inr (.inl ⟨rfl, rfl⟩)
  | data | openFirst | openNext | closeMore | closeLast | clear =>
    exact .inr (.inr ⟨nofun, nofun, _, rfl⟩)

theorem exec_trunkArrival_of_down {s : State} (hlos : s.line.los = false) (hdown : s.line.link = .down)
    (x : TrunkSymbol) : exec (trunkArrival x) s = .next s.alignFrom := by
  obtain ⟨-, hx⟩ | ⟨-, hx⟩ | ⟨-, -, f, hx⟩ := exec_trunkArrival_cases s x
  · rw [hx, State.trunkIdleSymbol_of_down hlos hdown]
  · rw [hx, State.trunkInvalid_of_down hlos hdown]
  · rw [hx, State.trunkSymbol_of_down hlos hdown]

/-- Settles O37: every arrival on a DOWN link starts the alignment, which writes the trunk line alone. -/
theorem anySymbolStartsAlignment : Obligations.AnySymbolStartsAlignment := by
  intro s x hdown hlos
  exact ⟨s.alignFrom, exec_trunkArrival_of_down hlos hdown x, State.alignFrom_line, State.changesOnly_alignFrom⟩

end Sys2Proof.Machine
end

section
/-! PROOFS. Lawful moves: the one walk over the operations that the easy invariants share.  A move is lawful when it changes
only listed blocks, keeps the node number, and keeps the accounts of the stores, the bounds of the queues and the agreement of
the stream table with the runtimes.  Lawful moves compose, so an operation is lawful as soon as its parts are. -/

namespace Sys2Proof.Machine

/-- A move from `s` to `t` that changes at most the blocks `bs` and keeps what holds of any state at any moment. -/
structure Lawful (bs : List Block) (s t : State) : Prop where
  frame : ChangesOnly bs s t
  node : t.part.node = s.part.node
  stores : StoresOk s → StoresOk t
  bounds : BoundsOk s → BoundsOk t
  streams : StreamsOk s → StreamsOk t

/-! ## Frames -/

theorem ChangesOnly.mono {bs cs : List Block} {s t : State} (h : ChangesOnly bs s t) (hsub : bs ⊆ cs) :
    ChangesOnly cs s t := by
  obtain ⟨h1, h2, h3, h4, h5, h6, h7, h8, h9, h10, h11, h12, h13, h14⟩ := h
  exact ⟨h1.imp_left (hsub ·), h2.imp_left (hsub ·), h3.imp_left (hsub ·), h4.imp_left (hsub ·), h5.imp_left (hsub ·),
    h6.imp_left (hsub ·), h7.imp_left (hsub ·), h8.imp_left (hsub ·), h9.imp_left (hsub ·), h10.imp_left (hsub ·),
    h11.imp_left (hsub ·), h12.imp_left (hsub ·), h13.imp_left (hsub ·), h14.imp_left (hsub ·)⟩

section Fields

variable {bs : List Block} {s t : State} (h : ChangesOnly bs s t)

include h

theorem ChangesOnly.buf (hb : Block.buf ∉ bs) : t.buf = s.buf := h.1.resolve_left hb
theorem ChangesOnly.streams (hb : Block.streams ∉ bs) : t.streams = s.streams := h.2.1.resolve_left hb
theorem ChangesOnly.metering (hb : Block.metering ∉ bs) : t.metering = s.metering := h.2.2.1.resolve_left hb
theorem ChangesOnly.ports (hb : Block.ports ∉ bs) : t.ports = s.ports := h.2.2.2.1.resolve_left hb
theorem ChangesOnly.queues (hb : Block.queues ∉ bs) : t.queues = s.queues := h.2.2.2.2.1.resolve_left hb
theorem ChangesOnly.tx (hb : Block.tx ∉ bs) : t.tx = s.tx := h.2.2.2.2.2.1.resolve_left hb
theorem ChangesOnly.line (hb : Block.line ∉ bs) : t.line = s.line := h.2.2.2.2.2.2.1.resolve_left hb
theorem ChangesOnly.rx (hb : Block.rx ∉ bs) : t.rx = s.rx := h.2.2.2.2.2.2.2.1.resolve_left hb
theorem ChangesOnly.agent (hb : Block.agent ∉ bs) : t.agent = s.agent := h.2.2.2.2.2.2.2.2.1.resolve_left hb
theorem ChangesOnly.part (hb : Block.part ∉ bs) : t.part = s.part := h.2.2.2.2.2.2.2.2.2.1.resolve_left hb
theorem ChangesOnly.notices (hb : Block.notices ∉ bs) : t.notices = s.notices :=
  h.2.2.2.2.2.2.2.2.2.2.1.resolve_left hb
theorem ChangesOnly.tallies (hb : Block.tallies ∉ bs) : t.tallies = s.tallies :=
  h.2.2.2.2.2.2.2.2.2.2.2.1.resolve_left hb
theorem ChangesOnly.releaseEvents (hb : Block.releaseEvents ∉ bs) : t.releaseEvents = s.releaseEvents :=
  h.2.2.2.2.2.2.2.2.2.2.2.2.1.resolve_left hb
theorem ChangesOnly.pending (hb : Block.pending ∉ bs) : t.pending = s.pending :=
  h.2.2.2.2.2.2.2.2.2.2.2.2.2.resolve_left hb

end Fields

/-! ## The blocks each invariant reads -/

theorem StreamsOk.of_blocks {s t : State} (h : StreamsOk s) (hs : t.streams = s.streams) (hm : t.metering = s.metering)
    (ht : t.tallies.streams = s.tallies.streams) : StreamsOk t := by
  obtain ⟨⟨t1, t2, t3, t4⟩, h2, h3, h4⟩ := h
  refine ⟨⟨hs ▸ t1, hm ▸ t2, hm ▸ t3, ht ▸ t4⟩, hs ▸ h2, hs ▸ h3, fun i => ?_⟩
  rw [State.stream_of_streams hs, State.runtime_of_metering hm]
  exact h4 i

theorem BoundsOk.of_blocks {s t : State} (h : BoundsOk s) (hp : t.ports = s.ports) (hq : ∀ u, (t.queue u).limit = (s.queue u).limit)
    (hr : t.rx.fragment = s.rx.fragment) (ha : t.agent.inbox = s.agent.inbox) : BoundsOk t := by
  obtain ⟨h1, h2, h3, h4⟩ := h
  refine ⟨fun p => ?_, fun u => by rw [hq u]; exact h2 u, fun f hf => h3 f (hr ▸ hf), ha ▸ h4⟩
  rw [State.port_of_ports hp]
  exact h1 p

namespace Lawful

variable {bs cs : List Block} {s t u : State}

theorem refl (bs : List Block) (s : State) : Lawful bs s s := ⟨.refl .., rfl, id, id, id⟩

theorem trans (h : Lawful bs s t) (g : Lawful bs t u) : Lawful bs s u :=
  ⟨h.frame.trans g.frame, g.node.trans h.node, g.stores ∘ h.stores, g.bounds ∘ h.bounds, g.streams ∘ h.streams⟩

theorem mono (h : Lawful bs s t) (hsub : bs ⊆ cs) : Lawful cs s t :=
  ⟨h.frame.mono hsub, h.node, h.stores, h.bounds, h.streams⟩

/-- Moves in a row, the blocks of each among those of the whole. -/
theorem seq {ds : List Block} (h : Lawful bs s t) (g : Lawful cs t u) (hsub : bs ⊆ ds ∧ cs ⊆ ds) :
    Lawful ds s u := (h.mono hsub.1).trans (g.mono hsub.2)

/-- A move that writes the stores alone. -/
theorem of_buf (h : ChangesOnly [.buf] s t) (hs : StoresOk s → StoresOk t) : Lawful [.buf] s t :=
  ⟨h, by rw [h.part (by decide)], hs,
    fun hb => hb.of_blocks (h.ports (by decide)) (State.queue_of_queues (h.queues (by decide)) · ▸ rfl)
      (by rw [h.rx (by decide)]) (by rw [h.agent (by decide)]),
    fun hb => hb.of_blocks (h.streams (by decide)) (h.metering (by decide)) (by rw [h.tallies (by decide)])⟩

/-- A move that writes neither the stores nor a table. -/
theorem of_bounds (h : ChangesOnly [.ports, .queues, .tx, .line, .rx, .agent, .notices, .releaseEvents] s t)
    (hc : ChangesOnly bs s t) (hs : BoundsOk s → BoundsOk t) : Lawful bs s t :=
  ⟨hc, by rw [h.part (by decide)], fun hb => State.storesOk_of_buf hb (h.buf (by decide)), hs,
    fun hb => hb.of_blocks (h.streams (by decide)) (h.metering (by decide)) (by rw [h.tallies (by decide)])⟩

/-- A move that writes tables alone. -/
theorem of_tables (h : ChangesOnly [.streams, .metering, .part, .tallies] s t) (hc : ChangesOnly bs s t)
    (hn : t.part.node = s.part.node) (hs : StreamsOk s → StreamsOk t) : Lawful bs s t :=
  ⟨hc, hn, fun hb => State.storesOk_of_buf hb (h.buf (by decide)),
    fun hb => hb.of_blocks (h.ports (by decide)) (State.queue_of_queues (h.queues (by decide)) · ▸ rfl)
      (by rw [h.rx (by decide)]) (by rw [h.agent (by decide)]), hs⟩

/-- A move that writes only what no invariant of a lawful move reads. -/
theorem of_free (h : ChangesOnly [.tx, .line, .notices, .releaseEvents] s t) (hc : ChangesOnly bs s t) : Lawful bs s t :=
  of_bounds (h.mono (by decide)) hc fun hb => hb.of_blocks (h.ports (by decide))
    (State.queue_of_queues (h.queues (by decide)) · ▸ rfl) (by rw [h.rx (by decide)]) (by rw [h.agent (by decide)])

end Lawful

namespace State

variable {s t : State}

/-! ## The stores -/

theorem lawful_setHandle {h : Nat} {r r' : Handle} (hr : s.handle? h = some r) (hc : r'.chain = r.chain) :
    Lawful [.buf] s (s.setHandle h r') :=
  .of_buf (by simp [ChangesOnly]) fun hs => (storesOk_setHandle hs hr hc).1

theorem lawful_modHandle (h : Nat) (f : Handle → Handle) (hc : ∀ r, (f r).chain = r.chain) :
    Lawful [.buf] s (s.modHandle h f) :=
  .of_buf (by simp [ChangesOnly]) fun hs => (storesOk_modHandle hs h f hc).1

theorem lawful_setHolder (h : Nat) (k : Holder) : Lawful [.buf] s (s.setHolder h k) := lawful_modHandle h _ fun _ => rfl

theorem lawful_takeCell (h : Nat) (hf : 1 ≤ s.freeCells) : Lawful [.buf] s (s.takeCell h) :=
  .of_buf (by simp [ChangesOnly]) fun hs => (storesOk_takeCell hs h hf).1

theorem lawful_storeOctet (h : Nat) (b : Byte) : Lawful [.buf] s (s.storeOctet h b) :=
  .of_buf (by simp [ChangesOnly]) fun hs => (storesOk_storeOctet hs h b).1

theorem lawful_storeOctets (h : Nat) (l : List Byte) : Lawful [.buf] s (s.storeOctets h l) := by
  induction l generalizing s with
  | nil => exact .refl ..
  | cons b l ih => exact (lawful_storeOctet h b).trans ih

theorem freeHandles_of_granted {mgmt : Bool} (hg : s.handleGranted mgmt = true) : 1 ≤ s.freeHandles := by
  unfold handleGranted at hg
  split at hg <;> have hd := of_decide_eq_true hg
  · exact hd
  · unfold Config.reserveHandles at hd; omega

theorem freeCells_of_granted {mgmt : Bool} (hg : s.cellGranted mgmt = true) : 1 ≤ s.freeCells := by
  unfold cellGranted at hg
  split at hg <;> have hd := of_decide_eq_true hg
  · exact hd
  · unfold Config.reserveCells at hd; omega

theorem claimHandle_eq_some {mgmt : Bool} {k : Holder} {tag : Tag} {tier : Tier} {i : Option StreamIx} {h : Nat}
    (hc : s.claimHandle mgmt k tag tier i = some (h, t)) :
    s.handleGranted mgmt = true ∧ h = s.lowestHandle ∧ t = s.setHandle s.lowestHandle (Handle.granted k tag tier i) := by
  unfold claimHandle at hc
  split at hc
  · rename_i hg; cases hc; exact ⟨hg, rfl, rfl⟩
  · cases hc

theorem lawful_claimHandle {mgmt : Bool} {k : Holder} {tag : Tag} {tier : Tier} {i : Option StreamIx} {h : Nat}
    (hc : s.claimHandle mgmt k tag tier i = some (h, t)) : Lawful [.buf] s t := by
  obtain ⟨hg, -, rfl⟩ := claimHandle_eq_some hc
  exact .of_buf (by simp [ChangesOnly]) fun hs => (storesOk_newHandle hs rfl (freeHandles_of_granted hg)).1

theorem lawful_claimCompound {tag : Tag} {n h : Nat} (hc : s.claimCompound tag n = some (h, t)) : Lawful [.buf] s t := by
  obtain ⟨h1, h2, -⟩ := claimCompound_some hc
  refine .of_buf ?_ fun hs => ?_
  · have ht : t = (s.setHandle s.lowestHandle (Handle.granted .agentBuild tag .t0 none)).takeCells s.lowestHandle
        (cellsFor n) := by
      unfold claimCompound at hc
      rw [if_pos ⟨h1, h2⟩] at hc
      cases hc; rfl
    simp [ChangesOnly, ht]
  · obtain ⟨u, -, hu, hok, -⟩ := claimCompound_granted hs tag h1 h2
    rw [hc] at hu
    cases hu
    exact hok

theorem lawful_appendOctet {mgmt : Bool} {h : Nat} {b : Byte} (ha : s.appendOctet mgmt h b = some t) :
    Lawful [.buf] s t := by
  unfold appendOctet at ha
  split at ha
  · cases ha; exact .refl ..
  · split at ha
    · split at ha
      · rename_i hg
        cases ha
        exact (lawful_takeCell h (freeCells_of_granted hg)).trans (lawful_storeOctet h b)
      · cases ha
    · cases ha; exact lawful_storeOctet h b

theorem lawful_appendOctets (mgmt : Bool) (h : Nat) (l : List Byte) : Lawful [.buf] s (s.appendOctets mgmt h l).2 := by
  induction l generalizing s with
  | nil => exact .refl ..
  | cons b l ih =>
    simp only [appendOctets]
    split
    · exact .refl ..
    · rename_i hu; exact (lawful_appendOctet hu).trans ih

theorem lawful_freeHandle (h : Nat) : Lawful [.buf] s (s.freeHandle h) :=
  .of_buf (by simp [ChangesOnly]) fun hs => (storesOk_freeHandle hs h).1

/-! ## Release events and counts -/

theorem lawful_withReleaseEvents (n : Nat) : Lawful [.releaseEvents] s (s.withReleaseEvents n) :=
  .of_free (by simp [ChangesOnly]) (by simp [ChangesOnly])

theorem lawful_raiseRelease : Lawful [.releaseEvents] s s.raiseRelease := lawful_withReleaseEvents _

theorem lawful_release (h : Nat) : Lawful [.buf, .releaseEvents] s (s.release h) :=
  (lawful_freeHandle h).seq lawful_raiseRelease (by decide)

/-- A table set at an index below its size keeps its canonical form and its indices. -/
theorem tableOk_set {α : Type} [DecidableEq α] {d : α} {m : List (Nat × α)} {n : Nat}
    (h : Table.wf d m = true ∧ ∀ e ∈ m, e.1 < n) {k : Nat} (hk : k < n) (a : α) :
    Table.wf d (Table.set d m k a) = true ∧ ∀ e ∈ Table.set d m k a, e.1 < n := by
  refine ⟨Table.wf_set k a h.1, fun e he => ?_⟩
  unfold Table.set at he
  split at he
  · exact h.2 e (List.mem_filter.1 he).1
  · rcases Table.mem_put he with rfl | he
    · exact hk
    · exact h.2 e he

theorem lawful_setTally {i : Nat} (hi : i < 256) (v : StreamTally) : Lawful [.tallies] s (s.setTally i v) :=
  .of_tables (by simp [ChangesOnly]) (by simp [ChangesOnly]) rfl
    fun ⟨⟨h1, h2, h3, h4⟩, hrest⟩ => ⟨⟨h1, h2, h3, tableOk_set h4 hi v⟩, hrest⟩

theorem lawful_setDiscardCount (i : Fin 20) (v : BitVec 32) : Lawful [.tallies] s (s.setDiscardCount i v) :=
  .of_tables (by simp [ChangesOnly]) (by simp [ChangesOnly]) rfl fun h => h.of_blocks rfl rfl rfl

theorem lawful_countDiscard (c : Cause) (o : Option StreamIx) : Lawful [.tallies] s (s.countDiscard c o) := by
  cases o with
  | none => exact lawful_setDiscardCount _ _
  | some i => exact (lawful_setDiscardCount _ _).trans (lawful_setTally i.isLt _)

theorem lawful_countToTrunk (o : Option StreamIx) (n : Nat) : Lawful [.tallies] s (s.countToTrunk o n) := by
  cases o with
  | none => exact .refl ..
  | some i => exact lawful_setTally i.isLt _

theorem lawful_countDelivered (i : StreamIx) : Lawful [.tallies] s (s.countDelivered i) := lawful_setTally i.isLt _

theorem lawful_discardQuiet (c : Cause) (h : Nat) : Lawful [.buf, .tallies] s (s.discardQuiet c h) :=
  (lawful_freeHandle h).seq (lawful_countDiscard c _) (by decide)

theorem lawful_discard (c : Cause) (h : Nat) : Lawful [.buf, .tallies, .releaseEvents] s (s.discard c h) :=
  (lawful_discardQuiet c h).seq lawful_raiseRelease (by decide)

/-! ## Ports, queues, contexts, the line -/

theorem boundsOk_setPort {p : Port} {v : PortState} (hb : BoundsOk s) (he : v.egress.length ≤ 32)
    (hi : ∀ h hold, v.ingress = .receiving h hold → hold.length ≤ 4) : BoundsOk (s.setPort p v) := by
  obtain ⟨h1, h2, h3, h4⟩ := hb
  refine ⟨fun q => ?_, h2, h3, h4⟩
  by_cases hq : q = p
  · subst hq; rw [setPort_port_self]; exact ⟨he, hi⟩
  · rw [setPort_port_other s v hq]; exact h1 q

theorem lawful_setPort (p : Port) (v : PortState)
    (h : BoundsOk s → v.egress.length ≤ 32 ∧ ∀ h hold, v.ingress = .receiving h hold → hold.length ≤ 4) :
    Lawful [.ports] s (s.setPort p v) :=
  .of_bounds (by simp [ChangesOnly]) (by simp [ChangesOnly]) fun hb => boundsOk_setPort hb (h hb).1 (h hb).2

theorem lawful_setIngress (p : Port) (v : Ingress) (h : ∀ h hold, v = .receiving h hold → hold.length ≤ 4) :
    Lawful [.ports] s (s.setIngress p v) := lawful_setPort p _ fun hb => ⟨(hb.1 p).1, h⟩

theorem lawful_sendTrib (p : Port) (l : List TribSymbol) : Lawful [.ports] s (s.sendTrib p l) :=
  lawful_setPort p _ fun hb => hb.1 p

theorem lawful_setMembers (q : Tier) (l : List Nat) : Lawful [.queues] s (s.setMembers q l) := by
  refine .of_bounds (by simp [ChangesOnly]) (by simp [ChangesOnly]) fun hb => hb.of_blocks rfl (fun u => ?_) rfl rfl
  by_cases hu : u = q
  · subst hu; rw [setMembers_queue_self]
  · rw [setMembers_queue_other s l hu]

theorem lawful_setLimit {q : Tier} {n : Nat} (hn : 1 ≤ n ∧ n ≤ 511) :
    Lawful [.queues] s (s.setQueue q { s.queue q with limit := n }) := by
  refine .of_bounds (by simp [ChangesOnly]) (by simp [ChangesOnly]) fun ⟨h1, h2, h3, h4⟩ => ⟨h1, fun u => ?_, h3, h4⟩
  by_cases hu : u = q
  · subst hu; rw [setQueue_queue_self]; exact hn
  · rw [setQueue_queue_other s _ hu]; exact h2 u

theorem lawful_withTx (v : Transmitter) : Lawful [.tx] s (s.withTx v) :=
  .of_free (by simp [ChangesOnly]) (by simp [ChangesOnly])

theorem lawful_withLine (v : TrunkLine) : Lawful [.line] s (s.withLine v) :=
  .of_free (by simp [ChangesOnly]) (by simp [ChangesOnly])

theorem lawful_withNotices (v : NoticeQueue) : Lawful [.notices] s (s.withNotices v) :=
  .of_free (by simp [ChangesOnly]) (by simp [ChangesOnly])

theorem lawful_sendTrunk (l : List TrunkSymbol) : Lawful [.line] s (s.sendTrunk l) := lawful_withLine _

theorem lawful_trunkIdle : Lawful [.line] s s.trunkIdle := by
  unfold trunkIdle
  split
  · exact .refl ..
  · exact lawful_sendTrunk _

theorem lawful_setContext (x : Tier) (c : Context) : Lawful [.rx] s (s.setContext x c) :=
  .of_bounds (by simp [ChangesOnly]) (by simp [ChangesOnly]) fun hb => hb.of_blocks rfl (fun _ => rfl) rfl rfl

theorem lawful_setFragment (o : Option RxFragment)
    (h : BoundsOk s → ∀ f, o = some f → f.header.length ≤ 4 ∧ f.hold.length ≤ 6) : Lawful [.rx] s (s.setFragment o) :=
  .of_bounds (by simp [ChangesOnly]) (by simp [ChangesOnly])
    fun hb => ⟨hb.1, hb.2.1, h hb, hb.2.2.2⟩

theorem lawful_clearFragment : Lawful [.rx] s (s.setFragment none) := lawful_setFragment _ nofun

theorem lawful_withAgent (v : Agent) (h : BoundsOk s → v.inbox.length ≤ 4) : Lawful [.agent] s (s.withAgent v) :=
  .of_bounds (by simp [ChangesOnly]) (by simp [ChangesOnly]) fun hb => ⟨hb.1, hb.2.1, hb.2.2.1, h hb⟩

/-! ## The transmitter -/

theorem lawful_openHead (q : Tier) : Lawful [.buf, .queues, .tx, .line] s (s.openHead q) := by
  unfold openHead
  split
  · exact .refl ..
  · split
    · exact .refl ..
    · exact (((lawful_setMembers q _).seq (lawful_setHolder _ _) (by decide) (ds := [.buf, .queues])).seq (lawful_withTx _) (by decide)
        (ds := [.buf, .queues, .tx])).seq (lawful_sendTrunk _) (by decide)

theorem lawful_resumeTop (h : Nat) (l : List Nat) : Lawful [.buf, .tx, .line] s (s.resumeTop h l) := by
  unfold resumeTop
  split
  · exact .refl ..
  · rename_i hr
    refine Lawful.seq (bs := [.buf, .tx]) ?_ (lawful_sendTrunk _) (by decide)
    refine Lawful.seq (bs := [.buf]) ?_ (lawful_withTx _) (by decide)
    exact lawful_setHandle hr rfl

theorem lawful_goIdle : Lawful [.tx, .line] s s.goIdle := (lawful_withTx _).seq lawful_trunkIdle (by decide)

theorem lawful_select : Lawful [.buf, .queues, .tx, .line] s s.select := by
  unfold select
  split
  · exact lawful_openHead _
  · split
    · exact lawful_openHead _
    · exact (lawful_resumeTop _ _).mono (by decide)
  · exact (lawful_resumeTop _ _).mono (by decide)
  · exact lawful_goIdle.mono (by decide)

theorem lawful_joinQueue (q : Tier) (h : Nat) : Lawful [.buf, .queues, .tx, .line] s (s.joinQueue q h) := by
  have hjoin : Lawful [.buf, .queues] s ((s.setMembers q ((s.queue q).members ++ [h])).setHolder h (.tierQueue q)) :=
    (lawful_setMembers q _).seq (lawful_setHolder h _) (by decide)
  unfold joinQueue
  dsimp only
  split
  · exact hjoin.seq lawful_select (by decide)
  · exact hjoin.mono (by decide)

theorem lawful_offerQueue (q : Tier) (h : Nat) : Lawful [.buf, .queues, .tx, .line] s (s.offerQueue q h).2 := by
  unfold offerQueue
  split
  · exact lawful_joinQueue q h
  · exact .refl ..

theorem lawful_blockSent : Lawful [.buf, .tx, .line] s s.blockSent := by
  unfold blockSent
  split
  · split
    · exact .refl ..
    · rename_i hr
      split
      · refine Lawful.seq (bs := [.buf, .tx]) ?_ (lawful_sendTrunk _) (by decide)
        refine Lawful.seq (bs := [.buf]) ?_ (lawful_withTx _) (by decide)
        exact lawful_setHandle hr rfl
      · exact .refl ..
  · exact .refl ..

theorem lawful_closeMoreSent : Lawful [.buf, .queues, .tx, .line] s s.closeMoreSent := by
  unfold closeMoreSent
  split
  · split
    · exact .refl ..
    · rename_i r hr
      split
      · refine Lawful.seq (bs := [.buf, .tx, .line]) (Lawful.seq (bs := [.buf, .line]) ?_ (lawful_withTx _) (by decide)) lawful_select (by decide)
        exact (lawful_sendTrunk _).seq (lawful_setHandle (s := s.sendTrunk _) (r := r) (hr ▸ handle?_of_buf (by simp) _) rfl) (by decide)
      · exact .refl ..
  · exact .refl ..

theorem lawful_completeActive (h : s.completeActive = some t) :
    Lawful [.buf, .tx, .line, .tallies, .releaseEvents] s t := by
  unfold completeActive at h
  split at h
  · split at h
    · cases h
    · split at h
      · cases h
        refine Lawful.seq (bs := [.buf, .line, .tallies, .releaseEvents]) ?_ (lawful_withTx _) (by decide)
        refine Lawful.seq (bs := [.line, .tallies]) ?_ (lawful_release _) (by decide)
        exact (lawful_sendTrunk _).seq (lawful_countToTrunk _ _) (by decide)
      · cases h
  · cases h

theorem lawful_clearSent : Lawful [.buf, .queues, .tx, .line] s s.clearSent := by
  unfold clearSent
  split
  · exact (lawful_sendTrunk _).seq lawful_select (by decide)
  · exact .refl ..

theorem lawful_returnFrame (acc : State × Nat × Nat) (h : Nat) :
    Lawful [.buf, .queues, .tallies, .releaseEvents] acc.1 (returnFrame acc h).1 := by
  obtain ⟨s, back, gone⟩ := acc
  unfold returnFrame
  dsimp only
  split
  · exact .refl ..
  · rename_i r hr
    split
    · refine (lawful_setMembers _ _).seq (lawful_setHandle (r := r) ?_ rfl) (by decide)
      exact hr ▸ handle?_of_buf (by simp) _
    · exact (lawful_discard _ _).mono (by decide)

/-- A fold of lawful moves is lawful. -/
theorem lawful_foldl {α : Type} {bs : List Block} {f : State → α → State} (hf : ∀ s a, Lawful bs s (f s a)) (l : List α)
    (s : State) : Lawful bs s (l.foldl f s) := by
  induction l generalizing s with
  | nil => exact .refl ..
  | cons a l ih => exact (hf s a).trans (ih _)

theorem lawful_transmitterLoss : Lawful [.buf, .queues, .tx, .tallies, .releaseEvents] s s.transmitterLoss.1 := by
  have key : ∀ (l : List Nat) (acc : State × Nat × Nat),
      Lawful [.buf, .queues, .tallies, .releaseEvents] acc.1 (l.foldl returnFrame acc).1 := by
    intro l
    induction l with
    | nil => intro acc; exact .refl ..
    | cons h l ih => intro acc; exact (lawful_returnFrame acc h).trans (ih _)
  exact Lawful.seq (bs := [.tx]) (lawful_withTx _) (key _ (s.withTx _, 0, 0)) (by decide)

/-! ## The notice queue -/

theorem lawful_loseNotice : Lawful [.notices] s s.loseNotice := lawful_withNotices _
theorem lawful_dropOldest : Lawful [.notices] s s.dropOldest := lawful_withNotices _
theorem lawful_restartNotices : Lawful [.notices] s s.restartNotices := lawful_withNotices _

theorem lawful_acknowledge (lost : Byte) : Lawful [.notices] s (s.acknowledge lost) := by
  unfold acknowledge
  split
  · exact lawful_dropOldest
  · exact lawful_dropOldest.trans (lawful_withNotices _)

theorem lawful_syncTimer : Lawful [.notices] s s.syncTimer := by
  unfold syncTimer
  split
  · exact .refl ..
  · split
    · exact .refl ..
    · exact lawful_withNotices _
  · split
    · exact lawful_withNotices _
    · exact .refl ..

/-- The blocks that the sending of a notice may change. -/
def noticeBlocks : List Block := [.buf, .queues, .tx, .line, .notices]

theorem lawful_sendOldest (q : Byte) (k : Nat) (l c : Byte) : Lawful noticeBlocks s (s.sendOldest q k l c) := by
  unfold sendOldest
  split
  · exact .refl ..
  · split
    · exact (lawful_withNotices _).mono (by decide)
    · rename_i hc
      refine Lawful.seq (bs := [.buf, .notices]) ?_ (lawful_joinQueue _ _) (by decide)
      refine Lawful.seq (bs := [.buf, .notices]) ?_ (lawful_storeOctets _ _) (by decide)
      exact (lawful_claimCompound hc).seq (lawful_withNotices _) (by decide)

theorem lawful_sendFirst : Lawful noticeBlocks s s.sendFirst := lawful_sendOldest ..

theorem lawful_resend : Lawful noticeBlocks s s.resend := by
  unfold resend
  split
  · exact lawful_sendOldest ..
  · exact .refl ..

theorem lawful_noticeAttempt : Lawful noticeBlocks s s.noticeAttempt := by
  unfold noticeAttempt
  split
  · exact lawful_sendFirst
  · exact .refl ..

theorem lawful_noticeRetry : Lawful noticeBlocks s s.noticeRetry := by
  unfold noticeRetry
  split
  · split
    · exact .refl ..
    · split
      · exact lawful_resend
      · exact lawful_sendFirst
  · exact .refl ..

theorem lawful_raiseNotice (n : Notice) : Lawful noticeBlocks s (s.raiseNotice n) := by
  unfold raiseNotice
  split
  · exact (lawful_withNotices _).mono (by decide)
  · split
    · exact lawful_loseNotice.mono (by decide)
    · exact (lawful_withNotices _).seq lawful_noticeAttempt (by decide)

theorem lawful_noticeResume : Lawful noticeBlocks s s.noticeResume := by
  unfold noticeResume
  split
  · exact lawful_noticeRetry
  · exact lawful_noticeAttempt

theorem lawful_resendExpiry : Lawful noticeBlocks s s.resendExpiry := by
  unfold resendExpiry
  split
  · split
    · exact lawful_resend
    · exact (lawful_dropOldest.trans lawful_loseNotice).seq lawful_noticeAttempt (by decide)
  · exact .refl ..

/-! ## The ports -/

theorem lawful_joinEgress {p : Port} {h : Nat} (hlen : (s.port p).egress.length < 32) :
    Lawful [.buf, .ports] s (s.joinEgress p h) := by
  have hjoin : Lawful [.buf, .ports] s
      ((s.setPort p { s.port p with egress := (s.port p).egress ++ [h] }).setHolder h (.egress p)) := by
    refine Lawful.seq (bs := [.ports]) ?_ (lawful_setHolder h _) (by decide)
    refine lawful_setPort p _ fun hb => ⟨?_, (hb.1 p).2⟩
    simpa using hlen
  unfold joinEgress
  dsimp only
  split
  · exact hjoin.seq (lawful_sendTrib _ _) (by decide)
  · exact hjoin

theorem lawful_egressSent (p : Port) : Lawful [.buf, .ports, .releaseEvents] s (s.egressSent p) := by
  unfold egressSent
  split
  · exact .refl ..
  · rename_i h rest he
    split
    · exact .refl ..
    · refine Lawful.seq (bs := [.ports]) ?_ (lawful_release _) (by decide)
      refine Lawful.trans ?_ (lawful_sendTrib _ _)
      refine lawful_setPort p _ fun hb => ⟨?_, (hb.1 p).2⟩
      have := (hb.1 p).1
      rw [he] at this
      simp only [List.length_cons] at this
      exact Nat.le_of_succ_le this

/-- The blocks that a flush may change. -/
def flushBlocks : List Block := [.buf, .queues, .tx, .line, .notices, .tallies]

theorem lawful_flushFrames (c : Cause) (retry : Bool) (l : List Nat) : Lawful flushBlocks s (s.flushFrames c retry l) := by
  induction l generalizing s with
  | nil => exact .refl ..
  | cons h l ih =>
    have hq : Lawful flushBlocks s (s.discardQuiet c h) := (lawful_discardQuiet c h).mono (by decide)
    cases retry with
    | false => exact hq.trans ih
    | true => exact (hq.seq lawful_noticeRetry (by decide)).trans ih

theorem lawful_flushFrames_quiet (c : Cause) (l : List Nat) : Lawful [.buf, .tallies] s (s.flushFrames c false l) := by
  induction l generalizing s with
  | nil => exact .refl ..
  | cons h l ih => exact (lawful_discardQuiet c h).trans ih

theorem lawful_flushIngress (p : Port) (retry : Bool) : Lawful (.ports :: flushBlocks) s (s.flushIngress p retry) := by
  have hset : Lawful [.ports] s (s.setIngress p .idle) := lawful_setIngress p _ nofun
  unfold flushIngress
  dsimp only
  split
  · exact .refl ..
  · exact hset.seq (lawful_countDiscard _ _) (by decide)
  · exact hset.seq (lawful_flushFrames _ _ _) (by decide)
  · exact hset.mono (by decide)

theorem lawful_flushEgress (p : Port) (retry : Bool) : Lawful (.ports :: flushBlocks) s (s.flushEgress p retry) := by
  unfold flushEgress
  split
  · exact .refl ..
  · refine Lawful.seq (bs := [.ports]) ?_ (lawful_flushFrames _ _ _) (by decide)
    refine Lawful.trans ?_ (lawful_sendTrib _ _)
    exact lawful_setPort p _ fun hb => ⟨Nat.zero_le _, (hb.1 p).2⟩

theorem lawful_resetPort (p : Port) (retry : Bool) : Lawful (.ports :: flushBlocks) s (s.resetPort p retry) :=
  (lawful_flushIngress p retry).trans (lawful_flushEgress p retry)

theorem lawful_writeEnabled (p : Port) (on : Bool) : Lawful (.ports :: flushBlocks) s (s.writeEnabled p on) := by
  unfold writeEnabled
  dsimp only
  split
  · refine Lawful.seq (bs := [.ports]) ?_ (lawful_flushFrames _ _ _) (by decide)
    refine lawful_setPort p _ fun hb => ⟨?_, (hb.1 p).2⟩
    simp only [List.length_take]; omega
  · refine Lawful.mono (bs := [.ports]) ?_ (by decide)
    exact lawful_setPort p _ fun hb => hb.1 p

end State

end Sys2Proof.Machine
end

section
/-! PROOFS. Lawful moves of the allotment unit and the stream table (chapters 2 and 4): what a load, a charge, an epoch expiry
and a WRITE of entries leave in the tables. -/

namespace Sys2Proof.Machine

/-! ## Entries of rising tables -/

section Table

variable {α : Type}

theorem Table.find_of_mem {m : List (Nat × α)} {n k : Nat} {a : α} (h : Table.risingFrom n m = true) (hm : (k, a) ∈ m) :
    Table.find m k = some a := by
  induction m generalizing n with
  | nil => cases hm
  | cons e m ih =>
    obtain ⟨j, b⟩ := e
    simp only [Table.risingFrom, Bool.and_eq_true, decide_eq_true_eq] at h
    rcases List.mem_cons.1 hm with he | he
    · cases he; simp [Table.find]
    · have hf := ih h.2 he
      have hj : j ≠ k := fun hj => by
        rw [Table.find_none_of_rising h.2 (by omega)] at hf; cases hf
      simpa [Table.find, hj] using hf

theorem Table.mem_of_find {m : List (Nat × α)} {k : Nat} {a : α} (h : Table.find m k = some a) : (k, a) ∈ m := by
  induction m with
  | nil => cases h
  | cons e m ih =>
    obtain ⟨j, b⟩ := e
    by_cases hj : j = k
    · subst hj
      simp only [Table.find, if_true, Option.some.injEq] at h
      exact h ▸ List.mem_cons_self
    · exact List.mem_cons_of_mem _ (ih (by simpa [Table.find, hj] using h))

theorem Table.find_map {β : Type} (f : α → β) (m : List (Nat × α)) (k : Nat) :
    Table.find (m.map fun e => (e.1, f e.2)) k = (Table.find m k).map f := by
  induction m with
  | nil => rfl
  | cons e m ih =>
    simp only [List.map_cons, Table.find, ih]
    split <;> rfl

theorem Table.risingFrom_map {β : Type} (f : α → β) {m : List (Nat × α)} {n : Nat} :
    Table.risingFrom n (m.map fun e => (e.1, f e.2)) = Table.risingFrom n m := by
  induction m generalizing n with
  | nil => rfl
  | cons e m ih => simp [Table.risingFrom, ih]

theorem Table.risingFrom_zero_of_wf [DecidableEq α] {d : α} {m : List (Nat × α)} (h : Table.wf d m = true) :
    Table.risingFrom 0 m = true := by
  simp only [Table.wf, Bool.and_eq_true] at h
  exact h.1

theorem Table.get_of_mem [DecidableEq α] {d : α} {m : List (Nat × α)} (h : Table.wf d m = true) {k : Nat} {a : α}
    (hm : (k, a) ∈ m) : Table.get d m k = a := by
  rw [Table.get, Table.find_of_mem (Table.risingFrom_zero_of_wf h) hm]; rfl

end Table

namespace State

variable {s t : State}

/-! ## Runtimes -/

theorem runtimeAgrees_congr {e e' : StreamEntry} (hv : e.valid = e'.valid) (hc : e.chainHead = e'.chainHead) (rt : Runtime) :
    runtimeAgrees e rt ↔ runtimeAgrees e' rt := by
  unfold runtimeAgrees
  split <;> rw [hv, hc]

theorem runtimeAgrees_loaded {e : StreamEntry} (hv : e.valid = true) (hc : e.chainHead ≠ none) (r : RecordIx) :
    runtimeAgrees e (s.loaded r) := by
  unfold loaded
  split
  · exact ⟨hv, hc⟩
  · exact ⟨hv, hc, (s.record r).budget.isLt⟩

theorem runtimeAgrees_fresh (e : StreamEntry) : runtimeAgrees e (s.freshRuntime e) := by
  unfold freshRuntime
  cases hv : e.valid
  · exact .inl hv
  · cases hc : e.chainHead with
    | none => exact .inr hc
    | some r => exact runtimeAgrees_loaded hv (by simp [hc]) r

theorem runtimeAgrees_rewritten {old new : StreamEntry} {rt : Runtime} (h : runtimeAgrees old rt) :
    runtimeAgrees new (s.rewrittenRuntime old new rt) := by
  unfold rewrittenRuntime
  split
  · rename_i hc
    simp only [Bool.and_eq_true, decide_eq_true_eq] at hc
    exact (runtimeAgrees_congr (hc.1.1.trans hc.1.2.symm) hc.2 rt).1 h
  · exact runtimeAgrees_fresh new

/-- What a bounded or exhausted runtime says of its entry. -/
theorem head_of_metered {e : StreamEntry} {c : RecordIx} {n : Nat} (h : runtimeAgrees e (.metered c (.octets n))) :
    e.valid = true ∧ e.chainHead ≠ none := ⟨h.1, h.2.1⟩

theorem tablesOk_setRuntime (h : TablesOk s) {i : Nat} (hi : i < 256) (rt : Runtime) : TablesOk (s.setRuntime i rt) :=
  ⟨h.1, h.2.1, tableOk_set h.2.2.1 hi rt, h.2.2.2⟩

theorem lawful_setRuntime {i : Nat} (hi : i < 256) (rt : Runtime) (h : StreamsOk s → runtimeAgrees (s.stream i) rt) :
    Lawful [.metering] s (s.setRuntime i rt) := by
  refine .of_tables (by simp [ChangesOnly]) (by simp [ChangesOnly]) rfl fun hs => ?_
  refine ⟨tablesOk_setRuntime hs.1 hi rt, hs.2.1, hs.2.2.1, fun j => ?_⟩
  rw [setRuntime_stream]
  by_cases hj : j = i
  · subst hj; rw [setRuntime_runtime_self]; exact h hs
  · rw [setRuntime_runtime_other s rt hj]; exact hs.2.2.2 j

theorem lawful_setRecord {i : Nat} (hi : i < 1024) (r : AllotRecord) : Lawful [.metering] s (s.setRecord i r) :=
  .of_tables (by simp [ChangesOnly]) (by simp [ChangesOnly]) rfl
    fun ⟨⟨h1, h2, h3⟩, hrest⟩ => ⟨⟨h1, tableOk_set h2 hi r, h3⟩, hrest⟩

/-! ## The charge -/

theorem lawful_charge (i : StreamIx) (len : Nat) : Lawful (.metering :: noticeBlocks) s (s.charge i len).2 := by
  have hset : ∀ rt, (StreamsOk s → runtimeAgrees (s.stream i.val) rt) →
      Lawful (.metering :: noticeBlocks) s (s.setRuntime i.val rt) :=
    fun rt h => (lawful_setRuntime i.isLt rt h).mono (by decide)
  unfold charge
  dsimp only
  split
  · exact .refl ..
  · exact .refl ..
  · rename_i c left hrt
    have hag : StreamsOk s → runtimeAgrees (s.stream i.val) (.metered c (.octets left)) :=
      fun hs => hrt ▸ hs.2.2.2 i.val
    split
    · exact hset _ fun hs => ⟨(hag hs).1, (hag hs).2.1, lt_of_le_of_lt (Nat.sub_le ..) (hag hs).2.2⟩
    · split
      · rename_i n hn
        have hl : StreamsOk s → runtimeAgrees (s.stream i.val) (s.loaded n) :=
          fun hs => runtimeAgrees_loaded (hag hs).1 (hag hs).2.1 n
        split
        · rename_i m budget hb
          split
          · refine hset _ fun hs => ?_
            have := hl hs
            rw [hb] at this
            exact ⟨this.1, this.2.1, lt_of_le_of_lt (Nat.sub_le ..) this.2.2⟩
          · exact hset _ fun hs => hb ▸ hl hs
        · exact hset _ hl
      · refine Lawful.seq (bs := [.metering]) ?_ (lawful_raiseNotice _) (by decide)
        exact lawful_setRuntime i.isLt _ fun hs => ⟨(hag hs).1, (hag hs).2.1⟩
  · exact .refl ..

theorem lawful_fixTier (h : Nat) (i : StreamIx) (q : Tier) : Lawful [.buf] s (s.fixTier h i q) :=
  lawful_modHandle h _ fun _ => rfl

/-! ## APPEND -/

/-- The runtimes after an APPEND: those EXHAUSTED at the tail are loaded with the new record. -/
theorem appendRecord_runtimes (r n : RecordIx) :
    (s.appendRecord r n).metering.runtimes = s.metering.runtimes.map fun e =>
      (e.1, if e.2.exhaustedAt r then (s.setRecord r.val { s.record r with next := some n }).loaded n else e.2) := by
  unfold appendRecord
  apply List.map_congr_left
  intro e _
  dsimp only
  split <;> rfl

theorem appendRecord_runtime (r n : RecordIx) (i : Nat) :
    (s.appendRecord r n).runtime i = if (s.runtime i).exhaustedAt r then
      (s.setRecord r.val { s.record r with next := some n }).loaded n else s.runtime i := by
  have hfind := Table.find_map (fun rt : Runtime => if rt.exhaustedAt r then
    (s.setRecord r.val { s.record r with next := some n }).loaded n else rt) s.metering.runtimes i
  unfold runtime Table.get
  rw [appendRecord_runtimes, hfind]
  rcases Table.find s.metering.runtimes i with _ | rt <;> rfl

theorem loaded_ne_unmetered (r : RecordIx) : s.loaded r ≠ .unmetered := nofun

theorem lawful_appendRecord (r n : RecordIx) : Lawful [.metering] s (s.appendRecord r n) := by
  refine .of_tables (by simp [ChangesOnly, appendRecord]) (by simp [ChangesOnly, appendRecord]) rfl fun hs => ?_
  obtain ⟨⟨t1, t2, ⟨t3, t3'⟩, t4⟩, h2, h3, h4⟩ := hs
  refine ⟨⟨t1, tableOk_set t2 r.isLt _, ⟨?_, ?_⟩, t4⟩, h2, h3, fun i => ?_⟩
  · rw [appendRecord_runtimes]
    simp only [Table.wf, Bool.and_eq_true, List.all_eq_true, decide_eq_true_eq] at t3 ⊢
    refine ⟨(Table.risingFrom_map fun rt : Runtime => if rt.exhaustedAt r then _ else rt).trans t3.1, fun e he => ?_⟩
    obtain ⟨x, hx, rfl⟩ := List.mem_map.1 he
    dsimp only
    split
    · exact loaded_ne_unmetered n
    · exact t3.2 x hx
  · rw [appendRecord_runtimes]
    intro e he
    obtain ⟨x, hx, rfl⟩ := List.mem_map.1 he
    exact t3' x hx
  · rw [appendRecord_runtime]
    split
    · rename_i hx
      have hag := h4 i
      cases hrt : s.runtime i with
      | unmetered => rw [hrt] at hx; cases hx
      | metered => rw [hrt] at hx; cases hx
      | exhausted c => rw [hrt] at hag; exact runtimeAgrees_loaded hag.1 hag.2 n
    · exact h4 i

/-! ## The loads of chain heads -/

/-- The runtime of an entry after its chain head is loaded, where it is valid with one (R73). -/
def reloaded (s : State) (e : StreamEntry) (rt : Runtime) : Runtime :=
  match e.valid, e.chainHead with
  | true, some r => s.loaded r
  | _, _ => rt

theorem loadHead_eq (i : Nat) (e : StreamEntry) :
    loadHead s i e = s ∨ ∃ r, e.valid = true ∧ e.chainHead = some r ∧ loadHead s i e = s.setRuntime i (s.loaded r) := by
  unfold loadHead
  cases hv : e.valid
  · exact .inl rfl
  · cases hc : e.chainHead with
    | none => exact .inl rfl
    | some r => exact .inr ⟨r, rfl, rfl, rfl⟩

theorem loadHead_runtime (i j : Nat) (e : StreamEntry) :
    (loadHead s i e).runtime j = if j = i then s.reloaded e (s.runtime i) else s.runtime j := by
  by_cases hj : j = i
  · subst hj
    rw [if_pos rfl]
    unfold loadHead reloaded
    cases e.valid
    · rfl
    · cases e.chainHead with
      | none => rfl
      | some r => exact setRuntime_runtime_self ..
  · rw [if_neg hj]
    obtain he | ⟨r, -, -, he⟩ := loadHead_eq (s := s) i e
    · rw [he]
    · rw [he, setRuntime_runtime_other _ _ hj]

/-- Loads write runtimes alone. -/
theorem loadHead_frame (i : Nat) (e : StreamEntry) :
    ChangesOnly [.metering] s (loadHead s i e) ∧ (loadHead s i e).metering.records = s.metering.records ∧
      (loadHead s i e).metering.epochElapsed = s.metering.epochElapsed := by
  obtain he | ⟨r, -, -, he⟩ := loadHead_eq (s := s) i e
  · rw [he]; exact ⟨.refl .., rfl, rfl⟩
  · rw [he]; exact ⟨by simp [ChangesOnly], rfl, rfl⟩

theorem loaded_of_records (h : t.metering.records = s.metering.records) (r : RecordIx) : t.loaded r = s.loaded r := by
  have hrec : t.record r = s.record r := by simp [record, h]
  rw [loaded, hrec, loaded]

theorem reloaded_of_records (h : t.metering.records = s.metering.records) (e : StreamEntry) (rt : Runtime) :
    t.reloaded e rt = s.reloaded e rt := by
  unfold reloaded
  split
  · exact loaded_of_records h _
  · rfl

/-- The chain heads of a list of entries are loaded, each entry once. -/
def loadHeads (s : State) (l : List (Nat × StreamEntry)) : State := l.foldl (fun s e => loadHead s e.1 e.2) s

theorem loadHeads_frame (l : List (Nat × StreamEntry)) :
    ChangesOnly [.metering] s (s.loadHeads l) ∧ (s.loadHeads l).metering.records = s.metering.records ∧
      (s.loadHeads l).metering.epochElapsed = s.metering.epochElapsed := by
  induction l generalizing s with
  | nil => exact ⟨.refl .., rfl, rfl⟩
  | cons e l ih =>
    obtain ⟨h1, h2, h3⟩ := loadHead_frame (s := s) e.1 e.2
    obtain ⟨i1, i2, i3⟩ := ih (s := loadHead s e.1 e.2)
    exact ⟨h1.trans i1, i2.trans h2, i3.trans h3⟩

theorem loadHeads_runtime {l : List (Nat × StreamEntry)} {n : Nat} (hl : Table.risingFrom n l = true) (i : Nat) :
    (s.loadHeads l).runtime i = s.reloaded (Table.get StreamEntry.invalid l i) (s.runtime i) := by
  induction l generalizing s n with
  | nil => rfl
  | cons e l ih =>
    obtain ⟨j, e⟩ := e
    simp only [Table.risingFrom, Bool.and_eq_true, decide_eq_true_eq] at hl
    have hrec := (loadHead_frame (s := s) j e).2.1
    show ((loadHead s j e).loadHeads l).runtime i = _
    rw [ih hl.2, reloaded_of_records hrec, loadHead_runtime]
    by_cases hi : i = j
    · subst hi
      have hnone : Table.get StreamEntry.invalid l i = StreamEntry.invalid := by
        rw [Table.get, Table.find_none_of_rising hl.2 (by omega)]; rfl
      rw [hnone, if_pos rfl]
      simp [Table.get, Table.find, reloaded, StreamEntry.invalid]
    · rw [if_neg hi]
      simp [Table.get, Table.find, Ne.symm hi]

theorem tablesOk_loadHeads {l : List (Nat × StreamEntry)} (hl : ∀ e ∈ l, e.1 < 256) (h : TablesOk s) :
    TablesOk (s.loadHeads l) := by
  induction l generalizing s with
  | nil => exact h
  | cons e l ih =>
    refine ih (s := loadHead s e.1 e.2) (fun x hx => hl x (List.mem_cons_of_mem _ hx)) ?_
    obtain he | ⟨r, -, -, he⟩ := loadHead_eq (s := s) e.1 e.2
    · rwa [he]
    · rw [he]; exact tablesOk_setRuntime h (hl e List.mem_cons_self) _

/-- A reload leaves a runtime that its entry allows, where the runtime it left was allowed or the entry has no head. -/
theorem runtimeAgrees_reloaded {e : StreamEntry} {rt : Runtime}
    (h : e.valid = false ∨ e.chainHead = none → runtimeAgrees e rt) : runtimeAgrees e (s.reloaded e rt) := by
  unfold reloaded
  cases hv : e.valid
  · exact h (.inl hv)
  · cases hc : e.chainHead with
    | none => exact h (.inr hc)
    | some r => exact runtimeAgrees_loaded hv (by simp [hc]) r

/-- Loading every chain head of the stream table leaves the runtimes in agreement. -/
theorem streamsOk_loadHeads (ht : TablesOk s) (hn : (validTags s.streams).Nodup)
    (hv : ∀ e ∈ s.streams, e.2.valid = true ∧ e.2.tag ≠ 0)
    (hr : ∀ i, (s.stream i).valid = false ∨ (s.stream i).chainHead = none → runtimeAgrees (s.stream i) (s.runtime i)) :
    StreamsOk (s.loadHeads s.streams) := by
  have hfr := (loadHeads_frame (s := s) s.streams).1.streams (by decide)
  refine ⟨tablesOk_loadHeads ht.1.2 ht, by rwa [hfr], by rwa [hfr], fun i => ?_⟩
  rw [stream_of_streams hfr, loadHeads_runtime (Table.risingFrom_zero_of_wf ht.1.1)]
  exact runtimeAgrees_reloaded (hr i)

theorem lawful_loadHeads : Lawful [.metering] s (s.loadHeads s.streams) := by
  have hfr := (loadHeads_frame (s := s) s.streams).1
  exact .of_tables (hfr.mono (by decide)) hfr (congrArg Part.node (hfr.part (by decide)))
    fun h => streamsOk_loadHeads h.1 h.2.1 h.2.2.1 fun i _ => h.2.2.2 i

theorem lawful_epochElapsed (n : Nat) : Lawful [.metering] s (s.withMetering { s.metering with epochElapsed := n }) :=
  .of_tables (by simp [ChangesOnly]) (by simp [ChangesOnly]) rfl id

theorem lawful_epochExpiry : Lawful [.metering] s s.epochExpiry := by
  unfold epochExpiry
  split
  · exact .refl ..
  · exact lawful_loadHeads.trans (lawful_epochElapsed 0)

theorem lawful_restartMetering : Lawful [.metering] s s.restartMetering := by
  have hfr : ChangesOnly [.metering] s s.restartMetering :=
    ChangesOnly.trans (by simp [ChangesOnly])
      (loadHeads_frame (s := s.withMetering { s.metering with runtimes := [], epochElapsed := 0 }) s.streams).1
  refine .of_tables (hfr.mono (by decide)) hfr (congrArg Part.node (hfr.part (by decide)))
    fun ⟨⟨t1, t2, _, t4⟩, h2, h3, _⟩ => ?_
  refine streamsOk_loadHeads (s := s.withMetering { s.metering with runtimes := [], epochElapsed := 0 })
    ⟨t1, t2, ⟨rfl, by simp⟩, t4⟩ h2 h3 fun i hi => hi

/-! ## Written entries -/

theorem writeFrom_cons {α : Type} (f : State → Nat → α → State) (s : State) (i : Nat) (a : α) (l : List α) :
    writeFrom f s i (a :: l) = writeFrom f (f s i a) (i + 1) l := rfl

/-- Lawful writes of the single entries from an index on are a lawful write of all. -/
theorem lawful_writeFrom {α : Type} {bs : List Block} {f : State → Nat → α → State} {n : Nat} {p : α → Prop}
    (hf : ∀ s i a, i < n → p a → Lawful bs s (f s i a)) (l : List α) {i : Nat} (hi : i + l.length ≤ n) (hp : ∀ a ∈ l, p a) :
    Lawful bs s (writeFrom f s i l) := by
  induction l generalizing s i with
  | nil => exact .refl ..
  | cons a l ih =>
    simp only [List.length_cons] at hi
    exact (hf s i a (by omega) (hp a List.mem_cons_self)).trans
      (ih (by omega) fun b hb => hp b (List.mem_cons_of_mem _ hb))

theorem writeStreamEntry_streams (i : Nat) (e : StreamEntry) :
    (s.writeStreamEntry i e).streams = Table.set StreamEntry.invalid s.streams i e := rfl

theorem writeFrom_streams (l : List StreamEntry) (i : Nat) :
    (writeFrom State.writeStreamEntry s i l).streams = overwrite s.streams i l := by
  induction l generalizing s i with
  | nil => rfl
  | cons e l ih => rw [writeFrom_cons, ih, writeStreamEntry_streams]; rfl

/-- What `StreamsOk` asks of the tables but that no two valid entries hold one tag. -/
def EntriesOk (s : State) : Prop :=
  TablesOk s ∧ (∀ e ∈ s.streams, e.2.valid = true ∧ e.2.tag ≠ 0) ∧ ∀ i, runtimeAgrees (s.stream i) (s.runtime i)

theorem entriesOk_writeStreamEntry (h : EntriesOk s) {i : Nat} (hi : i < 256) {e : StreamEntry}
    (he : e = StreamEntry.invalid ∨ e.valid = true ∧ e.tag ≠ 0) : EntriesOk (s.writeStreamEntry i e) := by
  obtain ⟨⟨t1, t2, t3, t4⟩, h2, h3⟩ := h
  refine ⟨⟨tableOk_set t1 hi e, t2, tableOk_set t3 hi _, t4⟩, fun x hx => ?_, fun j => ?_⟩
  · rw [writeStreamEntry_streams, Table.set] at hx
    split at hx
    · exact h2 x (List.mem_filter.1 hx).1
    · rename_i hne
      rcases Table.mem_put hx with rfl | hx
      · exact he.resolve_left hne
      · exact h2 x hx
  · unfold writeStreamEntry
    rw [setRuntime_stream]
    by_cases hj : j = i
    · subst hj
      rw [setStream_stream_self, setRuntime_runtime_self]
      exact runtimeAgrees_rewritten (h3 j)
    · rw [setStream_stream_other s e hj, setRuntime_runtime_other _ _ hj]
      exact h3 j

theorem entriesOk_writeStreams (l : List StreamEntry) {i : Nat} (h : EntriesOk s) (hi : i + l.length ≤ 256)
    (hl : ∀ e ∈ l, e = StreamEntry.invalid ∨ e.valid = true ∧ e.tag ≠ 0) :
    EntriesOk (writeFrom State.writeStreamEntry s i l) := by
  induction l generalizing s i with
  | nil => exact h
  | cons e l ih =>
    simp only [List.length_cons] at hi
    exact ih (entriesOk_writeStreamEntry h (by omega) (hl e List.mem_cons_self)) (by omega)
      fun x hx => hl x (List.mem_cons_of_mem _ hx)

theorem writeStreams_frame (l : List StreamEntry) (i : Nat) :
    ChangesOnly [.streams, .metering] s (writeFrom State.writeStreamEntry s i l) := by
  induction l generalizing s i with
  | nil => exact .refl ..
  | cons e l ih => exact ChangesOnly.trans (by simp [ChangesOnly, writeStreamEntry]) (ih (i + 1))

theorem lawful_writePart (period : BitVec 16) (tag : Tag) :
    Lawful [.metering, .part, .notices] s (s.writePart period tag) := by
  refine Lawful.seq (bs := [.metering, .part]) ?_ lawful_syncTimer (by decide)
  refine .of_tables (by simp [ChangesOnly]) (by simp [ChangesOnly]) rfl fun h => ?_
  exact h

/-- The written entries that a judgement lets pass (R24, R81, R162). -/
def Admits (s : State) (first : Nat) : Written → Prop
  | .streams l => first + l.length ≤ 256 ∧ (∀ e ∈ l, e = StreamEntry.invalid ∨ e.valid = true ∧ e.tag ≠ 0) ∧
      (validTags (overwrite s.streams first l)).Nodup
  | .allots l => first + l.length ≤ 1024
  | .tallies l => first + l.length ≤ 256
  | .tiers l => ∀ n ∈ l, 1 ≤ n ∧ n ≤ 511
  | _ => True

/-- The blocks that carrying out a request may change. -/
def carryBlocks : List Block :=
  [.buf, .streams, .metering, .ports, .queues, .tx, .line, .rx, .agent, .part, .notices, .tallies]

theorem lawful_writeEntries {first : Nat} {w : Written} (h : s.Admits first w) :
    Lawful carryBlocks s (s.writeEntries first w) := by
  cases w with
  | streams l =>
    obtain ⟨hi, hl, hn⟩ := h
    have hfr := writeStreams_frame (s := s) l first
    refine Lawful.mono (bs := [.streams, .metering]) ?_ (by decide)
    refine .of_tables (hfr.mono (by decide)) hfr (congrArg Part.node (hfr.part (by decide))) fun hs => ?_
    obtain ⟨g1, g2, g3⟩ := entriesOk_writeStreams l ⟨hs.1, hs.2.2⟩ hi hl
    exact ⟨g1, (writeFrom_streams (s := s) l first) ▸ hn, g2, g3⟩
  | allots l =>
    exact (lawful_writeFrom (p := fun _ => True) (fun s i a hi _ => lawful_setRecord hi a) l h fun _ _ => trivial).mono (by decide)
  | tallies l =>
    exact (lawful_writeFrom (p := fun _ => True) (fun s i a hi _ => lawful_setTally hi a) l h fun _ _ => trivial).mono (by decide)
  | tiers l =>
    exact (lawful_writeFrom (p := fun n => 1 ≤ n ∧ n ≤ 511) (n := first + l.length)
      (fun s i a _ ha => lawful_setLimit ha) l le_rfl h).mono (by decide)
  | ports l =>
    exact (lawful_writeFrom (p := fun _ => True) (n := first + l.length)
      (fun s i a _ _ => lawful_writeEnabled _ a) l le_rfl fun _ _ => trivial).mono (by decide)
  | parts l =>
    exact (lawful_writeFrom (p := fun _ => True) (n := first + l.length)
      (fun s i a _ _ => lawful_writePart a.1 a.2) l le_rfl fun _ _ => trivial).mono (by decide)
  | discards l =>
    exact (lawful_writeFrom (p := fun _ => True) (n := first + l.length)
      (fun s i a _ _ => lawful_setDiscardCount _ a) l le_rfl fun _ _ => trivial).mono (by decide)

end State

end Sys2Proof.Machine
end

section
/-! PROOFS. Lawful moves of the soft restart and the management agent: a request that passes its judgement is carried out by
lawful moves, and so is every answer and every release event (R13, R19, R151). -/

namespace Sys2Proof.Machine

/-! ## What a judgement lets pass -/

/-- A judgement of entries that passes has read every one of them. -/
theorem parseAll_ok {α : Type} {f : List Byte → Option α} {ls : List (List Byte)} {i : Nat} {as : List α}
    (h : parseAll f i ls = .ok as) : ls.map f = as.map some := by
  induction ls generalizing i as with
  | nil => cases h; rfl
  | cons l ls ih =>
    simp only [parseAll] at h
    split at h
    · cases h
    · rename_i a ha
      split at h
      · cases h
      · rename_i bs hbs; cases h; simp [ha, ih hbs]

theorem length_of_parseAll {α : Type} {f : List Byte → Option α} {ls : List (List Byte)} {i : Nat} {as : List α}
    (h : parseAll f i ls = .ok as) : as.length = ls.length := by
  simpa using (congrArg List.length (parseAll_ok h)).symm

theorem mem_of_parseAll {α : Type} {f : List Byte → Option α} {ls : List (List Byte)} {i : Nat} {as : List α}
    (h : parseAll f i ls = .ok as) {a : α} (ha : a ∈ as) : ∃ l ∈ ls, f l = some a := by
  have : some a ∈ ls.map f := by rw [parseAll_ok h]; exact List.mem_map_of_mem ha
  simpa using this

@[simp] theorem chunks_length (size n : Nat) (l : List Byte) : (chunks size n l).length = n := by
  induction n generalizing l with
  | zero => rfl
  | succ n ih => simp [chunks, ih]

theorem hasRepeat_eq_false {l : List Tag} : hasRepeat l = false ↔ l.Nodup := by
  induction l with
  | nil => simp [hasRepeat]
  | cons t l ih => simp [hasRepeat, ih]

theorem parseStream_spec {l : List Byte} {e : StreamEntry} (h : parseStream l = some e) :
    e = StreamEntry.invalid ∨ e.valid = true ∧ e.tag ≠ 0 := by
  unfold parseStream at h
  dsimp only at h
  split at h
  · split at h
    · cases h
    · rename_i ht
      split at h
      · split at h
        · cases h
        · split at h
          · cases h
          · split at h
            · cases h; exact .inr ⟨rfl, ht⟩
            · cases h; exact .inr ⟨rfl, ht⟩
            · cases h
      · cases h
  · cases h; exact .inl rfl

theorem parseTier_spec {l : List Byte} {n : Nat} (h : parseTier l = some n) : 1 ≤ n ∧ n ≤ 511 := by
  unfold parseTier at h
  dsimp only at h
  split at h
  · rename_i hn; cases h; exact hn
  · cases h

namespace State

variable {s t : State}

theorem validate_admits {table : TableName} {first count : Nat} {data : List Byte} {i : Nat} {w : Written}
    (hi : first + count ≤ tableEntries table) (h : s.validate table first count data = .done (.write i w)) :
    s.Admits i w := by
  unfold validate at h
  dsimp only at h
  split at h
  · split at h
    · cases h
    · rename_i es hes
      split at h
      · cases h
      · rename_i hrep
        cases h
        have hlen := length_of_parseAll hes
        rw [chunks_length] at hlen
        refine ⟨hlen ▸ hi, fun e he => ?_, hasRepeat_eq_false.1 (by simpa using hrep)⟩
        obtain ⟨l, -, hl⟩ := mem_of_parseAll hes he
        exact parseStream_spec hl
  · split at h
    · cases h
    · rename_i es hes
      cases h
      have hlen := length_of_parseAll hes
      rw [chunks_length] at hlen
      exact (hlen ▸ hi : first + es.length ≤ 1024)
  · split at h
    · cases h
    · rename_i es hes
      cases h
      have hlen := length_of_parseAll hes
      rw [chunks_length] at hlen
      exact (hlen ▸ hi : first + es.length ≤ 256)
  · split at h
    · cases h
    · rename_i es hes
      cases h
      intro n hn
      obtain ⟨l, -, hl⟩ := mem_of_parseAll hes hn
      exact parseTier_spec hl
  · split at h
    · cases h
    · cases h; trivial
  · split at h
    · cases h
    · cases h; trivial
  · split at h
    · cases h
    · cases h; trivial
  · cases h

theorem rangeOk_span {w : Window} {offset count most : Nat} (h : rangeOk w offset count most = true) :
    w.base + offset + count ≤ tableEntries w.table := by
  simp only [rangeOk, Bool.and_eq_true, decide_eq_true_eq] at h
  omega

theorem judge_admits {q : Request} {i : Nat} {w : Written} (h : s.judge q = .done (.write i w)) : s.Admits i w := by
  unfold judge at h
  split at h
  · split at h
    · cases h
    · split at h
      · cases h
      · split at h <;> cases h
  · split at h
    · cases h
    · split at h <;> cases h
  · split at h
    · cases h
    · split at h
      · cases h
      · split at h <;> cases h
  · split at h
    · cases h
    · split at h
      · cases h
      · split at h
        · cases h
        · split at h
          · rename_i hr
            split at h
            · cases h
            · exact validate_admits (rangeOk_span hr) h
          · cases h
  · split at h
    · split at h
      · split at h <;> cases h
      · cases h
    · cases h
  · split at h <;> cases h
  · cases h
  · cases h
  · split at h <;> cases h

/-- A verdict whose write, if it is one, the tables accept. -/
def AdmitsVerdict (s : State) (v : Verdict) : Prop := ∀ q i w, v = .fresh q (.done (.write i w)) → s.Admits i w

theorem verdict_admits (s : State) (body : List Byte) : s.AdmitsVerdict (s.verdict body) := by
  intro q i w h
  unfold verdict at h
  split at h
  · cases h
  · split at h
    · split at h
      · cases h
      · injection h with h1 h2; exact judge_admits h2
    · injection h with h1 h2; exact judge_admits h2

theorem AdmitsVerdict.of_streams {v : Verdict} (h : s.AdmitsVerdict v) (ht : t.streams = s.streams) :
    t.AdmitsVerdict v := by
  intro q i w hv
  have hw := h q i w hv
  cases w with
  | streams es => simpa only [Admits, ht] using hw
  | _ => exact hw

/-! ## The soft restart -/

theorem lawful_restartTransmitter : Lawful [.buf, .queues, .tx, .tallies] s s.restartTransmitter := by
  refine Lawful.seq (bs := [.queues, .tx]) ?_ (lawful_flushFrames_quiet _ _) (by decide)
  exact (lawful_foldl (fun s q => lawful_setMembers q []) Tier.all s).seq (lawful_withTx _) (by decide)

theorem lawful_restartContext (q : Tier) : Lawful [.buf, .rx, .tallies] s (s.restartContext q) := by
  unfold restartContext
  split
  · split
    · exact (lawful_setContext _ _).seq (lawful_discardQuiet _ _) (by decide)
    · exact (lawful_setContext _ _).seq (lawful_countDiscard _ _) (by decide)
  · exact (lawful_setContext _ _).mono (by decide)

theorem lawful_restartReceiver : Lawful [.buf, .rx, .tallies] s s.restartReceiver :=
  (lawful_foldl (fun _ q => lawful_restartContext q) Tier.all s).seq lawful_clearFragment (by decide)

theorem lawful_withPart (v : Part) (hn : v.node = s.part.node) : Lawful [.part] s (s.withPart v) :=
  .of_tables (by simp [ChangesOnly]) (by simp [ChangesOnly]) hn id

/-- The agent at a soft restart, with its inbox down to the request under way. -/
def cutAgent (s : State) : State :=
  s.withAgent { s.agent with inbox := s.agent.inbox.take 1, window := none, records := Vector.replicate 4 none }

theorem lawful_cutAgent : Lawful [.agent] s s.cutAgent :=
  lawful_withAgent _ fun hb => (List.length_take_le' ..).trans hb.2.2.2

theorem lawful_restartAgent : Lawful [.buf, .agent, .part, .tallies] s s.restartAgent := by
  have hflush : Lawful [.buf, .agent, .tallies] s (s.cutAgent.flushFrames .flush false (s.agent.inbox.drop 1)) :=
    lawful_cutAgent.seq (lawful_flushFrames_quiet _ _) (by decide)
  exact hflush.seq (lawful_withPart _ rfl) (by decide)

theorem lawful_softRestart : Lawful carryBlocks s s.softRestart := by
  refine Lawful.seq (bs := carryBlocks) ?_ lawful_restartNotices (by decide)
  refine Lawful.seq (bs := carryBlocks) ?_ lawful_restartMetering (by decide)
  refine Lawful.seq (bs := carryBlocks) ?_ lawful_restartAgent (by decide)
  refine Lawful.seq (bs := carryBlocks) ?_ lawful_restartReceiver (by decide)
  refine Lawful.seq (bs := .ports :: flushBlocks) ?_ lawful_restartTransmitter (by decide)
  exact lawful_foldl (fun _ p => lawful_resetPort p false) allPorts s

/-! ## The answer of a request -/

/-- The agent's state, window and records, with the inbox as it is. -/
theorem lawful_agentFields (v : Agent) (h : v.inbox = s.agent.inbox) : Lawful [.agent] s (s.withAgent v) :=
  lawful_withAgent v fun hb => h ▸ hb.2.2.2

theorem lawful_carryOut {c : Controller} {e : Effect} (h : ∀ i w, e = .write i w → s.Admits i w) :
    Lawful carryBlocks s (s.carryOut c e).1 := by
  cases e with
  | select t base => exact Lawful.mono (bs := [.agent]) (lawful_withAgent _ fun hb => hb.2.2.2) (by decide)
  | release => exact Lawful.mono (bs := [.agent]) (lawful_withAgent _ fun hb => hb.2.2.2) (by decide)
  | read t first count => exact .refl ..
  | write first w => exact lawful_writeEntries (h first w rfl)
  | append r n => exact (lawful_appendRecord r n).mono (by decide)
  | acknowledge lost => exact (lawful_acknowledge lost).mono (by decide)
  | status => exact .refl ..
  | restart => exact lawful_softRestart
  | portReset p => exact (lawful_resetPort p true).mono (by decide)

theorem lawful_carryVerdict {v : Verdict} (h : s.AdmitsVerdict v) : Lawful carryBlocks s (s.carryVerdict v).1 := by
  unfold carryVerdict
  split
  · rename_i q e
    exact lawful_carryOut fun i w he => h q i w (he ▸ rfl)
  · exact .refl ..
  · exact .refl ..

theorem lawful_recordAnswer (v : Verdict) : Lawful [.agent] s (s.recordAnswer v) := by
  unfold recordAnswer
  split
  · split
    · exact .refl ..
    · exact lawful_agentFields _ rfl
  · exact .refl ..

theorem lawful_touchWindow (c : Byte) : Lawful [.agent] s (s.touchWindow c) := by
  unfold touchWindow
  split
  · exact .refl ..
  · split
    · exact lawful_agentFields _ rfl
    · exact .refl ..

theorem lawful_noticesAfterReply (before : Tag) (v : Verdict) : Lawful noticeBlocks s (s.noticesAfterReply before v) := by
  unfold noticesAfterReply
  split
  · exact lawful_noticeAttempt
  · exact lawful_noticeAttempt
  · split
    · exact lawful_noticeResume
    · exact .refl ..
  · exact .refl ..

theorem lawful_releaseRequest (h : Nat) : Lawful (.agent :: noticeBlocks) s (s.releaseRequest h) := by
  refine Lawful.seq (bs := [.buf, .agent]) ?_ lawful_noticeRetry (by decide)
  refine Lawful.seq (bs := [.agent]) (lawful_withAgent _ fun hb => ?_) (lawful_freeHandle h) (by decide)
  have := hb.2.2.2
  simp only [List.length_tail]; omega

theorem lawful_answer {h r : Nat} {body : List Byte} {v : Verdict} (hv : s.AdmitsVerdict v) :
    Lawful carryBlocks s (s.answer h r body v) := by
  refine Lawful.seq (bs := carryBlocks) ?_ (lawful_releaseRequest h) (by decide)
  refine Lawful.seq (bs := carryBlocks) ?_ (lawful_noticesAfterReply _ v) (by decide)
  refine Lawful.seq (bs := carryBlocks) ?_ (lawful_joinQueue .t0 r) (by decide)
  refine Lawful.seq (bs := carryBlocks) ?_ (lawful_storeOctets r _) (by decide)
  refine Lawful.seq (bs := carryBlocks) ?_ (lawful_touchWindow _) (by decide)
  exact (lawful_carryVerdict hv).seq (lawful_recordAnswer v) (by decide)

theorem lawful_attempt : Lawful carryBlocks s s.attempt := by
  unfold attempt
  split
  · exact .refl ..
  · dsimp only
    split
    · exact Lawful.mono (bs := [.agent]) (lawful_withAgent _ fun hb => hb.2.2.2) (by decide)
    · rename_i hc
      exact (lawful_claimCompound hc).seq (lawful_answer ((verdict_admits s _).of_streams (claimCompound_streams hc))) (by decide)

theorem lawful_releaseEvent : Lawful carryBlocks s s.releaseEvent := by
  unfold releaseEvent
  split
  · dsimp only
    split
    · exact lawful_attempt
    · exact lawful_attempt.seq lawful_noticeRetry (by decide)
  · exact lawful_noticeRetry.mono (by decide)

theorem lawful_releaseEventsTaken (n : Nat) : Lawful carryBlocks s (s.releaseEventsTaken n) := by
  induction n generalizing s with
  | zero => exact .refl ..
  | succ n ih => exact lawful_releaseEvent.trans ih

/-- The blocks that a command other than power-on reset may change. -/
def commandBlocks : List Block := .releaseEvents :: carryBlocks

theorem lawful_settle : Lawful commandBlocks s s.settle :=
  (lawful_withReleaseEvents 0).seq (lawful_releaseEventsTaken _) (by decide)

/-- Taking the release events leaves none untaken (R13). -/
@[simp] theorem settle_releaseEvents : s.settle.releaseEvents = 0 :=
  (lawful_releaseEventsTaken s.releaseEvents).frame.releaseEvents (by decide)

theorem lawful_offerInbox (h : Nat) : Lawful commandBlocks s (s.offerInbox h) := by
  unfold offerInbox
  split
  · exact (lawful_discard _ _).mono (by decide)
  · rename_i hlen
    have hjoin : Lawful [.buf, .agent] s
        ((s.setHolder h .inbox).withAgent { s.agent with inbox := s.agent.inbox ++ [h] }) := by
      refine (lawful_setHolder h _).seq (lawful_withAgent _ fun _ => ?_) (by decide)
      simp only [Config.inboxSize] at hlen
      simp only [List.length_append, List.length_singleton]; omega
    dsimp only
    split
    · exact hjoin.seq lawful_attempt (by decide)
    · exact hjoin.mono (by decide)

theorem lawful_deliverRequest (q : Tier) (body : List Byte) : Lawful commandBlocks s (s.deliverRequest q body) := by
  unfold deliverRequest
  split
  · exact (lawful_countDiscard _ _).mono (by decide)
  · split
    · exact (lawful_countDiscard _ _).mono (by decide)
    · rename_i h s1 hc
      have hstore := (lawful_claimHandle hc).trans (lawful_appendOctets true h body)
      split
      · rename_i s2 hs2
        rw [hs2] at hstore
        exact hstore.seq (lawful_discard _ _) (by decide)
      · rename_i s2 hs2
        rw [hs2] at hstore
        exact hstore.seq (lawful_offerInbox h) (by decide)

end State

end Sys2Proof.Machine
end

section
/-! PROOFS. Lawful moves of the receiver, the trunk line, the tributaries and the timers, and so of every command but power-on
reset and of every tick. -/

namespace Sys2Proof.Machine

namespace State

variable {s t : State}

/-! ## The receiver -/

/-- The blocks that giving up or abandoning a context may change. -/
def contextBlocks : List Block := [.buf, .rx, .tallies, .releaseEvents]

/-- The blocks that a symbol at the receiver may change before its release events are taken. -/
def receiveBlocks : List Block := [.buf, .queues, .tx, .line, .rx, .notices, .tallies, .releaseEvents]

theorem lawful_discardAssembly (c : Cause) (a : Assembly) :
    Lawful [.buf, .tallies, .releaseEvents] s (s.discardAssembly c a) := by
  unfold discardAssembly
  split
  · exact lawful_discard c _
  · exact (lawful_countDiscard c none).mono (by decide)

theorem lawful_trackFragment (q : Tier) : Lawful [.rx] s (s.trackFragment q) := by
  unfold trackFragment
  split
  · rename_i f hf
    split
    · exact lawful_setFragment _ fun hb f' h' => by cases h'; exact hb.2.2.1 f hf
    · exact .refl ..
  · exact .refl ..

theorem lawful_giveUp (q : Tier) (c : Cause) : Lawful contextBlocks s (s.giveUp q c) := by
  unfold giveUp
  split
  · rename_i a _
    refine Lawful.seq (bs := [.rx]) ?_ (lawful_discardAssembly c a) (by decide)
    exact (lawful_setContext q _).trans (lawful_trackFragment q)
  · exact .refl ..

theorem lawful_abandon (c : Cause) (q : Tier) : Lawful contextBlocks s (s.abandon c q) := by
  unfold abandon
  split
  · exact (lawful_setContext q _).seq (lawful_discardAssembly c _) (by decide)
  · exact (lawful_setContext q _).mono (by decide)
  · exact .refl ..

theorem lawful_abandonAll (c : Cause) : Lawful contextBlocks s (s.abandonAll c) :=
  (lawful_foldl (fun _ q => lawful_abandon c q) Tier.all s).seq lawful_clearFragment (by decide)

theorem lawful_advanceIndex (q : Tier) : Lawful [.rx] s (s.advanceIndex q) := by
  unfold advanceIndex
  split
  · exact lawful_setContext q _
  · exact lawful_setContext q _
  · exact .refl ..

theorem lawful_slip : Lawful contextBlocks s s.slip := by
  unfold slip
  split
  · exact .refl ..
  · split
    · exact (lawful_giveUp _ _).seq lawful_clearFragment (by decide)
    · exact lawful_clearFragment.mono (by decide)

theorem lawful_nestingCheck (q : Tier) : Lawful receiveBlocks s (s.nestingCheck q) := by
  have hfold : Lawful contextBlocks s ((moreUrgentThan q).foldl (fun s u => s.abandon .sequence u) s) :=
    lawful_foldl (fun _ u => lawful_abandon .sequence u) _ s
  unfold nestingCheck
  dsimp only
  split
  · exact hfold.seq (lawful_raiseNotice _) (by decide)
  · exact hfold.mono (by decide)

theorem lawful_reopenCheck (q : Tier) : Lawful receiveBlocks s (s.reopenCheck q) := by
  have habandon : Lawful contextBlocks s (s.abandon .sequence q) := lawful_abandon .sequence q
  unfold reopenCheck
  dsimp only
  split
  · exact habandon.seq (lawful_raiseNotice _) (by decide)
  · exact habandon.mono (by decide)

/-- The record of a fragment that has just opened holds no octet. -/
theorem lawful_openFragment (q : Tier) (k : FragKind) (m : RxMode) :
    Lawful [.rx] s (s.setFragment (some (newFragment q k m))) :=
  lawful_setFragment _ fun _ f hf => by cases hf; simp [newFragment]

theorem lawful_openContext (q : Tier) : Lawful [.rx] s (s.openContext q) :=
  (lawful_setContext q _).trans (lawful_openFragment q .first .storing)

theorem lawful_receiveOpenFirst (q : Tier) : Lawful receiveBlocks s (s.receiveOpenFirst q) := by
  refine Lawful.seq (bs := receiveBlocks) ?_ (lawful_openContext q) (by decide)
  refine Lawful.seq (bs := receiveBlocks) ?_ (lawful_reopenCheck q) (by decide)
  exact lawful_slip.seq (lawful_nestingCheck q) (by decide)

theorem lawful_indexCheck (q : Tier) (i : FragIx) : Lawful receiveBlocks s (s.indexCheck q i) := by
  unfold indexCheck
  split
  · split
    · exact .refl ..
    · refine Lawful.seq (bs := contextBlocks) ?_ (lawful_raiseNotice _) (by decide)
      split
      · exact (lawful_giveUp q .sequence).seq (lawful_setContext q _) (by decide)
      · exact lawful_giveUp q .sequence
  · exact (lawful_setContext q _).mono (by decide)
  · exact .refl ..

theorem lawful_receiveOpenNext (q : Tier) (i : FragIx) : Lawful receiveBlocks s (s.receiveOpenNext q i) := by
  unfold receiveOpenNext
  dsimp only
  split
  · refine Lawful.seq (bs := receiveBlocks) ?_ (lawful_openFragment q .next .ignored) (by decide)
    exact lawful_slip.seq (lawful_raiseNotice _) (by decide)
  · refine Lawful.seq (bs := receiveBlocks) ?_ (lawful_openFragment q .next _) (by decide)
    refine Lawful.seq (bs := receiveBlocks) ?_ (lawful_indexCheck q i) (by decide)
    exact lawful_slip.seq (lawful_nestingCheck q) (by decide)

theorem lawful_storeData (q : Tier) (b : Byte) : Lawful contextBlocks s (s.storeData q b) := by
  unfold storeData
  split
  · split
    · split
      · exact lawful_giveUp q _
      · split
        · exact lawful_giveUp q _
        · rename_i hs
          exact (lawful_appendOctet hs).seq (lawful_setContext q _) (by decide)
    · exact .refl ..
  · exact .refl ..

theorem lawful_storeHeld (q : Tier) (l : List Byte) : Lawful contextBlocks s (s.storeHeld q l) := by
  induction l generalizing s with
  | nil => exact .refl ..
  | cons b l ih => exact (lawful_storeData q b).trans ih

theorem lawful_headerLength (q : Tier) (d : Nat) : Lawful contextBlocks s (s.headerLength q d) := by
  unfold headerLength
  split
  · exact lawful_giveUp q _
  · split
    · exact (lawful_setContext q _).mono (by decide)
    · exact .refl ..

theorem lawful_headerTag (q : Tier) (tag : Tag) : Lawful contextBlocks s (s.headerTag q tag) := by
  unfold headerTag
  split
  · dsimp only
    split
    · exact (lawful_setContext q _).seq (lawful_giveUp q _) (by decide)
    · rename_i h s1 hc
      have hclaim : Lawful [.buf, .rx] s s1 := (lawful_setContext q _).seq (lawful_claimHandle hc) (by decide)
      have hstore := fun m => lawful_appendOctets (s := s1) m h (octets2 tag)
      split
      · rename_i s2 hs2
        have hs := hstore (addressesPart s.part.node tag)
        rw [hs2] at hs
        refine Lawful.seq (bs := [.buf, .rx]) ?_ (lawful_giveUp q _) (by decide)
        exact (hclaim.seq (ds := [.buf, .rx]) hs (by decide)).seq (lawful_setContext q _) (by decide)
      · rename_i s2 hs2
        have hs := hstore (addressesPart s.part.node tag)
        rw [hs2] at hs
        exact (hclaim.seq (ds := [.buf, .rx]) hs (by decide)).seq (lawful_setContext q _) (by decide)
  · exact .refl ..

theorem lawful_headerOctet {f : RxFragment} (hf : s.rx.fragment = some f) (hlen : f.header.length < 4) (b : Byte) :
    Lawful contextBlocks s (s.headerOctet f b) := by
  have hset : Lawful [.rx] s (s.setFragment (some { f with
      header := f.header ++ [b], check := checkOctet fragmentGenerator f.check b })) :=
    lawful_setFragment _ fun hb f' h' => by
      cases h'
      exact ⟨by simp only [List.length_append, List.length_singleton]; omega, (hb.2.2.1 f hf).2⟩
  unfold headerOctet
  dsimp only
  split
  · split
    · exact hset.seq (lawful_headerLength _ _) (by decide)
    · exact hset.seq (lawful_headerTag _ _) (by decide)
    · exact hset.mono (by decide)
  · exact hset.mono (by decide)

theorem lawful_receiveData (b : Byte) : Lawful contextBlocks s (s.receiveData b) := by
  unfold receiveData
  split
  · exact .refl ..
  · rename_i f hf
    have hset {l : List Byte} {c : BitVec 16} (hl : l.length ≤ 6) :
        Lawful [.rx] s (s.setFragment (some { f with hold := l, check := c })) :=
      lawful_setFragment _ fun hb f' h' => by cases h'; exact ⟨(hb.2.2.1 f hf).1, hl⟩
    split
    · rename_i hk
      exact lawful_headerOctet hf hk.2 b
    · split
      · exact (hset (by simp)).mono (by decide)
      · rename_i oldest rest hh
        split
        · rename_i hlt
          simp only [Config.trunkHold] at hlt
          exact (hset (by simp only [List.length_append, List.length_singleton]; omega)).mono (by decide)
        · have hshift : Lawful [.rx] s (s.setFragment (some { f with
              hold := rest ++ [b], check := checkOctet fragmentGenerator f.check oldest })) :=
            lawful_setFragment _ fun hb f' h' => by
              cases h'
              have := hb.2.2.1 f hf
              rw [hh] at this
              exact ⟨this.1, by simpa using this.2⟩
          dsimp only
          split
          · exact hshift.seq (lawful_storeData _ _) (by decide)
          · exact hshift.mono (by decide)

theorem lawful_receiveCloseMore : Lawful contextBlocks s s.receiveCloseMore := by
  unfold receiveCloseMore
  split
  · exact .refl ..
  · split
    · refine Lawful.seq (bs := contextBlocks) ?_ lawful_clearFragment (by decide)
      exact (lawful_storeHeld _ _).seq (lawful_advanceIndex _) (by decide)
    · exact (lawful_giveUp _ _).seq lawful_clearFragment (by decide)
    · exact (lawful_advanceIndex _).seq lawful_clearFragment (by decide)
    · exact lawful_clearFragment.mono (by decide)
    · exact lawful_clearFragment.mono (by decide)

theorem lawful_routeStream (h : Nat) (tag : Tag) :
    Lawful [.buf, .ports, .tallies, .releaseEvents] s (s.routeStream h tag) := by
  unfold routeStream
  split
  · exact (lawful_discard _ _).mono (by decide)
  · rename_i i _
    have hmod : Lawful [.buf] s (s.modHandle h fun r => { r with stream := some i }) := lawful_modHandle h _ fun _ => rfl
    dsimp only
    split
    · split
      · rename_i hlen
        refine Lawful.seq (bs := [.buf, .ports]) ?_ (lawful_countDelivered i) (by decide)
        exact hmod.seq (lawful_joinEgress (by rwa [port_of_ports (hmod.frame.ports (by decide))])) (by decide)
      · exact hmod.seq (lawful_discard _ _) (by decide)
    · exact hmod.seq (lawful_discard _ _) (by decide)

theorem lawful_completeFrame (a : Assembly) (check : List Byte) :
    Lawful commandBlocks s (s.completeFrame a check) := by
  unfold completeFrame
  split
  · exact (lawful_countDiscard _ _).mono (by decide)
  · split
    · split
      · exact lawful_offerInbox _
      · exact (lawful_routeStream _ _).mono (by decide)
    · exact (lawful_discard _ _).mono (by decide)

theorem lawful_receiveCloseLast : Lawful commandBlocks s s.receiveCloseLast := by
  unfold receiveCloseLast
  split
  · exact .refl ..
  · rename_i f _
    split
    · exact lawful_clearFragment.mono (by decide)
    · dsimp only
      have hcheck : Lawful contextBlocks s
          (if f.mode = .storing ∧ f.checks 6 = false then s.giveUp f.tier .fragmentCheck else s) := by
        split
        · exact lawful_giveUp _ _
        · exact .refl ..
      have hclose : Lawful contextBlocks s ((((if f.mode = .storing ∧ f.checks 6 = false then
          s.giveUp f.tier .fragmentCheck else s).setContext f.tier .closed).setFragment none)) := by
        refine Lawful.seq (bs := contextBlocks) ?_ lawful_clearFragment (by decide)
        exact hcheck.seq (lawful_setContext f.tier .closed) (by decide)
      split
      · exact hclose.seq (lawful_completeFrame _ _) (by decide)
      · exact hclose.mono (by decide)

/-! ## The trunk line -/

theorem lawful_leaveUp : Lawful receiveBlocks s s.leaveUp := by
  refine Lawful.seq (bs := receiveBlocks) ?_ lawful_trunkIdle (by decide)
  refine Lawful.seq (bs := receiveBlocks) ?_ lawful_syncTimer (by decide)
  refine Lawful.seq (bs := receiveBlocks) ?_ (lawful_withLine _) (by decide)
  refine Lawful.seq (bs := receiveBlocks) ?_ (lawful_abandonAll .trunkDown) (by decide)
  exact (lawful_withLine _).seq lawful_transmitterLoss (by decide)

theorem lawful_reachUp : Lawful noticeBlocks s s.reachUp := by
  refine Lawful.seq (bs := noticeBlocks) ?_ lawful_noticeResume (by decide)
  refine Lawful.seq (bs := noticeBlocks) ?_ lawful_syncTimer (by decide)
  have hup : Lawful [.tx, .line] s ((s.withLine { s.line with
      link := .up, idleRun := 0, invalidRun := 0, beenUp := true }).withTx { s.tx with mode := .clearing }) :=
    (lawful_withLine _).seq (lawful_withTx _) (by decide)
  dsimp only
  split
  · exact hup.seq (lawful_raiseNotice _) (by decide)
  · exact hup.mono (by decide)

theorem lawful_trunkIdleSymbol : Lawful noticeBlocks s s.trunkIdleSymbol := by
  unfold trunkIdleSymbol
  split
  · exact .refl ..
  · split
    · exact (lawful_withLine _).mono (by decide)
    · split
      · exact (lawful_withLine _).mono (by decide)
      · exact lawful_reachUp
    · exact (lawful_withLine _).mono (by decide)

theorem lawful_losDeasserted : Lawful [.line] s s.losDeasserted := by
  have hlos : Lawful [.line] s (s.withLine { s.line with los := false }) := lawful_withLine _
  unfold losDeasserted
  dsimp only
  split
  · exact hlos.trans (lawful_withLine _)
  · exact hlos

/-! ## The tributaries -/

/-- The blocks that a tributary symbol may change short of a hand-over. -/
def ingressBlocks : List Block := [.buf, .ports, .tallies, .releaseEvents]

/-- The blocks that a tributary symbol may change before its release events are taken. -/
def tribBlocks : List Block := [.buf, .metering, .ports, .queues, .tx, .line, .notices, .tallies, .releaseEvents]

theorem lawful_endIngress (p : Port) (c : Cause) {next : Ingress} (hn : next = .idle ∨ next = .skipping) :
    Lawful ingressBlocks s (s.endIngress p c next) := by
  have hset : Lawful [.ports] s (s.setIngress p next) := lawful_setIngress p next fun h hold he => by
    rcases hn with rfl | rfl <;> cases he
  unfold endIngress
  split
  · exact .refl ..
  · exact hset.seq (lawful_countDiscard c none) (by decide)
  · exact hset.seq (lawful_discard c _) (by decide)
  · exact .refl ..

theorem lawful_ingressOpen (p : Port) : Lawful ingressBlocks s (s.ingressOpen p) := by
  unfold ingressOpen
  dsimp only
  split
  · exact (lawful_endIngress p _ (.inl rfl)).seq (lawful_setIngress p _ nofun) (by decide)
  · exact (lawful_endIngress p _ (.inl rfl)).seq (lawful_setIngress p _ nofun) (by decide)

theorem lawful_ingressTag (p : Port) (tag : Tag) : Lawful ingressBlocks s (s.ingressTag p tag) := by
  have hskip : ∀ u : State, Lawful [.ports] u (u.setIngress p .skipping) := fun u => lawful_setIngress p _ nofun
  unfold ingressTag
  dsimp only
  split
  · exact (hskip s).seq (lawful_countDiscard _ _) (by decide)
  · split
    · exact (hskip s).seq (lawful_countDiscard _ _) (by decide)
    · split
      · exact (hskip s).seq (lawful_countDiscard _ _) (by decide)
      · rename_i h s1 hc
        have hstore := (lawful_claimHandle hc).trans (lawful_appendOctets false h (octets2 tag))
        split
        · rename_i s2 hs2
          rw [hs2] at hstore
          exact (hstore.seq (ds := [.buf, .ports]) (hskip s2) (by decide)).seq (lawful_discard _ _) (by decide)
        · rename_i s2 hs2
          rw [hs2] at hstore
          exact hstore.seq (lawful_setIngress p _ fun _ _ he => by cases he; simp) (by decide)

theorem lawful_ingressOctet {p : Port} {h : Nat} {hold : List Byte} (hi : (s.port p).ingress = .receiving h hold)
    (b : Byte) : Lawful ingressBlocks s (s.ingressOctet p h hold b) := by
  have hskip : Lawful [.ports] s (s.setIngress p .skipping) := lawful_setIngress p _ nofun
  unfold ingressOctet
  split
  · exact Lawful.mono (lawful_setIngress p _ fun _ _ he => by cases he; simp) (by decide)
  · rename_i oldest rest
    split
    · rename_i hlt
      simp only [Config.ingressHold, List.length_cons] at hlt
      exact Lawful.mono (lawful_setIngress p _ fun _ _ he => by cases he; simpa using hlt) (by decide)
    · split
      · exact .refl ..
      · split
        · exact hskip.seq (lawful_discard _ _) (by decide)
        · split
          · exact hskip.seq (lawful_discard _ _) (by decide)
          · rename_i s1 hs1
            have happend := lawful_appendOctet hs1
            have hset : BoundsOk s1 → rest.length + 1 ≤ 4 := fun hb => by
              have := (hb.1 p).2 h (oldest :: rest)
                (by rw [port_of_ports (happend.frame.ports (by decide))]; exact hi)
              simpa using this
            refine happend.seq (cs := [.ports]) ?_ (by decide)
            refine .of_bounds (by simp [ChangesOnly]) (by simp [ChangesOnly]) fun hb =>
              boundsOk_setPort hb (hb.1 p).1 fun _ _ he => by cases he; simpa using hset hb

theorem lawful_ingressData (p : Port) (b : Byte) : Lawful ingressBlocks s (s.ingressData p b) := by
  unfold ingressData
  split
  · exact .refl ..
  · exact Lawful.mono (lawful_setIngress p _ nofun) (by decide)
  · exact lawful_ingressTag p _
  · rename_i hi; exact lawful_ingressOctet hi b
  · exact .refl ..

theorem lawful_handOver (h : Nat) (i : StreamIx) (len : Nat) : Lawful tribBlocks s (s.handOver h i len) := by
  have hcharge := lawful_charge (s := s) i len
  unfold handOver
  dsimp only
  split
  · exact hcharge.seq (lawful_discard _ _) (by decide)
  · exact hcharge.seq (lawful_discard _ _) (by decide)
  · rename_i q _
    have hoffer : Lawful tribBlocks s (((s.charge i len).2.fixTier h i q).offerQueue q h).2 :=
      (hcharge.seq (ds := tribBlocks) (lawful_fixTier h i q) (by decide)).seq (lawful_offerQueue q h) (by decide)
    split
    · exact hoffer
    · exact hoffer.seq (lawful_discard _ _) (by decide)

theorem lawful_ingressClose (p : Port) (h : Nat) (hold : List Byte) : Lawful tribBlocks s (s.ingressClose p h hold) := by
  have hidle : Lawful [.ports] s (s.setIngress p .idle) := lawful_setIngress p _ nofun
  unfold ingressClose
  split
  · exact .refl ..
  · dsimp only
    split
    · exact hidle.seq (lawful_discard _ _) (by decide)
    · split
      · exact hidle.seq (lawful_discard _ _) (by decide)
      · split
        · refine Lawful.seq (bs := [.buf, .ports]) ?_ (lawful_discard _ _) (by decide)
          exact hidle.seq (lawful_modHandle h _ fun _ => rfl) (by decide)
        · exact hidle.seq (lawful_handOver _ _ _) (by decide)

theorem lawful_ingressEnd (p : Port) : Lawful tribBlocks s (s.ingressEnd p) := by
  have hidle : Lawful [.ports] s (s.setIngress p .idle) := lawful_setIngress p _ nofun
  unfold ingressEnd
  split
  · exact .refl ..
  · exact hidle.seq (lawful_countDiscard _ _) (by decide)
  · exact lawful_ingressClose p _ _
  · exact hidle.mono (by decide)

theorem lawful_ingressAbort (p : Port) : Lawful ingressBlocks s (s.ingressAbort p) :=
  (lawful_endIngress p _ (.inl rfl)).seq (lawful_setIngress p _ nofun) (by decide)

/-! ## The timers -/

theorem lawful_windowExpiry : Lawful [.agent] s s.windowExpiry := lawful_withAgent _ fun hb => hb.2.2.2

theorem lawful_tickEpoch : Lawful [.metering] s s.tickEpoch := by
  unfold tickEpoch
  split
  · exact .refl ..
  · split
    · exact lawful_epochElapsed _
    · exact lawful_epochExpiry

theorem lawful_tickWindow : Lawful [.agent] s s.tickWindow := by
  unfold tickWindow
  split
  · exact .refl ..
  · split
    · exact lawful_withAgent _ fun hb => hb.2.2.2
    · exact lawful_windowExpiry

theorem lawful_tickResend : Lawful noticeBlocks s s.tickResend := by
  unfold tickResend
  split
  · split
    · exact (lawful_withNotices _).mono (by decide)
    · exact lawful_resendExpiry
  · exact .refl ..

theorem lawful_tick : Lawful commandBlocks s s.tick :=
  (lawful_tickEpoch.seq (ds := [.metering, .agent]) lawful_tickWindow (by decide)).seq lawful_tickResend (by decide)

/-! ## Every command -/

theorem lawful_selectAfterClose : Lawful [.buf, .queues, .tx, .line] s s.selectAfterClose := by
  unfold selectAfterClose
  split
  · exact lawful_select
  · exact .refl ..

/-- A command's lawful move, which leaves no release event untaken where none was waiting (R13). -/
def Carried (s t : State) : Prop := Lawful commandBlocks s t ∧ (s.releaseEvents = 0 → t.releaseEvents = 0)

theorem carried_settled {bs : List Block} (h : Lawful bs s t) (hsub : bs ⊆ commandBlocks) :
    Carried s t.settle := ⟨(h.mono hsub).trans lawful_settle, fun _ => settle_releaseEvents⟩

theorem carried_quiet {bs : List Block} (h : Lawful bs s t) (hsub : bs ⊆ commandBlocks ∧ Block.releaseEvents ∉ bs) : Carried s t :=
  ⟨h.mono hsub.1, fun h0 => (h.frame.releaseEvents hsub.2).trans h0⟩

theorem carried_refl (s : State) : Carried s s := ⟨.refl .., id⟩

theorem carried_request (h : ReqHeader) (kind : Byte) (args : List Byte) : Carried s (s.request h kind args) :=
  carried_settled (lawful_deliverRequest _ _) (by decide)

theorem carried_trunkSymbol {f : State → State} (hf : ∀ s : State, Lawful commandBlocks s (f s)) :
    Carried s (s.trunkSymbol f) := by
  unfold trunkSymbol
  split
  · exact carried_refl s
  · split
    · exact carried_quiet (lawful_withLine _) (by decide)
    · exact carried_quiet (lawful_withLine _) (by decide)
    · exact carried_settled ((lawful_withLine _).seq (hf _) (by decide) (ds := commandBlocks)) (by decide)

theorem carried_trunkInvalid : Carried s s.trunkInvalid := by
  unfold trunkInvalid
  split
  · exact carried_refl s
  · split
    · exact carried_quiet (lawful_withLine _) (by decide)
    · exact carried_quiet (lawful_withLine _) (by decide)
    · split
      · exact carried_settled ((lawful_withLine _).seq lawful_slip (by decide) (ds := commandBlocks)) (by decide)
      · exact carried_settled lawful_leaveUp (by decide)

theorem carried_losAsserted : Carried s s.losAsserted := by
  have hlos : Lawful [.line] s (s.withLine { s.line with los := true }) := lawful_withLine _
  unfold losAsserted
  dsimp only
  split
  · exact carried_quiet hlos (by decide)
  · exact carried_quiet (hlos.trans (lawful_withLine _)) (by decide)
  · exact carried_settled (hlos.seq lawful_leaveUp (by decide) (ds := commandBlocks)) (by decide)

end State

/-- Every command but power-on reset is a lawful move that leaves no release event untaken. -/
theorem lawful_exec {x : Instr} (hx : ∀ straps los, x ≠ .powerOnReset straps los) (s : State) :
    ∃ t, exec x s = .next t ∧ s.Carried t := by
  cases x with
  | powerOnReset straps los => exact absurd rfl (hx straps los)
  | tributaryOpen p => exact ⟨_, rfl, State.carried_settled (State.lawful_ingressOpen p) (by decide)⟩
  | tributaryDataOctet p b => exact ⟨_, rfl, State.carried_settled (State.lawful_ingressData p b) (by decide)⟩
  | closeEnd p => exact ⟨_, rfl, State.carried_settled (State.lawful_ingressEnd p) (by decide)⟩
  | closeAbort p => exact ⟨_, rfl, State.carried_settled (State.lawful_ingressAbort p) (by decide)⟩
  | tributaryInvalidSymbol p => exact ⟨_, rfl, State.carried_settled (State.lawful_endIngress p _ (.inr rfl)) (by decide)⟩
  | tributaryIdle p => exact ⟨_, rfl, State.carried_refl s⟩
  | egressCloseEndSent p => exact ⟨_, rfl, State.carried_settled (State.lawful_egressSent p) (by decide)⟩
  | trkLosAsserted => exact ⟨_, rfl, State.carried_losAsserted⟩
  | trkLosDeasserted => exact ⟨_, rfl, State.carried_quiet State.lawful_losDeasserted (by decide)⟩
  | trunkIdleReceived => exact ⟨_, rfl, State.carried_quiet State.lawful_trunkIdleSymbol (by decide)⟩
  | openFirst q => exact ⟨_, rfl, State.carried_trunkSymbol fun _ => (State.lawful_receiveOpenFirst q).mono (by decide)⟩
  | openNext q i => exact ⟨_, rfl, State.carried_trunkSymbol fun _ => (State.lawful_receiveOpenNext q i).mono (by decide)⟩
  | trunkDataOctet b => exact ⟨_, rfl, State.carried_trunkSymbol fun _ => (State.lawful_receiveData b).mono (by decide)⟩
  | closeMore => exact ⟨_, rfl, State.carried_trunkSymbol fun _ => State.lawful_receiveCloseMore.mono (by decide)⟩
  | closeLast => exact ⟨_, rfl, State.carried_trunkSymbol fun _ => State.lawful_receiveCloseLast⟩
  | clearReceived => exact ⟨_, rfl, State.carried_trunkSymbol fun _ => (State.lawful_abandonAll .cleared).mono (by decide)⟩
  | trunkInvalidSymbol => exact ⟨_, rfl, State.carried_trunkInvalid⟩
  | blockSent => exact ⟨_, rfl, State.carried_quiet State.lawful_blockSent (by decide)⟩
  | closeMoreSent => exact ⟨_, rfl, State.carried_quiet State.lawful_closeMoreSent (by decide)⟩
  | closeLastSent =>
    rcases hc : s.completeActive with _ | u
    · exact ⟨s, by simp only [exec, execCloseLastSent, hc], State.carried_refl s⟩
    · refine ⟨u.settle.selectAfterClose, by simp only [exec, execCloseLastSent, hc], ?_⟩
      obtain ⟨hl, h0⟩ := State.carried_settled (State.lawful_completeActive hc) (by decide)
      exact ⟨hl.seq State.lawful_selectAfterClose (by decide),
        fun h => (State.lawful_selectAfterClose.frame.releaseEvents (by decide)).trans (h0 h)⟩
  | clearSent => exact ⟨_, rfl, State.carried_quiet State.lawful_clearSent (by decide)⟩
  | epochExpiry => exact ⟨_, rfl, State.carried_quiet State.lawful_epochExpiry (by decide)⟩
  | windowIdleTimeout => exact ⟨_, rfl, State.carried_quiet State.lawful_windowExpiry (by decide)⟩
  | resendTimerExpiry => exact ⟨_, rfl, State.carried_quiet State.lawful_resendExpiry (by decide)⟩
  | agentAttemptEvent =>
    refine ⟨_, rfl, ?_⟩
    split
    · exact State.carried_quiet State.lawful_attempt (by decide)
    · exact State.carried_refl s
  | agentRetry =>
    refine ⟨_, rfl, ?_⟩
    split
    · exact State.carried_quiet State.lawful_attempt (by decide)
    · exact State.carried_refl s
  | noticeClaimRetry => exact ⟨_, rfl, State.carried_quiet State.lawful_noticeRetry (by decide)⟩
  | malformedRequest q b rest => exact ⟨_, rfl, State.carried_settled (State.lawful_deliverRequest _ _) (by decide)⟩
  | select h table base => exact ⟨_, rfl, State.carried_request ..⟩
  | release h => exact ⟨_, rfl, State.carried_request ..⟩
  | read h offset count => exact ⟨_, rfl, State.carried_request ..⟩
  | writeStream h offset count es => exact ⟨_, rfl, State.carried_request ..⟩
  | writeAllot h offset count es => exact ⟨_, rfl, State.carried_request ..⟩
  | writeStreamTally h offset count es => exact ⟨_, rfl, State.carried_request ..⟩
  | writeTier h offset count es => exact ⟨_, rfl, State.carried_request ..⟩
  | writePort h offset count es => exact ⟨_, rfl, State.carried_request ..⟩
  | writePart h offset count es => exact ⟨_, rfl, State.carried_request ..⟩
  | writeDiscard h offset count es => exact ⟨_, rfl, State.carried_request ..⟩
  | writeNotices h offset count es => exact ⟨_, rfl, State.carried_request ..⟩
  | append h tail new => exact ⟨_, rfl, State.carried_request ..⟩
  | acknowledge h sequence => exact ⟨_, rfl, State.carried_request ..⟩
  | status h => exact ⟨_, rfl, State.carried_request ..⟩
  | restart h => exact ⟨_, rfl, State.carried_request ..⟩
  | portReset h port => exact ⟨_, rfl, State.carried_request ..⟩

end Sys2Proof.Machine
end

section
/-! PROOFS. What every step keeps by lawful moves alone: the accounts of the stores, the stream table and the bounds; and the
power-on state, which meets every invariant (R18). -/

namespace Sys2Proof.Machine

namespace State

/-! ## Power-on reset -/

section PowerOn

variable {s : State} (straps : BitVec 6) (los : Bool)

theorem powerOn_storesOk (hs : StoresOk s) : StoresOk (s.powerOn straps los) := by
  obtain ⟨-, -, -, -, hwf, hlt⟩ := hs
  exact ⟨rfl, nofun, .nil, nofun, hwf, hlt⟩

theorem powerOn_chainsFit : ChainsFit (s.powerOn straps los) := nofun

theorem powerOn_holdersOk : HoldersOk (s.powerOn straps los) := by
  rw [HoldersOk, powerOn_members]
  exact ⟨.nil, nofun, nofun⟩

theorem powerOn_receiverOk : ReceiverOk (s.powerOn straps los) := by
  have hnone : ∀ q a, (s.powerOn straps los).context q ≠ .opened a := fun q a => by simp
  exact ⟨nofun, fun q a h => absurd h (hnone q a), fun q a h => absurd h (hnone q a)⟩

theorem powerOn_transmitterOk : TransmitterOk (s.powerOn straps los) := by
  have hq : ∀ q, ((s.powerOn straps los).queue q).members = [] := fun q => by simp
  refine ⟨rfl, rfl, nofun, .nil, fun h f r ha => ?_, fun h hm => ?_, fun q h hm => ?_, fun e he => ?_⟩
  · cases ha
  · cases hm
  · rw [hq q] at hm; cases hm
  · cases he

theorem powerOn_streamsOk : StreamsOk (s.powerOn straps los) :=
  ⟨⟨⟨rfl, nofun⟩, ⟨rfl, nofun⟩, ⟨rfl, nofun⟩, ⟨rfl, nofun⟩⟩, .nil, nofun, fun _ => .inl rfl⟩

theorem powerOn_linkOk : LinkOk (s.powerOn straps los) := by
  have hlink : (s.powerOn straps los).line.link = if los then .down else .aligning := rfl
  have hup : (s.powerOn straps los).line.link ≠ .up := by rw [hlink]; cases los <;> decide
  refine ⟨fun h => ?_, Nat.zero_le _, Nat.zero_le _, fun _ => rfl, fun _ => rfl, fun h => absurd h hup,
    ⟨fun h => absurd h hup, fun h => absurd rfl h⟩, fun _ => ⟨rfl, rfl, rfl⟩,
    fun _ => ⟨rfl, powerOn_context s straps los⟩⟩
  have hlos : los = true := h
  rw [hlink, if_pos hlos]

theorem powerOn_noticesOk : NoticesOk (s.powerOn straps los) := by
  refine ⟨(by decide : 1 ≤ 16), nofun, List.pairwise_singleton .., Nat.zero_le _, ⟨fun _ r hr => ?_, nofun⟩, ?_⟩
  · cases hr with
    | head => rfl
    | tail _ h => cases h
  · cases los <;> rfl

theorem powerOn_boundsOk : BoundsOk (s.powerOn straps los) := by
  refine ⟨fun p => ?_, fun q => ?_, nofun, Nat.zero_le _⟩
  · rw [powerOn_port]; exact ⟨Nat.zero_le _, nofun⟩
  · rw [powerOn_queue]; decide

end PowerOn

/-- The power-on state is a power-on reset of itself. -/
theorem powerOn_powerOnWith (straps : BitVec 6) (los : Bool) :
    (powerOnWith straps los).powerOn straps los = powerOnWith straps los := rfl

/-! ## Every step -/

theorem lawful_withPending {s : State} (l : List Instr) : Lawful [.pending] s (s.withPending l) :=
  ⟨by simp [ChangesOnly], rfl, id, id, id⟩

end State

/-- A step on a queue with a command runs that command (section 1.9). -/
theorem step_of_pending {s : State} {x : Instr} {rest : List Instr} (h : s.pending = x :: rest) :
    step s = exec x (s.withPending rest) := by
  simp only [step, h]

/-- A step on an empty queue is a tick (section 1.10). -/
theorem step_of_pending_nil {s : State} (h : s.pending = []) : step s = .next s.tick := by
  simp only [step, h]

/-- A step is a power-on reset or a lawful move. -/
theorem step_cases {s t : State} (h : step s = .next t) :
    (∃ (u : State) (straps : BitVec 6) (los : Bool), u.buf = s.buf ∧ t = u.powerOn straps los) ∨ Lawful (.pending :: State.commandBlocks) s t := by
  rcases hp : s.pending with _ | ⟨x, rest⟩
  · rw [step_of_pending_nil hp] at h
    cases h
    exact .inr (State.lawful_tick.mono (by decide))
  · rw [step_of_pending hp] at h
    by_cases hx : ∃ straps los, x = .powerOnReset straps los
    · obtain ⟨straps, los, rfl⟩ := hx
      cases h
      exact .inl ⟨s.withPending rest, straps, los, rfl, rfl⟩
    · obtain ⟨u, hu, hl, -⟩ := lawful_exec (fun straps los he => hx ⟨straps, los, he⟩) (s.withPending rest)
      rw [hu] at h
      cases h
      exact .inr ((State.lawful_withPending rest).seq hl (by decide))

/-! ## Lookup by tag (R26) -/

theorem mem_validTags {m : List (Nat × StreamEntry)} {e : Nat × StreamEntry} (he : e ∈ m) (hv : e.2.valid = true) :
    e.2.tag ∈ validTags m := List.mem_filterMap.2 ⟨e, he, by simp [hv]⟩

theorem findTag_none_iff {tag : Tag} {m : List (Nat × StreamEntry)} :
    findTag tag m = none ↔ ∀ e ∈ m, e.2.valid = true → e.2.tag ≠ tag := by
  induction m with
  | nil => simp [findTag]
  | cons e m ih =>
    obtain ⟨j, e⟩ := e
    by_cases he : e.valid = true ∧ e.tag = tag
    · simp [findTag, he]
    · simp only [findTag, Bool.and_eq_true, decide_eq_true_eq, if_neg he, ih, List.forall_mem_cons]
      exact ⟨fun h => ⟨fun hv ht => he ⟨hv, ht⟩, h⟩, fun h => h.2⟩

theorem findTag_mem {tag : Tag} {m : List (Nat × StreamEntry)} {i : StreamIx} (h : findTag tag m = some i) :
    ∃ e ∈ m, e.2.valid = true ∧ e.2.tag = tag ∧ i = Fin.ofNat 256 e.1 := by
  induction m with
  | nil => cases h
  | cons e m ih =>
    obtain ⟨j, e⟩ := e
    simp only [findTag, Bool.and_eq_true, decide_eq_true_eq] at h
    split at h
    · rename_i he
      cases h
      exact ⟨_, List.mem_cons_self, he.1, he.2, rfl⟩
    · obtain ⟨e', hm, he'⟩ := ih h
      exact ⟨e', List.mem_cons_of_mem _ hm, he'⟩

/-- With no tag held twice, the entry that holds a tag is the one found. -/
theorem findTag_of_mem {tag : Tag} {m : List (Nat × StreamEntry)} (hn : (validTags m).Nodup) {e : Nat × StreamEntry}
    (hm : e ∈ m) (hv : e.2.valid = true) (ht : e.2.tag = tag) : findTag tag m = some (Fin.ofNat 256 e.1) := by
  induction m with
  | nil => cases hm
  | cons e0 m ih =>
    obtain ⟨j, e0⟩ := e0
    rcases List.mem_cons.1 hm with rfl | hm
    · simp only [] at hv ht
      simp [findTag, hv, ht]
    · by_cases h0 : e0.valid = true
      · have hn' : (e0.tag :: validTags m).Nodup := by simpa [validTags, h0] using hn
        have hne : e0.tag ≠ tag := fun he => (List.nodup_cons.1 hn').1 (he ▸ ht ▸ mem_validTags hm hv)
        simpa [findTag, hne] using ih (List.nodup_cons.1 hn').2 hm
      · have hn' : (validTags m).Nodup := by simpa [validTags, h0] using hn
        simpa [findTag, h0] using ih hn' hm

section Lookup

variable {s : State} (h : StreamsOk s)

include h

/-- A valid entry is one that is listed. -/
theorem StreamsOk.mem_iff (i : StreamIx) (e : StreamEntry) :
    (i.val, e) ∈ s.streams ↔ s.stream i.val = e ∧ e.valid = true := by
  obtain ⟨⟨⟨hwf, -⟩, -⟩, -, hvalid, -⟩ := h
  constructor
  · exact fun hm => ⟨Table.get_of_mem hwf hm, (hvalid _ hm).1⟩
  · rintro ⟨he, hv⟩
    rcases hf : Table.find s.streams i.val with _ | e'
    · have : s.stream i.val = StreamEntry.invalid := by simp [State.stream, Table.get, hf]
      rw [← he, this] at hv
      cases hv
    · have : s.stream i.val = e' := by simp [State.stream, Table.get, hf]
      rw [← he, this]
      exact Table.mem_of_find hf

theorem StreamsOk.lookup_some_iff (tag : Tag) (i : StreamIx) :
    s.lookup tag = some i ↔ (s.stream i.val).valid = true ∧ (s.stream i.val).tag = tag := by
  constructor
  · intro hl
    obtain ⟨⟨j, e⟩, hm, hv, ht, rfl⟩ := findTag_mem hl
    have hj : (Fin.ofNat 256 j).val = j := Nat.mod_eq_of_lt (h.1.1.2 _ hm)
    have he := ((h.mem_iff (Fin.ofNat 256 j) e).1 (by rw [hj]; exact hm)).1
    rw [he]
    exact ⟨hv, ht⟩
  · rintro ⟨hv, ht⟩
    have hm := (h.mem_iff i _).2 ⟨rfl, hv⟩
    have := findTag_of_mem h.2.1 hm hv ht
    rwa [Fin.ofNat_val_eq_self] at this

theorem StreamsOk.lookup_none_iff (tag : Tag) :
    s.lookup tag = none ↔ ∀ i : StreamIx, (s.stream i.val).valid = true → (s.stream i.val).tag ≠ tag := by
  rw [Option.eq_none_iff_forall_not_mem]
  refine forall_congr' fun i => ?_
  rw [Option.mem_def, h.lookup_some_iff tag i, not_and]

/-- No entry holds 0x0000 (R22, R23). -/
theorem StreamsOk.lookup_zero : s.lookup 0 = none :=
  findTag_none_iff.2 fun e he _ => (h.2.2.1 e he).2

end Lookup

/-! ## Addressing (R147) -/

theorem addressesPart_iff (node : BitVec 6) (tag : Tag) :
    addressesPart node tag = true ↔ tag = 0xFFFF ∨ (node ≠ 63 ∧ tag = 0xFFC0 + node.setWidth 16) := by
  rw [addressesPart, Bool.or_eq_true, decide_eq_true_eq, decide_eq_true_eq]
  refine or_congr Iff.rfl ?_
  unfold nodeTag
  split
  · rename_i hn
    exact ⟨nofun, fun h => absurd hn h.1⟩
  · rename_i hn
    rw [Option.some_inj]
    exact ⟨fun h => ⟨hn, h.symm⟩, fun h => h.2.symm⟩

/-! ## The obligations -/

/-- Settles O1: step is exec on the state with the queue's rest. -/
theorem stepRunsFrontCommand : Obligations.StepRunsFrontCommand := fun _ _ _ => step_of_pending

/-- Settles O2: every command but power-on reset is a lawful move, and power-on reset latches the straps. -/
theorem whatEveryCommandKeeps : Obligations.WhatEveryCommandKeeps := by
  refine ⟨fun x s => ?_, fun s t hp h => ?_, fun node tag => ?_⟩
  · by_cases hx : ∃ straps los, x = .powerOnReset straps los
    · obtain ⟨straps, los, rfl⟩ := hx
      exact ⟨_, rfl, rfl, fun _ => rfl, rfl⟩
    · obtain ⟨t, ht, hl, h0⟩ := lawful_exec (fun straps los he => hx ⟨straps, los, he⟩) s
      refine ⟨t, ht, hl.frame.pending (by decide), h0, hl.node.trans ?_⟩
      cases x with
      | powerOnReset straps los => exact absurd ⟨straps, los, rfl⟩ hx
      | _ => rfl
  · rw [step_of_pending_nil hp] at h
    cases h
    exact State.lawful_tick.node
  · exact addressesPart_iff node tag

/-- Settles O5: each block of the power-on state, field by field. -/
theorem powerOnResetSetsEveryBlock : Obligations.PowerOnResetSetsEveryBlock := by
  intro straps los s
  have hport := State.powerOn_port s straps los
  refine ⟨s.powerOn straps los, rfl, rfl, rfl, fun _ => ⟨rfl, rfl⟩, fun _ => rfl, rfl, fun p => ?_,
    State.powerOn_queue s straps los, rfl, rfl, rfl, rfl, rfl, rfl, rfl, rfl, rfl, rfl, State.powerOn_context s straps los,
    rfl, rfl, rfl, rfl, fun i => ?_, rfl, rfl, fun k => ?_, fun _ => rfl, rfl⟩
  · rw [hport p]; exact ⟨rfl, rfl, rfl, rfl⟩
  · simp [State.powerOn, State.powerOnWith, Vector.get_eq_getElem]
  · simp [State.discardCount, State.powerOn, State.powerOnWith, Vector.get_eq_getElem]

/-- Settles O6: the power-on state has empty stores, tables and collections, and one QUEUED notice with the link down. -/
theorem resetMeetsEveryInvariant : Obligations.ResetMeetsEveryInvariant := by
  intro straps los
  rw [← State.powerOn_powerOnWith]
  exact ⟨⟨rfl, nofun, .nil, nofun, rfl, nofun⟩, State.powerOn_chainsFit straps los, State.powerOn_holdersOk straps los,
    State.powerOn_receiverOk straps los, State.powerOn_transmitterOk straps los, State.powerOn_streamsOk straps los,
    State.powerOn_linkOk straps los, State.powerOn_noticesOk straps los, State.powerOn_boundsOk straps los,
    State.powerOn_noWaiter _ straps los⟩

/-- Settles O11: every lawful move keeps the accounts of the stores, and the accounts bound what is held. -/
theorem storesStayAccounted : Obligations.StoresStayAccounted := by
  intro s t hs h
  have ht : StoresOk t := by
    rcases step_cases h with ⟨u, straps, los, hu, rfl⟩ | hl
    · exact State.powerOn_storesOk straps los (State.storesOk_of_buf hs hu)
    · exact hl.stores hs
  have hh := State.handles_length_le ht
  have hc := State.heldCells_length_le ht
  refine ⟨ht, ?_, ?_⟩
  · simp only [State.freeHandles, Config.handleCount]; omega
  · simp only [State.freeCells, Config.cellCount]; omega

/-- Settles O14: every lawful move keeps the stream table in agreement, and no tag held twice makes the lookup right. -/
theorem streamsStayUnique : Obligations.StreamsStayUnique := by
  refine ⟨fun s t hs h => ?_, fun s tag hs => ⟨hs.lookup_some_iff tag, hs.lookup_none_iff tag, hs.lookup_zero⟩⟩
  rcases step_cases h with ⟨u, straps, los, -, rfl⟩ | hl
  · exact State.powerOn_streamsOk straps los
  · exact hl.streams hs

/-- The bounds of the queues, the hold-backs, the limits and the inbox are kept by every step. -/
theorem step_boundsOk {s t : State} (hs : BoundsOk s) (h : step s = .next t) : BoundsOk t := by
  rcases step_cases h with ⟨u, straps, los, -, rfl⟩ | hl
  · exact State.powerOn_boundsOk straps los
  · exact hl.bounds hs

end Sys2Proof.Machine
end

section
/-! PROOFS. The agreement of the link, the transmitter's mode and the receiver (R83, R114 to R122): the moves that keep it.
Every move here leaves the link state as it is; leaving and reaching UP establish the agreement anew. -/

namespace Sys2Proof.Machine

/-- A move that leaves the link state and keeps the agreement. -/
structure LinkMove (s t : State) : Prop where
  link : t.line.link = s.line.link
  ok : LinkOk s → LinkOk t

namespace LinkMove

variable {s t u : State}

theorem refl (s : State) : LinkMove s s := ⟨rfl, id⟩

theorem trans (h : LinkMove s t) (g : LinkMove t u) : LinkMove s u := ⟨g.link.trans h.link, g.ok ∘ h.ok⟩

theorem of_eq (hl : t.line = s.line) (ht : t.tx = s.tx) (hr : t.rx = s.rx) : LinkMove s t := by
  refine ⟨by rw [hl], fun h => ?_⟩
  unfold LinkOk at h ⊢
  rw [hl, ht, hr]
  simpa only [State.context_of_rx hr] using h

/-- A move that leaves the line, the transmitter and the receiver. -/
theorem of_frame {bs : List Block} (h : Lawful bs s t) (hb : Block.line ∉ bs ∧ Block.tx ∉ bs ∧ Block.rx ∉ bs) :
    LinkMove s t := of_eq (h.frame.line hb.1) (h.frame.tx hb.2.1) (h.frame.rx hb.2.2)

/-- With the link UP, whatever happens at the receiver keeps the agreement. -/
theorem of_receiver {bs : List Block} (h : Lawful bs s t) (hb : Block.line ∉ bs ∧ Block.tx ∉ bs) (hup : s.line.link = .up) :
    LinkMove s t := by
  have hl := h.frame.line hb.1
  have ht := h.frame.tx hb.2
  refine ⟨by rw [hl], fun ⟨h1, h2, h3, h4, h5, h6, h7, h8, _⟩ => ?_⟩
  unfold LinkOk
  rw [hl, ht]
  exact ⟨h1, h2, h3, h4, h5, h6, h7, h8, fun hn => absurd hup hn⟩

end LinkMove

namespace State

variable {s t : State}

/-! ## The transmitter -/

theorem linkMove_sendTrunk (l : List TrunkSymbol) : LinkMove s (s.sendTrunk l) := ⟨rfl, id⟩

theorem linkMove_trunkIdle : LinkMove s s.trunkIdle := by
  unfold trunkIdle
  split
  · exact .refl s
  · exact linkMove_sendTrunk _

/-- The transmitter keeps its place in OFFLINE or out of it, and holds a frame only in SENDING. -/
theorem linkMove_withTx {v : Transmitter} (hm : v.mode = .offline ↔ s.tx.mode = .offline)
    (hv : LinkOk s → v.mode ≠ .sending → v.active = none ∧ v.fragment = none ∧ v.stack = []) :
    LinkMove s (s.withTx v) :=
  ⟨rfl, fun h => by
    obtain ⟨h1, h2, h3, h4, h5, h6, h7, -, h9⟩ := id h
    exact ⟨h1, h2, h3, h4, h5, h6, h7.trans (not_congr hm.symm), hv h, h9⟩⟩

/-- A frame goes on the trunk: the transmitter is SENDING. -/
theorem linkMove_sending {v : Transmitter} (hm : s.tx.mode ≠ .offline) (hv : v.mode = .sending) :
    LinkMove s (s.withTx v) :=
  linkMove_withTx ⟨fun h => absurd (hv.symm.trans h) nofun, fun h => absurd h hm⟩ fun _ h => absurd hv h

theorem linkMove_openHead (q : Tier) (hm : s.tx.mode ≠ .offline) : LinkMove s (s.openHead q) := by
  unfold openHead
  split
  · exact .refl s
  · split
    · exact .refl s
    · rename_i h rest _ _ _ _
      have htake : Lawful [.buf, .queues] s ((s.setMembers q rest).setHolder h .trunkActive) :=
        (lawful_setMembers q rest).seq (lawful_setHolder h _) (by decide)
      refine ((LinkMove.of_frame htake (by decide)).trans ?_).trans (linkMove_sendTrunk _)
      exact linkMove_sending (by simpa using hm) rfl

theorem linkMove_resumeTop (h : Nat) (rest : List Nat) (hm : s.tx.mode ≠ .offline) : LinkMove s (s.resumeTop h rest) := by
  unfold resumeTop
  split
  · exact .refl s
  · rename_i hr
    refine LinkMove.trans ?_ (linkMove_sendTrunk _)
    refine LinkMove.trans ?_ (linkMove_sending (by simpa using hm) rfl)
    exact .of_frame (lawful_setHandle hr rfl) (by decide)

theorem linkMove_goIdle (hm : s.tx.mode ≠ .offline) (hstack : s.tx.stack = []) : LinkMove s s.goIdle := by
  have hidle : LinkMove s (s.withTx { s.tx with mode := .idle, active := none, fragment := none }) :=
    linkMove_withTx ⟨nofun, fun h => absurd h hm⟩ fun _ _ => ⟨rfl, rfl, hstack⟩
  exact hidle.trans linkMove_trunkIdle

theorem linkMove_select (hm : s.tx.mode ≠ .offline) : LinkMove s s.select := by
  unfold select
  split
  · exact linkMove_openHead _ hm
  · split
    · exact linkMove_openHead _ hm
    · exact linkMove_resumeTop _ _ hm
  · exact linkMove_resumeTop _ _ hm
  · rename_i hstack
    exact linkMove_goIdle hm hstack

theorem linkMove_joinQueue (q : Tier) (h : Nat) : LinkMove s (s.joinQueue q h) := by
  have hjoin : Lawful [.buf, .queues] s ((s.setMembers q ((s.queue q).members ++ [h])).setHolder h (.tierQueue q)) :=
    (lawful_setMembers q _).seq (lawful_setHolder h _) (by decide)
  have hmove := LinkMove.of_frame hjoin (by decide)
  unfold joinQueue
  dsimp only
  split
  · rename_i hidle
    exact hmove.trans (linkMove_select (by rw [hidle]; decide))
  · exact hmove

theorem linkMove_offerQueue (q : Tier) (h : Nat) : LinkMove s (s.offerQueue q h).2 := by
  unfold offerQueue
  split
  · exact linkMove_joinQueue q h
  · exact .refl s

/-- With a frame active the transmitter is SENDING. -/
theorem sending_of_active {h : Nat} (hs : LinkOk s) (ha : s.tx.active = some h) : s.tx.mode = .sending := by
  by_contra hm
  obtain ⟨hnone, -⟩ := hs.2.2.2.2.2.2.2.1 hm
  rw [ha] at hnone
  cases hnone

theorem blockSent_linkOk (hs : LinkOk s) : LinkOk s.blockSent := by
  unfold blockSent
  split
  · rename_i h f ha _
    split
    · exact hs
    · rename_i hr
      split
      · have hmode := sending_of_active hs ha
        have hset := LinkMove.of_frame (lawful_setHandle hr (r' := (afterBlock _ f).1) rfl) (by decide)
        refine ((hset.trans (linkMove_sending ?_ ?_)).trans (linkMove_sendTrunk _)).ok hs
        · simp [hmode]
        · exact hmode
      · exact hs
  · exact hs

theorem closeMoreSent_linkOk (hs : LinkOk s) : LinkOk s.closeMoreSent := by
  unfold closeMoreSent
  split
  · rename_i h f ha _
    split
    · exact hs
    · rename_i r hr
      split
      · have hmode := sending_of_active hs ha
        have hset : LinkMove s ((s.sendTrunk (s.moreTrailer r f)).setHandle h
            { r with nextIndex := r.nextIndex + 1, holder := .trunkSuspended }) :=
          (linkMove_sendTrunk _).trans (.of_frame (lawful_setHandle (r := r) hr rfl) (by decide))
        refine ((hset.trans (linkMove_sending ?_ ?_)).trans (linkMove_select ?_)).ok hs
        · simp [hmode]
        · exact hmode
        · simp [hmode]
      · exact hs
  · exact hs

/-- A completed frame leaves the transmitter SENDING with no frame, until the selection. -/
theorem completeActive_linkOk (h : s.completeActive = some t) (hs : LinkOk s) : LinkOk t := by
  unfold completeActive at h
  split at h
  · rename_i k f ha _
    split at h
    · cases h
    · rename_i r _
      split at h
      · cases h
        have hmode := sending_of_active hs ha
        have hfree : LinkMove s
            (((s.sendTrunk (s.lastTrailer r f)).countToTrunk r.stream r.bodyLength).release k) :=
          ((linkMove_sendTrunk _).trans (.of_frame (lawful_countToTrunk _ _) (by decide))).trans
            (.of_frame (lawful_release k) (by decide))
        refine (hfree.trans (linkMove_sending ?_ ?_)).ok hs
        · simp [hmode]
        · exact hmode
      · cases h
  · cases h

theorem linkMove_selectAfterClose : LinkMove s s.selectAfterClose := by
  unfold selectAfterClose
  split
  · rename_i h
    exact linkMove_select (by rw [h.1]; decide)
  · exact .refl s

theorem linkMove_clearSent : LinkMove s s.clearSent := by
  unfold clearSent
  split
  · rename_i h
    exact (linkMove_sendTrunk _).trans (linkMove_select (by simp [h]))
  · exact .refl s

/-! ## The notice queue -/

theorem linkMove_sendOldest (q : Byte) (k : Nat) (l c : Byte) : LinkMove s (s.sendOldest q k l c) := by
  unfold sendOldest
  split
  · exact .refl s
  · split
    · exact .of_frame (lawful_withNotices _) (by decide)
    · rename_i hc
      refine LinkMove.trans ?_ (linkMove_joinQueue .t0 _)
      refine LinkMove.trans ?_ (.of_frame (lawful_storeOctets _ _) (by decide))
      exact (LinkMove.of_frame (lawful_claimCompound hc) (by decide)).trans (.of_frame (lawful_withNotices _) (by decide))

theorem linkMove_resend : LinkMove s s.resend := by
  unfold resend
  split
  · exact linkMove_sendOldest ..
  · exact .refl s

theorem linkMove_noticeAttempt : LinkMove s s.noticeAttempt := by
  unfold noticeAttempt
  split
  · exact linkMove_sendOldest ..
  · exact .refl s

theorem linkMove_noticeRetry : LinkMove s s.noticeRetry := by
  unfold noticeRetry
  split
  · split
    · exact .refl s
    · split
      · exact linkMove_resend
      · exact linkMove_sendOldest ..
  · exact .refl s

theorem linkMove_raiseNotice (n : Notice) : LinkMove s (s.raiseNotice n) := by
  unfold raiseNotice
  split
  · exact .of_frame (lawful_withNotices _) (by decide)
  · split
    · exact .of_frame lawful_loseNotice (by decide)
    · exact (LinkMove.of_frame (lawful_withNotices _) (by decide)).trans linkMove_noticeAttempt

theorem linkMove_noticeResume : LinkMove s s.noticeResume := by
  unfold noticeResume
  split
  · exact linkMove_noticeRetry
  · exact linkMove_noticeAttempt

theorem linkMove_resendExpiry : LinkMove s s.resendExpiry := by
  unfold resendExpiry
  split
  · split
    · exact linkMove_resend
    · exact ((LinkMove.of_frame lawful_dropOldest (by decide)).trans (.of_frame lawful_loseNotice (by decide))).trans
        linkMove_noticeAttempt
  · exact .refl s

/-! ## The ports and the soft restart -/

theorem linkMove_flushFrames (c : Cause) (retry : Bool) (l : List Nat) : LinkMove s (s.flushFrames c retry l) := by
  induction l generalizing s with
  | nil => exact .refl s
  | cons h l ih =>
    have hdiscard : LinkMove s (s.discardQuiet c h) := .of_frame (lawful_discardQuiet c h) (by decide)
    unfold flushFrames
    dsimp only
    split
    · exact (hdiscard.trans linkMove_noticeRetry).trans ih
    · exact hdiscard.trans ih

theorem linkMove_setPort (p : Port) (v : PortState) : LinkMove s (s.setPort p v) :=
  .of_eq (by simp) (by simp) (by simp)

theorem linkMove_resetPort (p : Port) (retry : Bool) : LinkMove s (s.resetPort p retry) := by
  have hin : LinkMove s (s.flushIngress p retry) := by
    unfold flushIngress
    dsimp only
    split
    · exact .refl s
    · exact (linkMove_setPort p _).trans (.of_frame (lawful_countDiscard _ _) (by decide))
    · exact (linkMove_setPort p _).trans (linkMove_flushFrames _ _ _)
    · exact linkMove_setPort p _
  have hout : ∀ u : State, LinkMove u (u.flushEgress p retry) := fun u => by
    unfold flushEgress
    split
    · exact .refl u
    · refine LinkMove.trans ?_ (linkMove_flushFrames _ _ _)
      exact (linkMove_setPort p _).trans (.of_frame (lawful_sendTrib p _) (by decide))
  exact hin.trans (hout _)

theorem linkMove_writeEnabled (p : Port) (on : Bool) : LinkMove s (s.writeEnabled p on) := by
  unfold writeEnabled
  dsimp only
  split
  · exact (linkMove_setPort p _).trans (linkMove_flushFrames _ _ _)
  · exact linkMove_setPort p _

theorem linkMove_foldl {α : Type} {f : State → α → State} (hf : ∀ s a, LinkMove s (f s a)) (l : List α) (s : State) :
    LinkMove s (l.foldl f s) := by
  induction l generalizing s with
  | nil => exact .refl s
  | cons a l ih => exact (hf s a).trans (ih (f s a))

theorem linkMove_restartTransmitter : LinkMove s s.restartTransmitter := by
  have hempty : Lawful [.queues] s (Tier.all.foldl (fun s q => s.setMembers q []) s) :=
    lawful_foldl (fun s q => lawful_setMembers q []) Tier.all s
  refine LinkMove.trans (LinkMove.of_frame hempty (by decide)) ?_
  refine LinkMove.trans ?_ (linkMove_flushFrames _ _ _)
  refine ⟨rfl, fun h => ?_⟩
  have hline := hempty.frame.line (by decide)
  obtain ⟨h1, h2, h3, h4, h5, h6, -, -, h9⟩ := h
  refine ⟨h1, h2, h3, h4, h5, h6, ?_, fun _ => ⟨rfl, rfl, rfl⟩, h9⟩
  show _ ↔ (if s.line.link = .up then TxMode.clearing else .offline) ≠ .offline
  rw [withTx_line, hline]
  split <;> simp_all

/-- Closing contexts keeps the agreement in every link state. -/
theorem linkMove_closeContext (q : Tier) : LinkMove s (s.setContext q .closed) := by
  refine ⟨rfl, fun ⟨h1, h2, h3, h4, h5, h6, h7, h8, h9⟩ => ⟨h1, h2, h3, h4, h5, h6, h7, h8, fun hn => ?_⟩⟩
  refine ⟨(h9 hn).1, fun x => ?_⟩
  by_cases hx : x = q
  · subst hx; exact setContext_context_self ..
  · rw [setContext_context_other _ _ hx]; exact (h9 hn).2 x

theorem linkMove_clearFragment : LinkMove s (s.setFragment none) :=
  ⟨rfl, fun ⟨h1, h2, h3, h4, h5, h6, h7, h8, h9⟩ => ⟨h1, h2, h3, h4, h5, h6, h7, h8, fun hn => ⟨rfl, (h9 hn).2⟩⟩⟩

theorem linkMove_restartReceiver : LinkMove s s.restartReceiver := by
  refine (linkMove_foldl (fun s q => ?_) Tier.all s).trans linkMove_clearFragment
  unfold restartContext
  split
  · split
    · exact (linkMove_closeContext q).trans (.of_frame (lawful_discardQuiet _ _) (by decide))
    · exact (linkMove_closeContext q).trans (.of_frame (lawful_countDiscard _ _) (by decide))
  · exact linkMove_closeContext q

theorem linkMove_softRestart : LinkMove s s.softRestart := by
  refine LinkMove.trans ?_ (.of_frame lawful_restartNotices (by decide))
  refine LinkMove.trans ?_ (.of_frame lawful_restartMetering (by decide))
  refine LinkMove.trans ?_ (.of_frame lawful_restartAgent (by decide))
  refine LinkMove.trans ?_ linkMove_restartReceiver
  refine LinkMove.trans ?_ linkMove_restartTransmitter
  exact linkMove_foldl (fun _ p => linkMove_resetPort p false) allPorts s

/-! ## The agent -/

theorem linkMove_withAgent (v : Agent) : LinkMove s (s.withAgent v) := .of_eq rfl rfl rfl

theorem linkMove_writeFrom {α : Type} {f : State → Nat → α → State} (hf : ∀ s i a, LinkMove s (f s i a)) (l : List α)
    (i : Nat) (s : State) : LinkMove s (writeFrom f s i l) := by
  induction l generalizing s i with
  | nil => exact .refl s
  | cons a l ih => exact (hf s i a).trans (ih (i + 1) (f s i a))

theorem linkMove_writeEntries (first : Nat) (w : Written) : LinkMove s (s.writeEntries first w) := by
  cases w with
  | streams l => exact linkMove_writeFrom (f := State.writeStreamEntry) (fun s i e => .of_eq rfl rfl rfl) l first s
  | allots l => exact linkMove_writeFrom (f := State.setRecord) (fun s i e => .of_eq rfl rfl rfl) l first s
  | tallies l => exact linkMove_writeFrom (f := State.setTally) (fun s i e => .of_eq rfl rfl rfl) l first s
  | tiers l =>
    exact linkMove_writeFrom (f := fun s i n => s.setQueue (Tier.ofIx (Fin.ofNat 4 i))
      { s.queue (Tier.ofIx (Fin.ofNat 4 i)) with limit := n }) (fun s i n => .of_eq rfl rfl rfl) l first s
  | ports l => exact linkMove_writeFrom (fun s i on => linkMove_writeEnabled _ on) l first s
  | parts l => exact linkMove_writeFrom (fun s i v => .of_frame (lawful_writePart v.1 v.2) (by decide)) l first s
  | discards l =>
    exact linkMove_writeFrom (f := fun s i v => s.setDiscardCount (Fin.ofNat 20 i) v) (fun s i v => .of_eq rfl rfl rfl)
      l first s

theorem linkMove_carryVerdict (v : Verdict) : LinkMove s (s.carryVerdict v).1 := by
  unfold carryVerdict
  split
  · rename_i q e
    cases e with
    | select t base => exact linkMove_withAgent _
    | release => exact linkMove_withAgent _
    | read t first count => exact .refl s
    | write first w => exact linkMove_writeEntries first w
    | append r n => exact .of_frame (lawful_appendRecord r n) (by decide)
    | acknowledge lost => exact .of_frame (lawful_acknowledge lost) (by decide)
    | status => exact .refl s
    | restart => exact linkMove_softRestart
    | portReset p => exact linkMove_resetPort p true
  · exact .refl s
  · exact .refl s

theorem linkMove_noticesAfterReply (before : Tag) (v : Verdict) : LinkMove s (s.noticesAfterReply before v) := by
  unfold noticesAfterReply
  split
  · exact linkMove_noticeAttempt
  · exact linkMove_noticeAttempt
  · split
    · exact linkMove_noticeResume
    · exact .refl s
  · exact .refl s

theorem linkMove_releaseRequest (h : Nat) : LinkMove s (s.releaseRequest h) :=
  ((linkMove_withAgent _).trans (.of_frame (lawful_freeHandle h) (by decide))).trans linkMove_noticeRetry

theorem linkMove_answer (h r : Nat) (body : List Byte) (v : Verdict) : LinkMove s (s.answer h r body v) := by
  refine LinkMove.trans ?_ (linkMove_releaseRequest h)
  refine LinkMove.trans ?_ (linkMove_noticesAfterReply _ v)
  refine LinkMove.trans ?_ (linkMove_joinQueue .t0 r)
  refine LinkMove.trans ?_ (.of_frame (lawful_storeOctets r _) (by decide))
  refine LinkMove.trans ?_ (.of_frame (lawful_touchWindow _) (by decide))
  exact (linkMove_carryVerdict v).trans (.of_frame (lawful_recordAnswer v) (by decide))

theorem linkMove_attempt : LinkMove s s.attempt := by
  unfold attempt
  split
  · exact .refl s
  · dsimp only
    split
    · exact linkMove_withAgent _
    · rename_i hc
      exact (LinkMove.of_frame (lawful_claimCompound hc) (by decide)).trans (linkMove_answer _ _ _ _)

theorem linkMove_releaseEvent : LinkMove s s.releaseEvent := by
  unfold releaseEvent
  split
  · dsimp only
    split
    · exact linkMove_attempt
    · exact linkMove_attempt.trans linkMove_noticeRetry
  · exact linkMove_noticeRetry

theorem linkMove_settle : LinkMove s s.settle := by
  have htaken : ∀ (n : Nat) (u : State), LinkMove u (u.releaseEventsTaken n) := by
    intro n
    induction n with
    | zero => exact .refl
    | succ n ih => exact fun u => linkMove_releaseEvent.trans (ih _)
  exact (LinkMove.of_frame (lawful_withReleaseEvents 0) (by decide)).trans (htaken _ _)

theorem linkMove_offerInbox (h : Nat) : LinkMove s (s.offerInbox h) := by
  have hjoin : LinkMove s ((s.setHolder h .inbox).withAgent { s.agent with inbox := s.agent.inbox ++ [h] }) :=
    (LinkMove.of_frame (lawful_setHolder h _) (by decide)).trans (linkMove_withAgent _)
  unfold offerInbox
  split
  · exact .of_frame (lawful_discard _ _) (by decide)
  · dsimp only
    split
    · exact hjoin.trans linkMove_attempt
    · exact hjoin

theorem linkMove_deliverRequest (q : Tier) (body : List Byte) : LinkMove s (s.deliverRequest q body) := by
  unfold deliverRequest
  split
  · exact .of_frame (lawful_countDiscard _ _) (by decide)
  · split
    · exact .of_frame (lawful_countDiscard _ _) (by decide)
    · rename_i h s1 hc
      have hstore := LinkMove.of_frame ((lawful_claimHandle hc).trans (lawful_appendOctets true h body)) (by decide)
      split
      · rename_i s2 hs2
        rw [hs2] at hstore
        exact hstore.trans (.of_frame (lawful_discard _ _) (by decide))
      · rename_i s2 hs2
        rw [hs2] at hstore
        exact hstore.trans (linkMove_offerInbox h)

/-! ## The receiver, in UP -/

section Receiver

variable (hup : s.line.link = .up)

include hup

theorem linkMove_contexts (h : Lawful contextBlocks s t) : LinkMove s t := .of_receiver h (by decide) hup

theorem linkMove_nestingCheck (q : Tier) : LinkMove s (s.nestingCheck q) := by
  have hfold := linkMove_contexts hup
    (lawful_foldl (f := fun s u => s.abandon .sequence u) (fun _ u => lawful_abandon .sequence u) (moreUrgentThan q) s)
  unfold nestingCheck
  dsimp only
  split
  · exact hfold.trans (linkMove_raiseNotice _)
  · exact hfold

theorem linkMove_reopenCheck (q : Tier) : LinkMove s (s.reopenCheck q) := by
  have habandon := linkMove_contexts hup (lawful_abandon .sequence q)
  unfold reopenCheck
  dsimp only
  split
  · exact habandon.trans (linkMove_raiseNotice _)
  · exact habandon

theorem linkMove_receiveOpenFirst (q : Tier) : LinkMove s (s.receiveOpenFirst q) := by
  have hslip := linkMove_contexts hup lawful_slip
  have hnest := hslip.trans (linkMove_nestingCheck (hslip.link.trans hup) q)
  have hopen := hnest.trans (linkMove_reopenCheck (hnest.link.trans hup) q)
  exact hopen.trans (.of_receiver (lawful_openContext q) (by decide) (hopen.link.trans hup))

theorem linkMove_indexCheck (q : Tier) (i : FragIx) : LinkMove s (s.indexCheck q i) := by
  unfold indexCheck
  split
  · split
    · exact .refl s
    · refine LinkMove.trans (linkMove_contexts hup ?_) (linkMove_raiseNotice _)
      split
      · exact (lawful_giveUp q .sequence).seq (lawful_setContext q _) (by decide)
      · exact lawful_giveUp q .sequence
  · exact .of_receiver (lawful_setContext q _) (by decide) hup
  · exact .refl s

theorem linkMove_receiveOpenNext (q : Tier) (i : FragIx) : LinkMove s (s.receiveOpenNext q i) := by
  have hslip := linkMove_contexts hup lawful_slip
  unfold receiveOpenNext
  dsimp only
  split
  · have horphan := hslip.trans (linkMove_raiseNotice (.sequenceFault q .orphan))
    exact horphan.trans (.of_receiver (lawful_openFragment q .next .ignored) (by decide) (horphan.link.trans hup))
  · have hnest := hslip.trans (linkMove_nestingCheck (hslip.link.trans hup) q)
    have hindex := hnest.trans (linkMove_indexCheck (hnest.link.trans hup) q i)
    exact hindex.trans (.of_receiver (lawful_openFragment q .next _) (by decide) (hindex.link.trans hup))

omit hup in
theorem linkMove_completeFrame (a : Assembly) (check : List Byte) : LinkMove s (s.completeFrame a check) := by
  unfold completeFrame
  split
  · exact .of_frame (lawful_countDiscard _ _) (by decide)
  · split
    · split
      · exact linkMove_offerInbox _
      · exact .of_frame (lawful_routeStream _ _) (by decide)
    · exact .of_frame (lawful_discard _ _) (by decide)

theorem linkMove_receiveCloseLast : LinkMove s s.receiveCloseLast := by
  unfold receiveCloseLast
  split
  · exact .refl s
  · rename_i f _
    split
    · exact linkMove_clearFragment
    · dsimp only
      have hcheck : LinkMove s
          (if f.mode = .storing ∧ f.checks 6 = false then s.giveUp f.tier .fragmentCheck else s) := by
        split
        · exact linkMove_contexts hup (lawful_giveUp _ _)
        · exact .refl s
      have hclose := (hcheck.trans (linkMove_closeContext f.tier)).trans linkMove_clearFragment
      revert hclose
      generalize (if f.mode = .storing ∧ f.checks 6 = false then s.giveUp f.tier .fragmentCheck else s) = s1
      intro hclose
      split
      · exact hclose.trans (linkMove_completeFrame _ _)
      · exact hclose

end Receiver

/-! ## The trunk line -/

/-- Abandoning every context leaves all of them CLOSED and no fragment open (R141, R142). -/
theorem abandonAll_closes (c : Cause) (s : State) :
    (s.abandonAll c).rx.fragment = none ∧ ∀ u, (s.abandonAll c).context u = .closed := by
  have hself : ∀ (u : Tier) (s : State), (s.abandon c u).context u = .closed := by
    intro u s
    unfold abandon
    split
    · rw [context_of_rx ((lawful_discardAssembly c _).frame.rx (by decide))]; exact setContext_context_self ..
    · exact setContext_context_self ..
    · assumption
  have hother : ∀ (u x : Tier) (s : State), s.context x = .closed → (s.abandon c u).context x = .closed := by
    intro u x s hx
    by_cases hux : x = u
    · subst hux; exact hself x s
    · unfold abandon
      split
      · rw [context_of_rx ((lawful_discardAssembly c _).frame.rx (by decide)), setContext_context_other _ _ hux]; exact hx
      · rw [setContext_context_other _ _ hux]; exact hx
      · exact hx
  refine ⟨rfl, fun u => ?_⟩
  show ((((s.abandon c .t0).abandon c .t1).abandon c .t2).abandon c .t3).context u = .closed
  cases u
  · exact hother _ _ _ (hother _ _ _ (hother _ _ _ (hself ..)))
  · exact hother _ _ _ (hother _ _ _ (hself ..))
  · exact hother _ _ _ (hself ..)
  · exact hself ..

theorem transmitterLoss_tx :
    s.transmitterLoss.1.tx = { mode := .offline, active := none, fragment := none, stack := [] } := by
  have hfold : ∀ (l : List Nat) (acc : State × Nat × Nat), (l.foldl returnFrame acc).1.tx = acc.1.tx := by
    intro l
    induction l with
    | nil => exact fun _ => rfl
    | cons h l ih => exact fun acc => (ih _).trans ((lawful_returnFrame acc h).frame.tx (by decide))
  exact hfold _ _

theorem linkOk_withLine_down {v : TrunkLine} (hl : v.link = .down) (hidle : v.idleRun = 0) (hinv : v.invalidRun = 0)
    (htx : s.tx = { mode := .offline, active := none, fragment := none, stack := [] }) (hfrag : s.rx.fragment = none)
    (hctx : ∀ u, s.context u = .closed) : LinkOk (s.withLine v) := by
  have hup : v.link ≠ .up := by rw [hl]; decide
  refine ⟨fun _ => hl, by rw [withLine_line, hidle]; decide, by rw [withLine_line, hinv]; decide, fun _ => hidle,
    fun _ => hinv, fun h => absurd h hup, ⟨fun h => absurd h hup, fun h => absurd ?_ h⟩, fun _ => ?_,
    fun _ => ⟨hfrag, hctx⟩⟩
  · rw [withLine_tx, htx]
  · rw [withLine_tx, htx]
    exact ⟨rfl, rfl, rfl⟩

/-- Leaving UP acts on the resend timer and the sent symbols last (R120): before that the link is DOWN, the transmitter
OFFLINE, the receiver closed, and the notice queue untouched. -/
theorem leaveUp_eq (s : State) : ∃ (u : State) (v : TrunkLine), s.leaveUp = (u.withLine v).syncTimer.trunkIdle ∧
    (v.link = .down ∧ v.idleRun = 0 ∧ v.invalidRun = 0) ∧
    u.tx = { mode := .offline, active := none, fragment := none, stack := [] } ∧
    (u.rx.fragment = none ∧ ∀ x, u.context x = .closed) ∧ u.notices = s.notices := by
  have hline : ((s.withLine { s.line with
      link := .down, idleRun := 0, invalidRun := 0 }).transmitterLoss.1.abandonAll .trunkDown).line =
      { s.line with link := .down, idleRun := 0, invalidRun := 0 } :=
    ((lawful_abandonAll .trunkDown).frame.line (by decide)).trans (lawful_transmitterLoss.frame.line (by decide))
  have hnotices : ((s.withLine { s.line with
      link := .down, idleRun := 0, invalidRun := 0 }).transmitterLoss.1.abandonAll .trunkDown).notices = s.notices :=
    ((lawful_abandonAll .trunkDown).frame.notices (by decide)).trans (lawful_transmitterLoss.frame.notices (by decide))
  refine ⟨_, _, rfl, ⟨?_, ?_, ?_⟩, ?_, abandonAll_closes .trunkDown _, hnotices⟩
  · rw [hline]
  · rw [hline]
  · rw [hline]
  · exact ((lawful_abandonAll .trunkDown).frame.tx (by decide)).trans transmitterLoss_tx

/-- Leaving UP puts the link, the transmitter and the receiver in order, whatever was before (R120). -/
theorem leaveUp_linkOk : LinkOk s.leaveUp := by
  obtain ⟨u, v, he, ⟨hl, hidle, hinv⟩, htx, ⟨hfrag, hctx⟩, -⟩ := leaveUp_eq s
  rw [he]
  refine linkMove_trunkIdle.ok ((LinkMove.of_frame lawful_syncTimer (by decide)).ok ?_)
  exact linkOk_withLine_down hl hidle hinv htx hfrag hctx

/-- Reaching UP from ALIGNING (R122). -/
theorem reachUp_linkOk (hs : LinkOk s) (hlos : s.line.los = false) (hl : s.line.link ≠ .up) : LinkOk s.reachUp := by
  obtain ⟨-, -, -, -, -, -, h7, h8, -⟩ := hs
  have hoff : s.tx.mode = .offline := by
    by_contra h
    exact hl (h7.2 h)
  have hup : LinkOk ((s.withLine { s.line with link := .up, idleRun := 0, invalidRun := 0, beenUp := true }).withTx
      { s.tx with mode := .clearing }) :=
    ⟨fun h => absurd (hlos.symm.trans h) nofun, Nat.zero_le _, Nat.zero_le _, fun _ => rfl,
      fun h => absurd rfl h, fun _ => rfl, ⟨fun _ => nofun, fun _ => rfl⟩, fun _ => h8 (by rw [hoff]; decide),
      fun h => absurd rfl h⟩
  refine linkMove_noticeResume.ok ((LinkMove.of_frame lawful_syncTimer (by decide)).ok ?_)
  dsimp only
  split
  · exact (linkMove_raiseNotice _).ok hup
  · exact hup

/-- A link that is not UP goes to ALIGNING at a symbol (R116, R117). -/
theorem alignFrom_linkOk (hs : LinkOk s) (hlos : s.line.los = false) (hl : s.line.link ≠ .up) : LinkOk s.alignFrom := by
  obtain ⟨-, -, h3, -, h5, -, h7, h8, h9⟩ := hs
  refine ⟨fun h => ?_, Nat.zero_le _, h3, fun _ => rfl, fun _ => h5 hl, nofun, ⟨nofun, fun h => absurd (h7.2 h) hl⟩, h8,
    fun _ => h9 hl⟩
  rw [show s.alignFrom.line.los = s.line.los from rfl, hlos] at h
  cases h

/-- In UP a symbol may set the invalid run. -/
theorem linkMove_invalidRun {n : Nat} (hn : n ≤ 3) (hup : s.line.link = .up) :
    LinkMove s (s.withLine { s.line with invalidRun := n }) :=
  ⟨rfl, fun ⟨h1, h2, _, h4, _, h6, h7, h8, h9⟩ => ⟨h1, h2, hn, h4, fun h => absurd hup h, h6, h7, h8, h9⟩⟩

theorem trunkSymbol_linkOk {f : State → State} (hf : ∀ u : State, u.line.link = .up → LinkMove u (f u)) (hs : LinkOk s) :
    LinkOk (s.trunkSymbol f) := by
  unfold trunkSymbol
  split
  · exact hs
  · rename_i hlos
    have hlos : s.line.los = false := by simpa using hlos
    split
    · rename_i hl; exact alignFrom_linkOk hs hlos (by rw [hl]; decide)
    · rename_i hl; exact alignFrom_linkOk hs hlos (by rw [hl]; decide)
    · rename_i hup
      have hvalid : LinkMove s s.validSymbol := linkMove_invalidRun (Nat.zero_le 3) hup
      exact ((hvalid.trans (hf _ (hvalid.link.trans hup))).trans linkMove_settle).ok hs

theorem trunkIdleSymbol_linkOk (hs : LinkOk s) : LinkOk s.trunkIdleSymbol := by
  unfold trunkIdleSymbol
  split
  · exact hs
  · rename_i hlos
    have hlos : s.line.los = false := by simpa using hlos
    split
    · rename_i hl; exact alignFrom_linkOk hs hlos (by rw [hl]; decide)
    · rename_i hl
      split
      · rename_i hrun
        obtain ⟨h1, -, h3, -, h5, h6, h7, h8, h9⟩ := hs
        simp only [Config.alignRun] at hrun
        exact ⟨h1, Nat.lt_succ_iff.1 hrun, h3, fun h => absurd hl h, h5, h6, h7, h8, h9⟩
      · exact reachUp_linkOk hs hlos (by rw [hl]; decide)
    · rename_i hup
      exact (linkMove_invalidRun (Nat.zero_le 3) hup).ok hs

theorem trunkInvalid_linkOk (hs : LinkOk s) : LinkOk s.trunkInvalid := by
  unfold trunkInvalid
  split
  · exact hs
  · rename_i hlos
    have hlos : s.line.los = false := by simpa using hlos
    split
    · rename_i hl; exact alignFrom_linkOk hs hlos (by rw [hl]; decide)
    · rename_i hl; exact alignFrom_linkOk hs hlos (by rw [hl]; decide)
    · rename_i hup
      split
      · rename_i hrun
        simp only [Config.lossRun] at hrun
        have hinv := linkMove_invalidRun (s := s) (n := s.line.invalidRun + 1) (by omega) hup
        exact ((hinv.trans (linkMove_contexts (hinv.link.trans hup) lawful_slip)).trans linkMove_settle).ok hs
      · exact linkMove_settle.ok leaveUp_linkOk

theorem losAsserted_linkOk (hs : LinkOk s) : LinkOk s.losAsserted := by
  obtain ⟨-, h2, h3, h4, h5, h6, h7, h8, h9⟩ := hs
  unfold losAsserted
  dsimp only
  split
  · rename_i hl
    exact ⟨fun _ => hl, h2, h3, h4, h5, h6, h7, h8, h9⟩
  · rename_i hl
    have hn : s.line.link ≠ .up := by rw [hl]; decide
    exact ⟨fun _ => rfl, Nat.zero_le _, h3, fun _ => rfl, fun _ => h5 hn, nofun, ⟨nofun, fun h => absurd (h7.2 h) hn⟩, h8,
      fun _ => h9 hn⟩
  · exact linkMove_settle.ok leaveUp_linkOk

theorem losDeasserted_linkOk (hs : LinkOk s) : LinkOk s.losDeasserted := by
  have hlos : LinkOk (s.withLine { s.line with los := false }) := ⟨nofun, hs.2⟩
  unfold losDeasserted
  dsimp only
  split
  · rename_i hl
    exact alignFrom_linkOk hlos rfl fun h => absurd (hl.symm.trans h) nofun
  · exact hlos

/-! ## The tributaries and the timers -/

theorem linkMove_handOver (h : Nat) (i : StreamIx) (len : Nat) : LinkMove s (s.handOver h i len) := by
  have hcharge : LinkMove s (s.charge i len).2 := by
    unfold charge
    dsimp only
    split
    · exact .refl s
    · exact .refl s
    · split
      · exact .of_eq rfl rfl rfl
      · split
        · split
          · split <;> exact .of_eq rfl rfl rfl
          · exact .of_eq rfl rfl rfl
        · rename_i c _ _ _ _ _
          have hset : LinkMove s (s.setRuntime i.val (.exhausted c)) := .of_eq rfl rfl rfl
          exact hset.trans (linkMove_raiseNotice _)
    · exact .refl s
  have hdiscard : ∀ (c : Cause) (u : State), LinkMove u (u.discard c h) := fun c u =>
    .of_frame (lawful_discard c h) (by decide)
  unfold handOver
  dsimp only
  split
  · exact hcharge.trans (hdiscard _ _)
  · exact hcharge.trans (hdiscard _ _)
  · rename_i q _
    have hoffer := (hcharge.trans (.of_frame (lawful_fixTier h i q) (by decide))).trans (linkMove_offerQueue q h)
    split
    · exact hoffer
    · exact hoffer.trans (hdiscard _ _)

theorem linkMove_ingressEnd (p : Port) : LinkMove s (s.ingressEnd p) := by
  unfold ingressEnd
  split
  · exact .refl s
  · exact (linkMove_setPort p _).trans (.of_frame (lawful_countDiscard _ _) (by decide))
  · unfold ingressClose
    split
    · exact .refl s
    · dsimp only
      split
      · exact (linkMove_setPort p _).trans (.of_frame (lawful_discard _ _) (by decide))
      · split
        · exact (linkMove_setPort p _).trans (.of_frame (lawful_discard _ _) (by decide))
        · split
          · refine LinkMove.trans ?_ (.of_frame (lawful_discard _ _) (by decide))
            exact (linkMove_setPort p _).trans (.of_frame (lawful_modHandle _ _ fun _ => rfl) (by decide))
          · exact (linkMove_setPort p _).trans (linkMove_handOver _ _ _)
  · exact linkMove_setPort p _

/-- A command that is a lawful move off the line, the transmitter and the receiver, with its release events taken. -/
theorem linkMove_settled {bs : List Block} (h : Lawful bs s t) (hb : Block.line ∉ bs ∧ Block.tx ∉ bs ∧ Block.rx ∉ bs) :
    LinkMove s t.settle := (LinkMove.of_frame h hb).trans linkMove_settle

theorem linkMove_request (h : ReqHeader) (kind : Byte) (args : List Byte) : LinkMove s (s.request h kind args) :=
  (linkMove_deliverRequest _ _).trans linkMove_settle

theorem linkMove_tick : LinkMove s s.tick := by
  have hticks := LinkMove.of_frame
    (lawful_tickEpoch.seq (ds := [.metering, .agent]) lawful_tickWindow (by decide) : Lawful _ s _) (by decide)
  have hresend : ∀ u : State, LinkMove u u.tickResend := fun u => by
    unfold tickResend
    split
    · split
      · exact .of_frame (lawful_withNotices _) (by decide)
      · exact linkMove_resendExpiry
    · exact .refl u
  exact hticks.trans (hresend _)

end State

/-- Every command but power-on reset keeps the agreement of link, transmitter and receiver. -/
theorem exec_linkOk {x : Instr} (hx : ∀ straps los, x ≠ .powerOnReset straps los) {s t : State} (hs : LinkOk s)
    (h : exec x s = .next t) : LinkOk t := by
  cases x with
  | powerOnReset straps los => exact absurd rfl (hx straps los)
  | tributaryOpen p => cases h; exact (State.linkMove_settled (State.lawful_ingressOpen p) (by decide)).ok hs
  | tributaryDataOctet p b => cases h; exact (State.linkMove_settled (State.lawful_ingressData p b) (by decide)).ok hs
  | closeEnd p => cases h; exact ((State.linkMove_ingressEnd p).trans State.linkMove_settle).ok hs
  | closeAbort p => cases h; exact (State.linkMove_settled (State.lawful_ingressAbort p) (by decide)).ok hs
  | tributaryInvalidSymbol p =>
    cases h; exact (State.linkMove_settled (State.lawful_endIngress p _ (.inr rfl)) (by decide)).ok hs
  | tributaryIdle p => cases h; exact hs
  | egressCloseEndSent p => cases h; exact (State.linkMove_settled (State.lawful_egressSent p) (by decide)).ok hs
  | trkLosAsserted => cases h; exact State.losAsserted_linkOk hs
  | trkLosDeasserted => cases h; exact State.losDeasserted_linkOk hs
  | trunkIdleReceived => cases h; exact State.trunkIdleSymbol_linkOk hs
  | openFirst q => cases h; exact State.trunkSymbol_linkOk (fun _ hup => State.linkMove_receiveOpenFirst hup q) hs
  | openNext q i => cases h; exact State.trunkSymbol_linkOk (fun _ hup => State.linkMove_receiveOpenNext hup q i) hs
  | trunkDataOctet b =>
    cases h; exact State.trunkSymbol_linkOk (fun _ hup => State.linkMove_contexts hup (State.lawful_receiveData b)) hs
  | closeMore =>
    cases h; exact State.trunkSymbol_linkOk (fun _ hup => State.linkMove_contexts hup State.lawful_receiveCloseMore) hs
  | closeLast => cases h; exact State.trunkSymbol_linkOk (fun _ hup => State.linkMove_receiveCloseLast hup) hs
  | clearReceived =>
    cases h
    exact State.trunkSymbol_linkOk (fun _ hup => State.linkMove_contexts hup (State.lawful_abandonAll .cleared)) hs
  | trunkInvalidSymbol => cases h; exact State.trunkInvalid_linkOk hs
  | blockSent => cases h; exact State.blockSent_linkOk hs
  | closeMoreSent => cases h; exact State.closeMoreSent_linkOk hs
  | closeLastSent =>
    simp only [exec, execCloseLastSent] at h
    split at h
    · cases h; exact hs
    · rename_i u hu
      cases h
      exact (State.linkMove_settle.trans State.linkMove_selectAfterClose).ok (State.completeActive_linkOk hu hs)
  | clearSent => cases h; exact State.linkMove_clearSent.ok hs
  | epochExpiry => cases h; exact (LinkMove.of_frame State.lawful_epochExpiry (by decide)).ok hs
  | windowIdleTimeout => cases h; exact (LinkMove.of_frame State.lawful_windowExpiry (by decide)).ok hs
  | resendTimerExpiry => cases h; exact State.linkMove_resendExpiry.ok hs
  | agentAttemptEvent =>
    cases h
    split
    · exact State.linkMove_attempt.ok hs
    · exact hs
  | agentRetry =>
    cases h
    split
    · exact State.linkMove_attempt.ok hs
    · exact hs
  | noticeClaimRetry => cases h; exact State.linkMove_noticeRetry.ok hs
  | malformedRequest q b rest =>
    cases h; exact ((State.linkMove_deliverRequest _ _).trans State.linkMove_settle).ok hs
  | _ => cases h; exact (State.linkMove_request ..).ok hs

/-- Settles O15: the moves above keep the agreement of link, transmitter and receiver, and lawful moves the bounds. -/
theorem linkStaysInOrder : Obligations.LinkStaysInOrder := by
  refine ⟨fun s t hs h => ?_, fun s t => step_boundsOk⟩
  rcases hp : s.pending with _ | ⟨x, rest⟩
  · rw [step_of_pending_nil hp] at h
    cases h
    exact State.linkMove_tick.ok hs
  · rw [step_of_pending hp] at h
    by_cases hx : ∃ straps los, x = .powerOnReset straps los
    · obtain ⟨straps, los, rfl⟩ := hx
      cases h
      exact State.powerOn_linkOk straps los
    · exact exec_linkOk (fun straps los he => hx ⟨straps, los, he⟩) (s := s.withPending rest) hs h

end Sys2Proof.Machine
end

section
/-! PROOFS. The order of the notice queue (R173 to R184): what each move leaves of the records, the resend timer and the first
send that waits. -/

namespace Sys2Proof.Machine

/-! ## Records and their matter (R173, R175) -/

/-- Kind and subject decide the matter of a notice. -/
theorem Notice.sameMatter_iff (a b : Notice) :
    a.sameMatter b = true ↔ noticeKindCode a = noticeKindCode b ∧ noticeSubject a = noticeSubject b := by
  cases a <;> cases b <;> simp [Notice.sameMatter, noticeKindCode, noticeSubject]
  rename_i x _ y _
  cases x <;> cases y <;> decide

theorem Notice.sameMatter_symm {a b : Notice} (h : a.sameMatter b = true) : b.sameMatter a = true := by
  rw [Notice.sameMatter_iff] at h ⊢
  exact ⟨h.1.symm, h.2.symm⟩

theorem Notice.sameMatter_trans {a b c : Notice} (h : a.sameMatter b = true) (g : b.sameMatter c = true) :
    a.sameMatter c = true := by
  rw [Notice.sameMatter_iff] at h g ⊢
  exact ⟨h.1.trans g.1, h.2.trans g.2⟩

/-- A record is SENT or QUEUED. -/
theorem NoticeRecord.isSent_eq_false {r : NoticeRecord} : r.isSent = false ↔ r.state = .queued := by
  unfold NoticeRecord.isSent
  split <;> simp_all

/-- The records of a queue in order: at most 16, only the oldest SENT, and no matter QUEUED twice (R173, R175). -/
def RecordsOk (l : List NoticeRecord) : Prop :=
  l.length ≤ 16 ∧ (∀ r ∈ l.tail, r.state = .queued) ∧
  (l.filter fun r => !r.isSent).Pairwise fun a b => a.notice.sameMatter b.notice = false

theorem RecordsOk.tail {l : List NoticeRecord} (h : RecordsOk l) : RecordsOk l.tail := by
  obtain ⟨hlen, htail, hpair⟩ := h
  refine ⟨by simp only [List.length_tail]; omega, fun r hr => htail r (List.mem_of_mem_tail hr), ?_⟩
  exact hpair.sublist ((List.tail_sublist l).filter _)

theorem RecordsOk.send {r : NoticeRecord} {rest : List NoticeRecord} (h : RecordsOk (r :: rest)) (q : Byte) (k : Nat)
    (l : Byte) : RecordsOk ({ r with state := .sent q k l } :: rest) := by
  obtain ⟨hlen, htail, hpair⟩ := h
  refine ⟨hlen, htail, ?_⟩
  rw [List.filter_cons_of_neg (by simp [NoticeRecord.isSent])]
  exact hpair.sublist ((List.sublist_cons_self r rest).filter _)

theorem RecordsOk.append {l : List NoticeRecord} {n : Notice} (h : RecordsOk l) (hlen : l.length < 16)
    (hnone : ∀ r ∈ l, r.coalesces n = false) : RecordsOk (l ++ [{ notice := n, state := .queued }]) := by
  obtain ⟨-, htail, hpair⟩ := h
  refine ⟨by simp only [List.length_append, List.length_singleton]; omega, fun r hr => ?_, ?_⟩
  · cases l with
    | nil => cases hr
    | cons r0 l =>
      rcases List.mem_append.1 hr with hr | hr
      · exact htail r hr
      · rw [List.mem_singleton.1 hr]
  · rw [List.filter_append, List.pairwise_append]
    refine ⟨hpair, (List.pairwise_singleton ..).sublist List.filter_sublist, fun a ha b hb => ?_⟩
    have hb' : b = { notice := n, state := .queued } := List.mem_singleton.1 (List.mem_of_mem_filter hb)
    have hca := hnone a (List.mem_of_mem_filter ha)
    rw [NoticeRecord.coalesces, (List.mem_filter.1 ha).2, Bool.true_and] at hca
    rw [hb']
    exact hca

/-! ## Coalescing (R175) -/

section Coalesce

variable {n : Notice}

theorem coalesce_length (l : List NoticeRecord) : (coalesce n l).length = l.length := by
  induction l with
  | nil => rfl
  | cons r l ih => unfold coalesce; split <;> simp [ih]

/-- Coalescing keeps the state of every record. -/
theorem coalesce_states (l : List NoticeRecord) : (coalesce n l).map (·.state) = l.map (·.state) := by
  induction l with
  | nil => rfl
  | cons r l ih => unfold coalesce; split <;> simp [ih]

theorem forall_queued_congr {l m : List NoticeRecord} (h : m.map (·.state) = l.map (·.state)) :
    (∀ r ∈ m, r.state = .queued) ↔ ∀ r ∈ l, r.state = .queued := by
  rw [← List.forall_mem_map (f := NoticeRecord.state) (P := (· = .queued)), h, List.forall_mem_map]

theorem coalesce_ne_nil {l : List NoticeRecord} : coalesce n l ≠ [] ↔ l ≠ [] := by
  rw [← List.length_pos_iff, ← List.length_pos_iff, coalesce_length]

theorem coalesce_any_isSent (l : List NoticeRecord) :
    (coalesce n l).any NoticeRecord.isSent = l.any NoticeRecord.isSent := by
  induction l with
  | nil => rfl
  | cons r l ih => unfold coalesce; split <;> simp [ih, NoticeRecord.isSent]

/-- The SENT head is never the record that takes the new detail. -/
theorem coalesce_head {r : NoticeRecord} {l : List NoticeRecord} (hr : r.isSent = true) :
    coalesce n (r :: l) = r :: coalesce n l := by
  have : r.coalesces n = false := by simp [NoticeRecord.coalesces, hr]
  simp [coalesce, this]

/-- A matter that no QUEUED record has is still had by none after a coalescing of another. -/
theorem coalesce_forall {m : Notice} {l : List NoticeRecord}
    (h : ∀ r ∈ l.filter fun r => !r.isSent, m.sameMatter r.notice = false) :
    ∀ r ∈ (coalesce n l).filter fun r => !r.isSent, m.sameMatter r.notice = false := by
  induction l with
  | nil => exact h
  | cons r l ih =>
    rw [List.filter_cons] at h
    unfold coalesce
    split
    · rename_i hc
      simp only [NoticeRecord.coalesces, Bool.and_eq_true, Bool.not_eq_true'] at hc
      rw [hc.1] at h
      have hkeep : ({ r with notice := n } : NoticeRecord).isSent = false := hc.1
      rw [List.filter_cons, hkeep]
      intro x hx
      rcases List.mem_cons.1 hx with rfl | hx
      · by_contra hm
        have hm : m.sameMatter n = true := by simpa using hm
        have := h r (by simp)
        rw [Notice.sameMatter_trans hm (Notice.sameMatter_symm hc.2)] at this
        cases this
      · exact h x (List.mem_cons_of_mem _ hx)
    · rw [List.filter_cons]
      cases hs : r.isSent with
      | true =>
        rw [hs] at h
        exact ih h
      | false =>
        rw [hs] at h
        intro x hx
        rcases List.mem_cons.1 hx with rfl | hx
        · exact h _ List.mem_cons_self
        · exact ih (fun y hy => h y (List.mem_cons_of_mem _ hy)) x hx

theorem RecordsOk.coalesce {l : List NoticeRecord} (h : RecordsOk l) : RecordsOk (coalesce n l) := by
  obtain ⟨hlen, htail, hpair⟩ := h
  refine ⟨by rw [coalesce_length]; exact hlen, ?_, ?_⟩
  · refine (forall_queued_congr ?_).2 htail
    rw [List.map_tail, coalesce_states, List.map_tail]
  · clear hlen htail
    induction l with
    | nil => exact hpair
    | cons r l ih =>
      rw [List.filter_cons] at hpair
      unfold Machine.coalesce
      split
      · rename_i hc
        simp only [NoticeRecord.coalesces, Bool.and_eq_true, Bool.not_eq_true'] at hc
        rw [hc.1] at hpair
        have hkeep : ({ r with notice := n } : NoticeRecord).isSent = false := hc.1
        rw [List.filter_cons, hkeep]
        obtain ⟨hr, hl⟩ := List.pairwise_cons.1 hpair
        refine List.pairwise_cons.2 ⟨fun x hx => ?_, hl⟩
        by_contra hm
        have hm : n.sameMatter x.notice = true := by simpa using hm
        have := hr x hx
        rw [Notice.sameMatter_trans hc.2 hm] at this
        cases this
      · rw [List.filter_cons]
        cases hs : r.isSent with
        | true =>
          rw [hs] at hpair
          exact ih hpair
        | false =>
          rw [hs] at hpair
          obtain ⟨hr, hl⟩ := List.pairwise_cons.1 hpair
          exact List.pairwise_cons.2 ⟨coalesce_forall hr, ih hl⟩

end Coalesce

/-! ## The queue and its timer (R174, R180) -/

/-- The queue in order but for the link and the notice tag. -/
def NoticeQueue.Core (q : NoticeQueue) : Prop :=
  RecordsOk q.records ∧ q.lost ≤ 255 ∧
  (q.timer = .stopped → (q.pending = false → ∀ r ∈ q.records, r.state = .queued) ∧
    (q.pending = true → q.records ≠ [] ∧ ((∀ r ∈ q.records, r.state = .queued) ∨ q.headSent 3))) ∧
  (q.timer ≠ .stopped → q.headSent 4 ∧ q.pending = false)

/-- The resend timer runs or is held as the link and the notice tag ask (R180, R184). -/
def State.TimerAgrees (s : State) : Prop :=
  (∀ e, s.notices.timer = .running e → s.noticesOpen = true) ∧ ∀ e, s.notices.timer = .held e → s.noticesOpen = false

theorem noticesOk_iff {s : State} :
    NoticesOk s ↔ s.notices.Core ∧ s.TimerAgrees ∧ s.firstSendReady = false := by
  unfold NoticesOk NoticeQueue.Core RecordsOk State.TimerAgrees
  cases s.notices.timer <;> simp <;> tauto

theorem NoticeQueue.headSent_mono {q : NoticeQueue} {a b : Nat} (h : q.headSent a) (hab : a ≤ b) : q.headSent b := by
  obtain ⟨n, seq, k, lost, rest, he, h1, ha⟩ := h
  exact ⟨n, seq, k, lost, rest, he, h1, ha.trans hab⟩

/-- A queue whose timer is stopped and whose claim is not pending is in order when all its records are QUEUED. -/
theorem NoticeQueue.core_of_queued {q : NoticeQueue} (hr : RecordsOk q.records) (hl : q.lost ≤ 255)
    (ht : q.timer = .stopped) (hp : q.pending = false) (hq : ∀ r ∈ q.records, r.state = .queued) : q.Core :=
  ⟨hr, hl, fun _ => ⟨fun _ => hq, fun h => absurd (hp.symm.trans h) nofun⟩, fun h => absurd ht h⟩

/-- The queue right after a send (R178, R180). -/
theorem NoticeQueue.core_sent {q : NoticeQueue} {r : NoticeRecord} {rest : List NoticeRecord} (h : q.Core)
    (hr : q.records = r :: rest) {k : Nat} (hk : 1 ≤ k ∧ k ≤ 4) (seq l c : Byte) :
    NoticeQueue.Core { q with
      records := { r with state := .sent seq k l } :: rest, counter := c, pending := false, timer := .running 0 } := by
  obtain ⟨hrec, hlost, -, -⟩ := h
  rw [hr] at hrec
  exact ⟨hrec.send seq k l, hlost, nofun, fun _ => ⟨⟨_, _, _, _, _, rfl, hk.1, hk.2⟩, rfl⟩⟩

/-- The queue right after a refused claim (R178, R180). -/
theorem NoticeQueue.core_refused {q : NoticeQueue} (h : q.Core) (hne : q.records ≠ [])
    (hr : (∀ r ∈ q.records, r.state = .queued) ∨ q.headSent 3) :
    NoticeQueue.Core { q with pending := true, timer := .stopped } :=
  ⟨h.1, h.2.1, fun _ => ⟨nofun, fun _ => ⟨hne, hr⟩⟩, fun h => absurd rfl h⟩

namespace State

variable {s t u : State}

theorem noticesOpen_congr (hl : t.line.link = s.line.link) (ht : t.part.noticeTag = s.part.noticeTag) :
    t.noticesOpen = s.noticesOpen := by rw [noticesOpen, noticesOpen, hl, ht]

/-- A first send waits where the queue would send and the link and the notice tag let it (R177). -/
theorem firstSendReady_eq_false_iff : s.firstSendReady = false ↔
    s.noticesOpen = true → s.notices.records ≠ [] → s.notices.pending = false →
      s.notices.records.any NoticeRecord.isSent = true := by
  unfold firstSendReady
  cases s.noticesOpen <;> cases s.notices.pending <;> cases s.notices.records.any NoticeRecord.isSent <;> simp

/-- What a send leaves in the notice queue (R178, R180). -/
theorem sendOldest_notices {r : NoticeRecord} {rest : List NoticeRecord} (hr : s.notices.records = r :: rest) (q : Byte)
    (k : Nat) (l c : Byte) :
    (s.sendOldest q k l c).notices = { s.notices with
      records := { r with state := .sent q k l } :: rest, counter := c, pending := false, timer := .running 0 } ∨
    (s.sendOldest q k l c).notices = { s.notices with pending := true, timer := .stopped } := by
  simp only [sendOldest, hr]
  split
  · exact .inr rfl
  · exact .inl (by simp)

theorem sendOldest_noticesOpen (q : Byte) (k : Nat) (l c : Byte) :
    (s.sendOldest q k l c).noticesOpen = s.noticesOpen :=
  noticesOpen_congr (linkMove_sendOldest q k l c).link (by simp)

end State

/-- A move that keeps the order of the notice queue, part by part. -/
structure NoticeMove (s t : State) : Prop where
  opened : t.noticesOpen = s.noticesOpen
  core : s.notices.Core → t.notices.Core
  agrees : s.notices.Core → s.TimerAgrees → t.TimerAgrees
  quiet : s.firstSendReady = false → t.firstSendReady = false

namespace NoticeMove

variable {s t u : State}

theorem refl (s : State) : NoticeMove s s := ⟨rfl, id, fun _ => id, id⟩

theorem trans (h : NoticeMove s t) (g : NoticeMove t u) : NoticeMove s u :=
  ⟨g.opened.trans h.opened, g.core ∘ h.core, fun hc ha => g.agrees (h.core hc) (h.agrees hc ha), g.quiet ∘ h.quiet⟩

theorem ok (h : NoticeMove s t) (hs : NoticesOk s) : NoticesOk t := by
  rw [noticesOk_iff] at hs ⊢
  obtain ⟨hc, ha, hq⟩ := hs
  exact ⟨h.core hc, h.agrees hc ha, h.quiet hq⟩

theorem of_eq (hn : t.notices = s.notices) (ho : t.noticesOpen = s.noticesOpen) : NoticeMove s t := by
  refine ⟨ho, by rw [hn]; exact id, fun _ ha => ?_, fun h => ?_⟩
  · unfold State.TimerAgrees at ha ⊢
    rwa [hn, ho]
  · unfold State.firstSendReady at h ⊢
    rwa [hn, ho]

/-- A move that leaves the notice queue, the part table and the line. -/
theorem of_frame {bs : List Block} (h : Lawful bs s t) (hb : Block.notices ∉ bs ∧ Block.part ∉ bs ∧ Block.line ∉ bs) :
    NoticeMove s t :=
  of_eq (h.frame.notices hb.1)
    (State.noticesOpen_congr (by rw [h.frame.line hb.2.2]) (by rw [h.frame.part hb.2.1]))

/-- A move that leaves the notice queue, the part table and the link state. -/
theorem of_link {bs : List Block} (h : Lawful bs s t) (g : LinkMove s t) (hb : Block.notices ∉ bs ∧ Block.part ∉ bs) :
    NoticeMove s t :=
  of_eq (h.frame.notices hb.1) (State.noticesOpen_congr g.link (by rw [h.frame.part hb.2]))

end NoticeMove

namespace State

variable {s t : State}

/-! ## Sending (R177, R178, R180) -/

/-- After a send, granted or refused, no first send waits. -/
theorem sendOldest_quiet (hr : s.notices.records ≠ []) (q : Byte) (k : Nat) (l c : Byte) :
    (s.sendOldest q k l c).firstSendReady = false := by
  obtain ⟨r, rest, hr⟩ := List.exists_cons_of_ne_nil hr
  rw [firstSendReady_eq_false_iff]
  rcases sendOldest_notices hr q k l c with h | h
  · intro _ _ _
    rw [h]
    rfl
  · intro _ _ hp
    rw [h] at hp
    cases hp

/-- A send of the oldest record, QUEUED or SENT at most 3 times, while sending is open. -/
theorem noticeMove_sendOldest {r : NoticeRecord} {rest : List NoticeRecord} (hr : s.notices.records = r :: rest)
    (ho : s.notices.Core → s.TimerAgrees → s.noticesOpen = true) {k : Nat}
    (hk : s.notices.Core → 1 ≤ k ∧ k ≤ 4 ∧ ((∀ r ∈ s.notices.records, r.state = .queued) ∨ s.notices.headSent 3))
    (q l c : Byte) : NoticeMove s (s.sendOldest q k l c) := by
  have hne : s.notices.records ≠ [] := by rw [hr]; exact nofun
  refine ⟨sendOldest_noticesOpen q k l c, fun hc => ?_, fun hc ha => ?_, fun _ => sendOldest_quiet hne q k l c⟩
  · obtain ⟨h1, h4, hcase⟩ := hk hc
    rcases sendOldest_notices hr q k l c with h | h
    · rw [h]; exact NoticeQueue.core_sent hc hr ⟨h1, h4⟩ q l c
    · rw [h]; exact NoticeQueue.core_refused hc hne hcase
  · unfold TimerAgrees
    rw [sendOldest_noticesOpen, ho hc ha]
    rcases sendOldest_notices hr q k l c with h | h
    · rw [h]; exact ⟨fun _ _ => rfl, nofun⟩
    · rw [h]; exact ⟨nofun, nofun⟩

theorem queued_of_none_sent (hsent : s.notices.records.any NoticeRecord.isSent = false) :
    ∀ r ∈ s.notices.records, r.state = .queued := by
  intro r hr
  rw [List.any_eq_false] at hsent
  exact NoticeRecord.isSent_eq_false.1 (by simpa using hsent r hr)

theorem noticeMove_noticeAttempt : NoticeMove s s.noticeAttempt := by
  unfold noticeAttempt
  split
  · rename_i hready
    have hready' := hready
    simp only [firstSendReady, Bool.and_eq_true, Bool.not_eq_true', decide_eq_true_eq] at hready'
    obtain ⟨⟨⟨ho, hsent⟩, hne⟩, -⟩ := hready'
    obtain ⟨r, rest, hr⟩ := List.exists_cons_of_ne_nil hne
    exact noticeMove_sendOldest hr (fun _ _ => ho) (fun _ => ⟨le_rfl, by decide, .inl (queued_of_none_sent hsent)⟩) ..
  · exact .refl s

/-- After an attempt no first send waits (R177). -/
theorem noticeAttempt_quiet : s.noticeAttempt.firstSendReady = false := by
  unfold noticeAttempt
  split
  · rename_i hready
    simp only [firstSendReady, Bool.and_eq_true, decide_eq_true_eq] at hready
    exact sendOldest_quiet hready.1.2 ..
  · rename_i h
    simpa using h

theorem noticeMove_resend (ho : s.notices.Core → s.TimerAgrees → s.noticesOpen = true)
    (h3 : s.notices.Core → s.notices.headSent 3) : NoticeMove s s.resend := by
  unfold resend
  split
  · rename_i n q k l rest hr
    refine noticeMove_sendOldest hr ho (fun hc => ?_) ..
    obtain ⟨n', q', k', l', rest', he, h1, hk⟩ := h3 hc
    rw [hr] at he
    cases he
    exact ⟨by omega, by omega, .inr ⟨n, q, k, l, rest, hr, h1, hk⟩⟩
  · exact .refl s

/-- A queue with a claim pending whose head is SENT has sends left (R180). -/
theorem headSent_of_pending (hc : s.notices.Core) (hp : s.notices.pending = true) {r : NoticeRecord}
    {rest : List NoticeRecord} (hr : s.notices.records = r :: rest) (hsent : r.isSent = true) : s.notices.headSent 3 := by
  obtain ⟨-, -, hstopped, hrun⟩ := hc
  have ht : s.notices.timer = .stopped := by
    by_contra h
    exact absurd (hp.symm.trans (hrun h).2) nofun
  rcases (hstopped ht).2 hp with ⟨-, hq | hq⟩
  · have := NoticeRecord.isSent_eq_false.2 (hq r (by rw [hr]; exact List.mem_cons_self))
    rw [hsent] at this
    cases this
  · exact hq

theorem noticeMove_noticeRetry : NoticeMove s s.noticeRetry := by
  unfold noticeRetry
  split
  · rename_i h
    obtain ⟨hp, ho⟩ : s.notices.pending = true ∧ s.noticesOpen = true := by simpa using h
    split
    · exact .refl s
    · rename_i r rest hr
      split
      · rename_i hsent
        exact noticeMove_resend (fun _ _ => ho) fun hc => headSent_of_pending hc hp hr hsent
      · rename_i hsent
        refine noticeMove_sendOldest hr (fun _ _ => ho) (fun hc => ⟨le_rfl, by decide, .inl (queued_of_none_sent ?_)⟩) ..
        have hrest : ∀ x ∈ rest, x.isSent = false := fun x hx =>
          NoticeRecord.isSent_eq_false.2 (hc.1.2.1 x (by rw [hr]; exact hx))
        simp only [hr, List.any_cons, Bool.or_eq_false_iff, List.any_eq_false]
        exact ⟨by simpa using hsent, fun x hx => by simp [hrest x hx]⟩
  · exact .refl s

/-- A resumption (R184): a pending claim is retried, or a first send that could be made is made. -/
theorem noticeMove_noticeResume : NoticeMove s s.noticeResume := by
  unfold noticeResume
  split
  · exact noticeMove_noticeRetry
  · exact noticeMove_noticeAttempt

theorem noticeResume_quiet : s.noticeResume.firstSendReady = false := by
  unfold noticeResume
  split
  · rename_i hp
    refine noticeMove_noticeRetry.quiet (firstSendReady_eq_false_iff.2 fun _ _ h => ?_)
    rw [hp] at h
    cases h
  · exact noticeAttempt_quiet

/-! ## Raising (R175) -/

theorem noticeMove_withNotices {q : NoticeQueue} (hcore : s.notices.Core → q.Core) (ht : q.timer = s.notices.timer)
    (hq : s.firstSendReady = false → (s.withNotices q).firstSendReady = false) : NoticeMove s (s.withNotices q) :=
  ⟨rfl, hcore, fun _ ha => ⟨fun e he => ha.1 e (ht ▸ he), fun e he => ha.2 e (ht ▸ he)⟩, hq⟩

theorem noticeMove_coalesce (n : Notice) :
    NoticeMove s (s.withNotices { s.notices with records := coalesce n s.notices.records }) := by
  have hhead : ∀ {a : Nat}, s.notices.headSent a →
      NoticeQueue.headSent { s.notices with records := coalesce n s.notices.records } a := by
    rintro a ⟨m, q, k, l, rest, he, hk⟩
    exact ⟨m, q, k, l, coalesce n rest, by rw [he]; exact coalesce_head (r := ⟨m, .sent q k l⟩) rfl, hk⟩
  refine noticeMove_withNotices (fun hc => ?_) rfl fun h => ?_
  · obtain ⟨hrec, hlost, hstopped, hrun⟩ := hc
    refine ⟨hrec.coalesce, hlost, fun ht => ⟨fun hp => ?_, fun hp => ?_⟩, fun ht => ⟨hhead (hrun ht).1, (hrun ht).2⟩⟩
    · exact (forall_queued_congr (coalesce_states _)).2 ((hstopped ht).1 hp)
    · obtain ⟨hne, hcase⟩ := (hstopped ht).2 hp
      exact ⟨coalesce_ne_nil.2 hne, hcase.imp (forall_queued_congr (coalesce_states _)).2 hhead⟩
  · rw [firstSendReady_eq_false_iff] at h ⊢
    intro ho hne hp
    rw [withNotices_notices, coalesce_any_isSent]
    exact h ho (coalesce_ne_nil.1 hne) hp

theorem noticeMove_loseNotice : NoticeMove s s.loseNotice :=
  noticeMove_withNotices (fun ⟨hrec, _, hrest⟩ => ⟨hrec, Nat.min_le_left .., hrest⟩) rfl id

/-- Appending keeps the queue in order but for the first send, which may now be one to make. -/
theorem append_core {n : Notice} (hc : s.notices.Core) (hlen : s.notices.records.length < 16)
    (hnone : s.notices.records.any (NoticeRecord.coalesces n) = false) :
    NoticeQueue.Core { s.notices with records := s.notices.records ++ [{ notice := n, state := .queued }] } := by
  have hhead : ∀ {a : Nat}, s.notices.headSent a →
      NoticeQueue.headSent { s.notices with records := s.notices.records ++ [{ notice := n, state := .queued }] } a := by
    rintro a ⟨m, q, k, l, rest, he, hk⟩
    exact ⟨m, q, k, l, rest ++ [{ notice := n, state := .queued }], by rw [he]; rfl, hk⟩
  have hqueued : (∀ r ∈ s.notices.records, r.state = .queued) →
      ∀ r ∈ s.notices.records ++ [{ notice := n, state := .queued }], r.state = .queued := by
    intro h r hr
    rcases List.mem_append.1 hr with hr | hr
    · exact h r hr
    · rw [List.mem_singleton.1 hr]
  obtain ⟨hrec, hlost, hstopped, hrun⟩ := hc
  refine ⟨hrec.append hlen fun r hr => by simpa using List.any_eq_false.1 hnone r hr, hlost,
    fun ht => ⟨fun hp => hqueued ((hstopped ht).1 hp), fun hp => ⟨by simp, ?_⟩⟩,
    fun ht => ⟨hhead (hrun ht).1, (hrun ht).2⟩⟩
  exact ((hstopped ht).2 hp).2.imp hqueued hhead

theorem noticeMove_raiseNotice (n : Notice) : NoticeMove s (s.raiseNotice n) := by
  unfold raiseNotice
  split
  · exact noticeMove_coalesce n
  · rename_i hnone
    split
    · exact noticeMove_loseNotice
    · rename_i hlen
      have hlen : s.notices.records.length < 16 := by simpa [Config.noticeSize] using hlen
      have hattempt := noticeMove_noticeAttempt (s := s.withNotices
        { s.notices with records := s.notices.records ++ [{ notice := n, state := .queued }] })
      exact ⟨hattempt.opened, fun hc => hattempt.core (append_core hc hlen (by simpa using hnone)),
        fun hc ha => hattempt.agrees (append_core hc hlen (by simpa using hnone)) ha, fun _ => noticeAttempt_quiet⟩

/-! ## The timer, giving up and acknowledging (R180 to R182, R186) -/

/-- The timer is held or resumed as the link and the notice tag ask, whatever they asked before. -/
theorem syncTimer_core (hc : s.notices.Core) : s.syncTimer.notices.Core := by
  obtain ⟨hrec, hlost, hstopped, hrun⟩ := hc
  unfold syncTimer
  split
  · exact ⟨hrec, hlost, hstopped, hrun⟩
  · rename_i e he
    split
    · exact ⟨hrec, hlost, hstopped, hrun⟩
    · exact ⟨hrec, hlost, nofun, fun _ => hrun (by rw [he]; exact nofun)⟩
  · rename_i e he
    split
    · exact ⟨hrec, hlost, nofun, fun _ => hrun (by rw [he]; exact nofun)⟩
    · exact ⟨hrec, hlost, hstopped, hrun⟩

theorem syncTimer_agrees : s.syncTimer.TimerAgrees := by
  unfold syncTimer
  split
  · rename_i h
    exact ⟨fun e he => absurd (h.symm.trans he) nofun, fun e he => absurd (h.symm.trans he) nofun⟩
  · rename_i e he
    split
    · rename_i ho
      exact ⟨fun _ _ => ho, fun _ h => absurd (he.symm.trans h) nofun⟩
    · rename_i ho
      exact ⟨nofun, fun _ _ => Bool.eq_false_of_not_eq_true ho⟩
  · rename_i e he
    split
    · rename_i ho
      exact ⟨fun _ _ => ho, nofun⟩
    · rename_i ho
      exact ⟨fun _ h => absurd (he.symm.trans h) nofun, fun _ _ => by simpa using ho⟩

/-- Holding or resuming the timer changes no record and no claim. -/
theorem syncTimer_records :
    s.syncTimer.notices.records = s.notices.records ∧ s.syncTimer.notices.pending = s.notices.pending := by
  unfold syncTimer
  split
  · exact ⟨rfl, rfl⟩
  · split <;> exact ⟨rfl, rfl⟩
  · split <;> exact ⟨rfl, rfl⟩

theorem syncTimer_ready : s.syncTimer.firstSendReady = s.firstSendReady := by
  obtain ⟨hrec, hp⟩ := syncTimer_records (s := s)
  have ho : s.syncTimer.noticesOpen = s.noticesOpen :=
    noticesOpen_congr (by rw [lawful_syncTimer.frame.line (by decide)]) (by rw [lawful_syncTimer.frame.part (by decide)])
  unfold firstSendReady
  rw [hrec, hp, ho]

/-- With the oldest record gone every record is QUEUED and the timer is stopped. -/
theorem dropOldest_core (hc : s.notices.Core) : s.dropOldest.notices.Core :=
  NoticeQueue.core_of_queued hc.1.tail hc.2.1 rfl rfl hc.1.2.1

theorem agrees_of_stopped (h : s.notices.timer = .stopped) : s.TimerAgrees :=
  ⟨fun _ he => absurd (h.symm.trans he) nofun, fun _ he => absurd (h.symm.trans he) nofun⟩

theorem noticeMove_resendExpiry : NoticeMove s s.resendExpiry := by
  unfold resendExpiry
  split
  · rename_i e n q k l rest ht hr
    split
    · rename_i hk
      simp only [Config.noticeSends] at hk
      refine noticeMove_resend (fun _ ha => ha.1 e ht) fun hc => ?_
      obtain ⟨n', q', k', l', rest', he, h1, -⟩ := (hc.2.2.2 (by rw [ht]; exact nofun)).1
      rw [hr] at he
      cases he
      exact ⟨n, q, k, l, rest, hr, h1, by omega⟩
    · have hattempt := noticeMove_noticeAttempt (s := s.dropOldest.loseNotice)
      have hcore : s.notices.Core → s.dropOldest.loseNotice.notices.Core := fun hc =>
        noticeMove_loseNotice.core (dropOldest_core hc)
      exact ⟨hattempt.opened, fun hc => hattempt.core (hcore hc),
        fun hc _ => hattempt.agrees (hcore hc) (agrees_of_stopped rfl), fun _ => noticeAttempt_quiet⟩
  · exact .refl s

theorem acknowledge_core (lost : Byte) (hc : s.notices.Core) : (s.acknowledge lost).notices.Core := by
  have hdrop := dropOldest_core hc
  unfold acknowledge
  split
  · exact hdrop
  · exact ⟨hdrop.1, Nat.zero_le _, hdrop.2.2⟩

theorem acknowledge_timer (lost : Byte) : (s.acknowledge lost).notices.timer = .stopped := by
  unfold acknowledge
  split <;> rfl

theorem restartNotices_core (hc : s.notices.Core) : s.restartNotices.notices.Core := by
  have hq : ∀ r ∈ s.restartNotices.notices.records, r.state = .queued := fun r hr => by
    rw [List.mem_singleton.1 hr]
  exact NoticeQueue.core_of_queued ⟨Nat.le_add_left 1 15, nofun, List.pairwise_singleton ..⟩ hc.2.1 rfl rfl hq

end State

end Sys2Proof.Machine
end

section
/-! PROOFS. The order of the notice queue through the agent, the receiver, the line and the timers, and so through every step. -/

namespace Sys2Proof.Machine

/-- The verdicts after which the notice queue acts again (R177, R184). -/
def Verdict.wakes : Verdict → Bool
  | .fresh _ (.done (.acknowledge _)) => true
  | .fresh _ (.done .restart) => true
  | .fresh _ (.done (.write _ (.parts _))) => true
  | _ => false

namespace State

variable {s t : State}

/-! ## Flushes and the soft restart -/

theorem noticeMove_flushFrames (c : Cause) (retry : Bool) (l : List Nat) : NoticeMove s (s.flushFrames c retry l) := by
  induction l generalizing s with
  | nil => exact .refl s
  | cons h l ih =>
    have hdiscard : NoticeMove s (s.discardQuiet c h) := .of_frame (lawful_discardQuiet c h) (by decide)
    unfold flushFrames
    dsimp only
    split
    · exact (hdiscard.trans noticeMove_noticeRetry).trans ih
    · exact hdiscard.trans ih

theorem noticeMove_setPort (p : Port) (v : PortState) : NoticeMove s (s.setPort p v) := .of_eq rfl rfl

theorem noticeMove_resetPort (p : Port) (retry : Bool) : NoticeMove s (s.resetPort p retry) := by
  have hin : NoticeMove s (s.flushIngress p retry) := by
    unfold flushIngress
    dsimp only
    split
    · exact .refl s
    · exact (noticeMove_setPort p _).trans (.of_frame (lawful_countDiscard _ _) (by decide))
    · exact (noticeMove_setPort p _).trans (noticeMove_flushFrames _ _ _)
    · exact noticeMove_setPort p _
  have hout : ∀ u : State, NoticeMove u (u.flushEgress p retry) := fun u => by
    unfold flushEgress
    split
    · exact .refl u
    · refine NoticeMove.trans ?_ (noticeMove_flushFrames _ _ _)
      exact (noticeMove_setPort p _).trans (.of_frame (lawful_sendTrib p _) (by decide))
  exact hin.trans (hout _)

theorem noticeMove_writeEnabled (p : Port) (on : Bool) : NoticeMove s (s.writeEnabled p on) := by
  unfold writeEnabled
  dsimp only
  split
  · exact (noticeMove_setPort p _).trans (noticeMove_flushFrames _ _ _)
  · exact noticeMove_setPort p _

theorem noticeMove_foldl {α : Type} {f : State → α → State} (hf : ∀ s a, NoticeMove s (f s a)) (l : List α) (s : State) :
    NoticeMove s (l.foldl f s) := by
  induction l generalizing s with
  | nil => exact .refl s
  | cons a l ih => exact (hf s a).trans (ih (f s a))

theorem restartAgent_noticesOpen : s.restartAgent.noticesOpen = s.noticesOpen := by
  have hflush : Lawful [.buf, .agent, .tallies] s (s.cutAgent.flushFrames .flush false (s.agent.inbox.drop 1)) :=
    lawful_cutAgent.seq (lawful_flushFrames_quiet _ _) (by decide)
  refine noticesOpen_congr (by rw [lawful_restartAgent.frame.line (by decide)]) ?_
  show (s.cutAgent.flushFrames .flush false (s.agent.inbox.drop 1)).part.noticeTag = s.part.noticeTag
  rw [hflush.frame.part (by decide)]

/-- A soft restart leaves the queue in order, its ANNOUNCE waiting to be sent (R186). -/
theorem softRestart_core (hc : s.notices.Core) : s.softRestart.notices.Core := by
  refine restartNotices_core (NoticeMove.core (s := s) ?_ hc)
  refine NoticeMove.trans ?_ (.of_frame lawful_restartMetering (by decide))
  refine NoticeMove.trans ?_ (.of_eq (lawful_restartAgent.frame.notices (by decide)) restartAgent_noticesOpen)
  refine NoticeMove.trans ?_ (.of_frame lawful_restartReceiver (by decide))
  refine NoticeMove.trans ?_ (.of_frame lawful_restartTransmitter (by decide))
  exact noticeMove_foldl (fun _ p => noticeMove_resetPort p false) allPorts s

/-! ## WRITE_PART (R164, R184) -/

/-- Between the writing of a notice tag and what the notice queue does after the reply: the queue is in order but for the
first send, and its records, its claim and the link are those of before. -/
structure TagWritten (s t : State) : Prop where
  core : t.notices.Core
  agrees : t.TimerAgrees
  records : t.notices.records = s.notices.records
  pending : t.notices.pending = s.notices.pending
  link : t.line.link = s.line.link

theorem tagWritten_writePart (h : TagWritten s t) (period : BitVec 16) (tag : Tag) :
    TagWritten s (t.writePart period tag) := by
  obtain ⟨hrec, hp⟩ := syncTimer_records (s := (t.withPart { t.part with epochPeriod := period, noticeTag := tag }).withMetering
    { t.metering with epochElapsed := 0 })
  exact ⟨syncTimer_core h.core, syncTimer_agrees, hrec.trans h.records, hp.trans h.pending,
    (congrArg TrunkLine.link ((lawful_writePart period tag).frame.line (by decide))).trans h.link⟩

theorem tagWritten_writeParts (h : TagWritten s t) (l : List (BitVec 16 × Tag)) (i : Nat) :
    TagWritten s (writeFrom (fun s _ v => s.writePart v.1 v.2) t i l) := by
  induction l generalizing t i with
  | nil => exact h
  | cons v l ih => exact ih (tagWritten_writePart h v.1 v.2) (i + 1)

/-- A first send that waits after a WRITE_PART was let by the change of the tag from 0 to another value. -/
theorem TagWritten.ready (h : TagWritten s t) (hs : s.firstSendReady = false) (hr : t.firstSendReady = true) :
    s.part.noticeTag = 0 ∧ t.part.noticeTag ≠ 0 := by
  simp only [firstSendReady, noticesOpen, h.records, h.pending, h.link] at hs hr
  by_cases h0 : s.part.noticeTag = 0
  · refine ⟨h0, fun ht => ?_⟩
    simp [ht] at hr
  · simp only [Bool.and_eq_true, decide_eq_true_eq] at hs hr
    simp_all

/-! ## Carrying out and answering (R151) -/

theorem noticeMove_writeFrom {α : Type} {f : State → Nat → α → State} (hf : ∀ s i a, NoticeMove s (f s i a)) (l : List α)
    (i : Nat) (s : State) : NoticeMove s (writeFrom f s i l) := by
  induction l generalizing s i with
  | nil => exact .refl s
  | cons a l ih => exact (hf s i a).trans (ih (i + 1) (f s i a))

theorem noticeMove_writeEntries (first : Nat) {w : Written} (hw : ∀ l, w ≠ .parts l) :
    NoticeMove s (s.writeEntries first w) := by
  cases w with
  | streams l => exact noticeMove_writeFrom (f := State.writeStreamEntry) (fun s i e => .of_eq rfl rfl) l first s
  | allots l => exact noticeMove_writeFrom (f := State.setRecord) (fun s i e => .of_eq rfl rfl) l first s
  | tallies l => exact noticeMove_writeFrom (f := State.setTally) (fun s i e => .of_eq rfl rfl) l first s
  | tiers l =>
    exact noticeMove_writeFrom (f := fun s i n => s.setQueue (Tier.ofIx (Fin.ofNat 4 i))
      { s.queue (Tier.ofIx (Fin.ofNat 4 i)) with limit := n }) (fun s i n => .of_eq rfl rfl) l first s
  | ports l => exact noticeMove_writeFrom (fun s i on => noticeMove_writeEnabled _ on) l first s
  | parts l => exact absurd rfl (hw l)
  | discards l =>
    exact noticeMove_writeFrom (f := fun s i v => s.setDiscardCount (Fin.ofNat 20 i) v) (fun s i v => .of_eq rfl rfl)
      l first s

theorem noticeMove_withAgent (v : Agent) : NoticeMove s (s.withAgent v) := .of_eq rfl rfl

theorem noticeMove_carryVerdict {v : Verdict} (hv : v.wakes = false) : NoticeMove s (s.carryVerdict v).1 := by
  unfold carryVerdict
  split
  · rename_i q e
    cases e with
    | select t base => exact noticeMove_withAgent _
    | release => exact noticeMove_withAgent _
    | read t first count => exact .refl s
    | write first w => exact noticeMove_writeEntries first fun l hl => by rw [hl] at hv; cases hv
    | append r n => exact .of_frame (lawful_appendRecord r n) (by decide)
    | acknowledge lost => cases hv
    | status => exact .refl s
    | restart => cases hv
    | portReset p => exact noticeMove_resetPort p true
  · exact .refl s
  · exact .refl s

theorem noticesAfterReply_of_not_wakes {v : Verdict} (hv : v.wakes = false) (before : Tag) :
    s.noticesAfterReply before v = s := by
  unfold noticesAfterReply
  split
  · cases hv
  · cases hv
  · cases hv
  · rfl

theorem noticeMove_joinQueue (q : Tier) (h : Nat) : NoticeMove s (s.joinQueue q h) :=
  .of_link (lawful_joinQueue q h) (linkMove_joinQueue q h) (by decide)

/-- The reply's own moves: the controller's record, the window's timer, the octets, and the T0 queue (R151 steps 2 to 4). -/
def replied (s : State) (v : Verdict) (c : Byte) (r : Nat) (octets : List Byte) : State :=
  (((s.recordAnswer v).touchWindow c).storeOctets r octets).joinQueue .t0 r

/-- An answer carries the verdict out, replies, lets the notice queue act, and releases the request (R151). -/
theorem answer_eq (h r : Nat) (body : List Byte) (v : Verdict) : ∃ octets,
    s.answer h r body v = (((s.carryVerdict v).1.replied v (octetAt body 4) r octets).noticesAfterReply s.part.noticeTag
      v).releaseRequest h := ⟨_, rfl⟩

theorem lawful_replied (v : Verdict) (c : Byte) (r : Nat) (l : List Byte) :
    Lawful [.buf, .queues, .tx, .line, .agent] s (s.replied v c r l) := by
  refine Lawful.seq (bs := [.buf, .agent]) ?_ (lawful_joinQueue .t0 r) (by decide)
  refine Lawful.seq (bs := [.agent]) ?_ (lawful_storeOctets r l) (by decide)
  exact (lawful_recordAnswer v).trans (lawful_touchWindow c)

theorem linkMove_replied (v : Verdict) (c : Byte) (r : Nat) (l : List Byte) : LinkMove s (s.replied v c r l) := by
  refine LinkMove.trans ?_ (linkMove_joinQueue .t0 r)
  refine LinkMove.trans ?_ (.of_frame (lawful_storeOctets r _) (by decide))
  exact (LinkMove.of_frame (lawful_recordAnswer v) (by decide)).trans (.of_frame (lawful_touchWindow c) (by decide))

theorem noticeMove_replied (v : Verdict) (c : Byte) (r : Nat) (l : List Byte) : NoticeMove s (s.replied v c r l) :=
  .of_link (lawful_replied v c r l) (linkMove_replied v c r l) (by decide)

theorem TagWritten.of_frame {u : State} {bs : List Block} (h : TagWritten s t) (hl : Lawful bs t u) (hm : LinkMove t u)
    (hb : Block.notices ∉ bs ∧ Block.part ∉ bs) : TagWritten s u := by
  have hmove := NoticeMove.of_link hl hm hb
  have hn := hl.frame.notices hb.1
  exact ⟨hmove.core h.core, hmove.agrees h.core h.agrees, by rw [hn, h.records], by rw [hn, h.pending],
    hm.link.trans h.link⟩

/-- The parts of the answer before the request's release, for each verdict after which the notice queue acts. -/
theorem noticesOk_afterReply {v : Verdict} {before : Tag} (hv : v.wakes = true) (hcore : t.notices.Core)
    (hag : t.TimerAgrees)
    (hready : t.firstSendReady = true → (∃ q i l, v = .fresh q (.done (.write i (.parts l)))) →
      before = 0 ∧ t.part.noticeTag ≠ 0) : NoticesOk (t.noticesAfterReply before v) := by
  rw [noticesOk_iff]
  unfold noticesAfterReply
  split
  · exact ⟨noticeMove_noticeAttempt.core hcore, noticeMove_noticeAttempt.agrees hcore hag, noticeAttempt_quiet⟩
  · exact ⟨noticeMove_noticeAttempt.core hcore, noticeMove_noticeAttempt.agrees hcore hag, noticeAttempt_quiet⟩
  · split
    · exact ⟨noticeMove_noticeResume.core hcore, noticeMove_noticeResume.agrees hcore hag, noticeResume_quiet⟩
    · rename_i q i l hn
      refine ⟨hcore, hag, ?_⟩
      by_contra hr
      exact hn (hready (by simpa using hr) ⟨q, i, l, rfl⟩)
  · rename_i h1 h2 h3
    exfalso
    unfold Verdict.wakes at hv
    split at hv
    · exact h1 _ _ rfl
    · exact h2 _ rfl
    · exact h3 _ _ _ rfl
    · cases hv

theorem answer_noticesOk (hs : NoticesOk s) (h r : Nat) (body : List Byte) (v : Verdict) :
    NoticesOk (s.answer h r body v) := by
  have hrelease : ∀ u : State, NoticeMove u (u.releaseRequest h) := fun u =>
    ((noticeMove_withAgent _).trans (.of_frame (lawful_freeHandle h) (by decide))).trans noticeMove_noticeRetry
  obtain ⟨octets, he⟩ := answer_eq (s := s) h r body v
  rw [he]
  refine (hrelease _).ok ?_
  have hmove : ∀ u : State, NoticeMove u (u.replied v (octetAt body 4) r octets) := fun u => noticeMove_replied ..
  obtain ⟨hcore, hag, hq⟩ := noticesOk_iff.1 hs
  cases hv : v.wakes with
  | false =>
    rw [noticesAfterReply_of_not_wakes hv]
    exact ((noticeMove_carryVerdict hv).trans (hmove _)).ok hs
  | true =>
    unfold Verdict.wakes at hv
    split at hv
    · rename_i q lost
      refine noticesOk_afterReply rfl ((hmove _).core (acknowledge_core lost hcore))
        ((hmove _).agrees (acknowledge_core lost hcore) (agrees_of_stopped (acknowledge_timer lost))) ?_
      rintro - ⟨_, _, _, he⟩
      cases he
    · refine noticesOk_afterReply rfl ((hmove _).core (softRestart_core hcore))
        ((hmove _).agrees (softRestart_core hcore) (agrees_of_stopped rfl)) ?_
      rintro - ⟨_, _, _, he⟩
      cases he
    · rename_i q i l
      have hw : TagWritten s (s.writeEntries i (.parts l)) := tagWritten_writeParts ⟨hcore, hag, rfl, rfl, rfl⟩ l i
      have hreplied := hw.of_frame
        (lawful_replied (.fresh q (.done (.write i (.parts l)))) (octetAt body 4) r octets) (linkMove_replied ..) (by decide)
      exact noticesOk_afterReply rfl hreplied.core hreplied.agrees fun hr _ => hreplied.ready hq hr
    · cases hv

theorem attempt_noticesOk (hs : NoticesOk s) : NoticesOk s.attempt := by
  unfold attempt
  split
  · exact hs
  · dsimp only
    split
    · exact (noticeMove_withAgent _).ok hs
    · rename_i hc
      exact answer_noticesOk ((NoticeMove.of_frame (lawful_claimCompound hc) (by decide)).ok hs) _ _ _ _

theorem releaseEvent_noticesOk (hs : NoticesOk s) : NoticesOk s.releaseEvent := by
  unfold releaseEvent
  split
  · dsimp only
    split
    · exact attempt_noticesOk hs
    · exact noticeMove_noticeRetry.ok (attempt_noticesOk hs)
  · exact noticeMove_noticeRetry.ok hs

theorem settle_noticesOk (hs : NoticesOk s) : NoticesOk s.settle := by
  have htaken : ∀ (n : Nat) (u : State), NoticesOk u → NoticesOk (u.releaseEventsTaken n) := by
    intro n
    induction n with
    | zero => exact fun _ h => h
    | succ n ih => exact fun u h => ih _ (releaseEvent_noticesOk h)
  exact htaken _ _ ((NoticeMove.of_frame (lawful_withReleaseEvents 0) (by decide)).ok hs)

theorem offerInbox_noticesOk (hs : NoticesOk s) (h : Nat) : NoticesOk (s.offerInbox h) := by
  have hjoin : NoticeMove s ((s.setHolder h .inbox).withAgent { s.agent with inbox := s.agent.inbox ++ [h] }) :=
    (NoticeMove.of_frame (lawful_setHolder h _) (by decide)).trans (noticeMove_withAgent _)
  unfold offerInbox
  split
  · exact (NoticeMove.of_frame (lawful_discard _ _) (by decide)).ok hs
  · dsimp only
    split
    · exact attempt_noticesOk (hjoin.ok hs)
    · exact hjoin.ok hs

theorem deliverRequest_noticesOk (hs : NoticesOk s) (q : Tier) (body : List Byte) : NoticesOk (s.deliverRequest q body) := by
  unfold deliverRequest
  split
  · exact (NoticeMove.of_frame (lawful_countDiscard _ _) (by decide)).ok hs
  · split
    · exact (NoticeMove.of_frame (lawful_countDiscard _ _) (by decide)).ok hs
    · rename_i h s1 hc
      have hstore := NoticeMove.of_frame ((lawful_claimHandle hc).trans (lawful_appendOctets true h body)) (by decide)
      split
      · rename_i s2 hs2
        rw [hs2] at hstore
        exact (hstore.trans (.of_frame (lawful_discard _ _) (by decide))).ok hs
      · rename_i s2 hs2
        rw [hs2] at hstore
        exact offerInbox_noticesOk (hstore.ok hs) h

/-! ## The receiver -/

theorem noticeMove_contexts (h : Lawful contextBlocks s t) : NoticeMove s t := .of_frame h (by decide)

theorem noticeMove_nestingCheck (q : Tier) : NoticeMove s (s.nestingCheck q) := by
  have hfold := noticeMove_contexts
    (lawful_foldl (f := fun s u => s.abandon .sequence u) (fun _ u => lawful_abandon .sequence u) (moreUrgentThan q) s)
  unfold nestingCheck
  dsimp only
  split
  · exact hfold.trans (noticeMove_raiseNotice _)
  · exact hfold

theorem noticeMove_reopenCheck (q : Tier) : NoticeMove s (s.reopenCheck q) := by
  have habandon := noticeMove_contexts (s := s) (lawful_abandon .sequence q)
  unfold reopenCheck
  dsimp only
  split
  · exact habandon.trans (noticeMove_raiseNotice _)
  · exact habandon

theorem noticeMove_receiveOpenFirst (q : Tier) : NoticeMove s (s.receiveOpenFirst q) := by
  refine NoticeMove.trans ?_ (.of_frame (lawful_openContext q) (by decide))
  refine NoticeMove.trans ?_ (noticeMove_reopenCheck q)
  exact (noticeMove_contexts lawful_slip).trans (noticeMove_nestingCheck q)

theorem noticeMove_indexCheck (q : Tier) (i : FragIx) : NoticeMove s (s.indexCheck q i) := by
  unfold indexCheck
  split
  · split
    · exact .refl s
    · refine NoticeMove.trans (noticeMove_contexts ?_) (noticeMove_raiseNotice _)
      split
      · exact (lawful_giveUp q .sequence).seq (lawful_setContext q _) (by decide)
      · exact lawful_giveUp q .sequence
  · exact .of_frame (lawful_setContext q _) (by decide)
  · exact .refl s

theorem noticeMove_receiveOpenNext (q : Tier) (i : FragIx) : NoticeMove s (s.receiveOpenNext q i) := by
  unfold receiveOpenNext
  dsimp only
  split
  · refine NoticeMove.trans ?_ (.of_frame (lawful_openFragment q .next .ignored) (by decide))
    exact (noticeMove_contexts lawful_slip).trans (noticeMove_raiseNotice _)
  · refine NoticeMove.trans ?_ (.of_frame (lawful_openFragment q .next _) (by decide))
    refine NoticeMove.trans ?_ (noticeMove_indexCheck q i)
    exact (noticeMove_contexts lawful_slip).trans (noticeMove_nestingCheck q)

theorem completeFrame_noticesOk (hs : NoticesOk s) (a : Assembly) (check : List Byte) :
    NoticesOk (s.completeFrame a check) := by
  unfold completeFrame
  split
  · exact (NoticeMove.of_frame (lawful_countDiscard _ _) (by decide)).ok hs
  · split
    · split
      · exact offerInbox_noticesOk hs _
      · exact (NoticeMove.of_frame (lawful_routeStream _ _) (by decide)).ok hs
    · exact (NoticeMove.of_frame (lawful_discard _ _) (by decide)).ok hs

theorem receiveCloseLast_noticesOk (hs : NoticesOk s) : NoticesOk s.receiveCloseLast := by
  unfold receiveCloseLast
  split
  · exact hs
  · rename_i f _
    split
    · exact (NoticeMove.of_frame lawful_clearFragment (by decide)).ok hs
    · dsimp only
      have hcheck : NoticesOk
          (if f.mode = .storing ∧ f.checks 6 = false then s.giveUp f.tier .fragmentCheck else s) := by
        split
        · exact (noticeMove_contexts (lawful_giveUp _ _)).ok hs
        · exact hs
      revert hcheck
      generalize (if f.mode = .storing ∧ f.checks 6 = false then s.giveUp f.tier .fragmentCheck else s) = s1
      intro hcheck
      have hclose : NoticesOk ((s1.setContext f.tier .closed).setFragment none) :=
        ((NoticeMove.of_frame (lawful_setContext f.tier .closed) (by decide)).trans
          (.of_frame lawful_clearFragment (by decide))).ok hcheck
      split
      · exact completeFrame_noticesOk hclose _ _
      · exact hclose

/-! ## The trunk line -/

/-- With the link not UP nothing is sent, and nothing waits to be. -/
theorem quiet_of_not_up (hl : s.line.link ≠ .up) : s.firstSendReady = false := by
  rw [firstSendReady_eq_false_iff]
  intro ho
  simp [noticesOpen, hl] at ho

theorem leaveUp_noticesOk (hs : NoticesOk s) : NoticesOk s.leaveUp := by
  obtain ⟨hcore, -, -⟩ := noticesOk_iff.1 hs
  obtain ⟨u, v, he, ⟨hdown, -, -⟩, -, -, hn⟩ := leaveUp_eq s
  rw [he]
  refine (NoticeMove.of_link lawful_trunkIdle linkMove_trunkIdle (by decide)).ok (noticesOk_iff.2 ⟨?_, ?_, ?_⟩)
  · exact syncTimer_core (s := u.withLine v) (hn ▸ hcore)
  · exact syncTimer_agrees
  · rw [syncTimer_ready]
    exact quiet_of_not_up (by rw [withLine_line, hdown]; decide)

theorem reachUp_noticesOk (hs : NoticesOk s) : NoticesOk s.reachUp := by
  obtain ⟨hcore, -, -⟩ := noticesOk_iff.1 hs
  have hresume : ∀ u : State, u.notices.Core → NoticesOk u.syncTimer.noticeResume := fun u hu =>
    noticesOk_iff.2 ⟨noticeMove_noticeResume.core (syncTimer_core hu),
      noticeMove_noticeResume.agrees (syncTimer_core hu) syncTimer_agrees, noticeResume_quiet⟩
  refine hresume _ ?_
  dsimp only
  split
  · exact (noticeMove_raiseNotice _).core hcore
  · exact hcore

/-- A change of the line that keeps the link out of UP, or in it. -/
theorem noticeMove_withLine {v : TrunkLine} (hv : v.link = .up ↔ s.line.link = .up) : NoticeMove s (s.withLine v) :=
  .of_eq rfl (by rw [noticesOpen, noticesOpen, withLine_line, withLine_part, decide_eq_decide.2 hv])

theorem alignFrom_noticesOk (hs : NoticesOk s) (hl : s.line.link ≠ .up) : NoticesOk s.alignFrom := by
  have hmove : NoticeMove s s.alignFrom := noticeMove_withLine ⟨nofun, fun h => absurd h hl⟩
  exact hmove.ok hs

theorem trunkSymbol_noticesOk {f : State → State} (hf : ∀ u : State, NoticesOk u → NoticesOk (f u)) (hs : NoticesOk s) :
    NoticesOk (s.trunkSymbol f) := by
  unfold trunkSymbol
  split
  · exact hs
  · split
    · rename_i hl; exact alignFrom_noticesOk hs (by rw [hl]; decide)
    · rename_i hl; exact alignFrom_noticesOk hs (by rw [hl]; decide)
    · exact settle_noticesOk (hf _ ((noticeMove_withLine Iff.rfl).ok hs))

theorem trunkIdleSymbol_noticesOk (hs : NoticesOk s) : NoticesOk s.trunkIdleSymbol := by
  unfold trunkIdleSymbol
  split
  · exact hs
  · split
    · rename_i hl; exact alignFrom_noticesOk hs (by rw [hl]; decide)
    · split
      · exact (noticeMove_withLine Iff.rfl).ok hs
      · exact reachUp_noticesOk hs
    · exact (noticeMove_withLine Iff.rfl).ok hs

theorem trunkInvalid_noticesOk (hs : NoticesOk s) : NoticesOk s.trunkInvalid := by
  unfold trunkInvalid
  split
  · exact hs
  · split
    · rename_i hl; exact alignFrom_noticesOk hs (by rw [hl]; decide)
    · rename_i hl; exact alignFrom_noticesOk hs (by rw [hl]; decide)
    · split
      · exact settle_noticesOk ((noticeMove_contexts lawful_slip).ok ((noticeMove_withLine Iff.rfl).ok hs))
      · exact settle_noticesOk (leaveUp_noticesOk hs)

theorem losAsserted_noticesOk (hs : NoticesOk s) : NoticesOk s.losAsserted := by
  have hlos : NoticesOk (s.withLine { s.line with los := true }) := (noticeMove_withLine Iff.rfl).ok hs
  unfold losAsserted
  dsimp only
  split
  · exact hlos
  · rename_i hl
    exact NoticeMove.ok (noticeMove_withLine ⟨nofun, fun h => absurd (hl.symm.trans h) nofun⟩) hlos
  · exact settle_noticesOk (leaveUp_noticesOk hlos)

theorem losDeasserted_noticesOk (hs : NoticesOk s) : NoticesOk s.losDeasserted := by
  have hlos : NoticesOk (s.withLine { s.line with los := false }) := (noticeMove_withLine Iff.rfl).ok hs
  unfold losDeasserted
  dsimp only
  split
  · rename_i hl
    exact alignFrom_noticesOk hlos fun h => absurd (hl.symm.trans h) nofun
  · exact hlos

/-! ## The tributaries, the transmitter and the timers -/

theorem noticeMove_charge (i : StreamIx) (len : Nat) : NoticeMove s (s.charge i len).2 := by
  unfold charge
  dsimp only
  split
  · exact .refl s
  · exact .refl s
  · split
    · exact .of_eq rfl rfl
    · split
      · split
        · split <;> exact .of_eq rfl rfl
        · exact .of_eq rfl rfl
      · rename_i c _ _ _ _ _
        have hset : NoticeMove s (s.setRuntime i.val (.exhausted c)) := .of_eq rfl rfl
        exact hset.trans (noticeMove_raiseNotice _)
  · exact .refl s

theorem noticeMove_handOver (h : Nat) (i : StreamIx) (len : Nat) : NoticeMove s (s.handOver h i len) := by
  have hcharge := noticeMove_charge (s := s) i len
  have hdiscard : ∀ (c : Cause) (u : State), NoticeMove u (u.discard c h) := fun c u =>
    .of_frame (lawful_discard c h) (by decide)
  unfold handOver
  dsimp only
  split
  · exact hcharge.trans (hdiscard _ _)
  · exact hcharge.trans (hdiscard _ _)
  · rename_i q _
    have hoffer := (hcharge.trans (.of_frame (lawful_fixTier h i q) (by decide))).trans
      (.of_link (lawful_offerQueue q h) (linkMove_offerQueue q h) (by decide))
    split
    · exact hoffer
    · exact hoffer.trans (hdiscard _ _)

theorem noticeMove_ingressEnd (p : Port) : NoticeMove s (s.ingressEnd p) := by
  unfold ingressEnd
  split
  · exact .refl s
  · exact (noticeMove_setPort p _).trans (.of_frame (lawful_countDiscard _ _) (by decide))
  · unfold ingressClose
    split
    · exact .refl s
    · dsimp only
      split
      · exact (noticeMove_setPort p _).trans (.of_frame (lawful_discard _ _) (by decide))
      · split
        · exact (noticeMove_setPort p _).trans (.of_frame (lawful_discard _ _) (by decide))
        · split
          · refine NoticeMove.trans ?_ (.of_frame (lawful_discard _ _) (by decide))
            exact (noticeMove_setPort p _).trans (.of_frame (lawful_modHandle _ _ fun _ => rfl) (by decide))
          · exact (noticeMove_setPort p _).trans (noticeMove_handOver _ _ _)
  · exact noticeMove_setPort p _

/-- A command that is a lawful move off the notice queue, the part table and the line, with its release events taken. -/
theorem settled_noticesOk {bs : List Block} (h : Lawful bs s t)
    (hb : Block.notices ∉ bs ∧ Block.part ∉ bs ∧ Block.line ∉ bs) (hs : NoticesOk s) : NoticesOk t.settle :=
  settle_noticesOk ((NoticeMove.of_frame h hb).ok hs)

theorem request_noticesOk (hs : NoticesOk s) (h : ReqHeader) (kind : Byte) (args : List Byte) :
    NoticesOk (s.request h kind args) := settle_noticesOk (deliverRequest_noticesOk hs _ _)

theorem noticeMove_blockSent : NoticeMove s s.blockSent := by
  refine .of_eq (lawful_blockSent.frame.notices (by decide)) (noticesOpen_congr ?_ ?_)
  · unfold blockSent
    split
    · split
      · rfl
      · split <;> rfl
    · rfl
  · rw [lawful_blockSent.frame.part (by decide)]

/-- The transmitter's own commands change at most what has been sent on the line. -/
theorem select_link : s.select.line.link = s.line.link := by
  unfold select
  have hopen : ∀ q, (s.openHead q).line.link = s.line.link := fun q => by
    unfold openHead
    split
    · rfl
    · split
      · rfl
      · simp [sendTrunk]
  have hresume : ∀ h rest, (s.resumeTop h rest).line.link = s.line.link := fun h rest => by
    unfold resumeTop
    split
    · rfl
    · simp [sendTrunk]
  split
  · exact hopen _
  · split
    · exact hopen _
    · exact hresume _ _
  · exact hresume _ _
  · exact linkMove_trunkIdle.link

theorem noticeMove_select : NoticeMove s s.select :=
  .of_eq (by simp) (noticesOpen_congr select_link (by simp))

theorem noticeMove_closeMoreSent : NoticeMove s s.closeMoreSent := by
  unfold closeMoreSent
  split
  · split
    · exact .refl s
    · split
      · refine NoticeMove.trans ?_ noticeMove_select
        exact .of_eq rfl rfl
      · exact .refl s
  · exact .refl s

theorem noticeMove_selectAfterClose : NoticeMove s s.selectAfterClose := by
  unfold selectAfterClose
  split
  · exact noticeMove_select
  · exact .refl s

theorem noticeMove_clearSent : NoticeMove s s.clearSent := by
  unfold clearSent
  split
  · have hsent : NoticeMove s (s.sendTrunk [.clear]) := .of_eq rfl rfl
    exact hsent.trans noticeMove_select
  · exact .refl s

theorem noticeMove_completeActive (h : s.completeActive = some t) : NoticeMove s t := by
  refine .of_eq ((lawful_completeActive h).frame.notices (by decide)) (noticesOpen_congr ?_ ?_)
  · unfold completeActive at h
    split at h
    · split at h
      · cases h
      · split at h
        · cases h; simp [sendTrunk]
        · cases h
    · cases h
  · rw [(lawful_completeActive h).frame.part (by decide)]

theorem noticeMove_tick : NoticeMove s s.tick := by
  have hticks : NoticeMove s s.tickEpoch.tickWindow :=
    (NoticeMove.of_frame lawful_tickEpoch (by decide)).trans (.of_frame lawful_tickWindow (by decide))
  have hresend : ∀ u : State, NoticeMove u u.tickResend := fun u => by
    unfold tickResend
    split
    · rename_i e he
      split
      · refine ⟨rfl, fun ⟨hrec, hlost, _, hrun⟩ => ⟨hrec, hlost, nofun, fun _ => hrun (by rw [he]; exact nofun)⟩,
          fun _ ha => ⟨fun _ _ => ha.1 e he, nofun⟩, id⟩
      · exact noticeMove_resendExpiry
    · exact .refl u
  exact hticks.trans (hresend _)

end State

/-- Every command but power-on reset keeps the notice queue in order. -/
theorem exec_noticesOk {x : Instr} (hx : ∀ straps los, x ≠ .powerOnReset straps los) {s t : State} (hs : NoticesOk s)
    (h : exec x s = .next t) : NoticesOk t := by
  cases x with
  | powerOnReset straps los => exact absurd rfl (hx straps los)
  | tributaryOpen p => cases h; exact State.settled_noticesOk (State.lawful_ingressOpen p) (by decide) hs
  | tributaryDataOctet p b => cases h; exact State.settled_noticesOk (State.lawful_ingressData p b) (by decide) hs
  | closeEnd p => cases h; exact State.settle_noticesOk ((State.noticeMove_ingressEnd p).ok hs)
  | closeAbort p => cases h; exact State.settled_noticesOk (State.lawful_ingressAbort p) (by decide) hs
  | tributaryInvalidSymbol p =>
    cases h; exact State.settled_noticesOk (State.lawful_endIngress p _ (.inr rfl)) (by decide) hs
  | tributaryIdle p => cases h; exact hs
  | egressCloseEndSent p => cases h; exact State.settled_noticesOk (State.lawful_egressSent p) (by decide) hs
  | trkLosAsserted => cases h; exact State.losAsserted_noticesOk hs
  | trkLosDeasserted => cases h; exact State.losDeasserted_noticesOk hs
  | trunkIdleReceived => cases h; exact State.trunkIdleSymbol_noticesOk hs
  | openFirst q => cases h; exact State.trunkSymbol_noticesOk (fun _ => (State.noticeMove_receiveOpenFirst q).ok) hs
  | openNext q i => cases h; exact State.trunkSymbol_noticesOk (fun _ => (State.noticeMove_receiveOpenNext q i).ok) hs
  | trunkDataOctet b =>
    cases h; exact State.trunkSymbol_noticesOk (fun _ => (State.noticeMove_contexts (State.lawful_receiveData b)).ok) hs
  | closeMore =>
    cases h; exact State.trunkSymbol_noticesOk (fun _ => (State.noticeMove_contexts State.lawful_receiveCloseMore).ok) hs
  | closeLast => cases h; exact State.trunkSymbol_noticesOk (fun _ => State.receiveCloseLast_noticesOk) hs
  | clearReceived =>
    cases h
    exact State.trunkSymbol_noticesOk (fun _ => (State.noticeMove_contexts (State.lawful_abandonAll .cleared)).ok) hs
  | trunkInvalidSymbol => cases h; exact State.trunkInvalid_noticesOk hs
  | blockSent => cases h; exact State.noticeMove_blockSent.ok hs
  | closeMoreSent => cases h; exact State.noticeMove_closeMoreSent.ok hs
  | closeLastSent =>
    simp only [exec, execCloseLastSent] at h
    split at h
    · cases h; exact hs
    · rename_i u hu
      cases h
      exact State.noticeMove_selectAfterClose.ok (State.settle_noticesOk ((State.noticeMove_completeActive hu).ok hs))
  | clearSent => cases h; exact State.noticeMove_clearSent.ok hs
  | epochExpiry => cases h; exact (NoticeMove.of_frame State.lawful_epochExpiry (by decide)).ok hs
  | windowIdleTimeout => cases h; exact (NoticeMove.of_frame State.lawful_windowExpiry (by decide)).ok hs
  | resendTimerExpiry => cases h; exact State.noticeMove_resendExpiry.ok hs
  | agentAttemptEvent =>
    cases h
    split
    · exact State.attempt_noticesOk hs
    · exact hs
  | agentRetry =>
    cases h
    split
    · exact State.attempt_noticesOk hs
    · exact hs
  | noticeClaimRetry => cases h; exact State.noticeMove_noticeRetry.ok hs
  | malformedRequest q b rest => cases h; exact State.settle_noticesOk (State.deliverRequest_noticesOk hs _ _)
  | _ => cases h; exact State.request_noticesOk hs ..

/-- Settles O16: each move of the notice queue keeps its records, its timer and its first sends in order. -/
theorem noticesStayInOrder : Obligations.NoticesStayInOrder := by
  intro s t hs h
  rcases hp : s.pending with _ | ⟨x, rest⟩
  · rw [step_of_pending_nil hp] at h
    cases h
    exact State.noticeMove_tick.ok hs
  · rw [step_of_pending hp] at h
    by_cases hx : ∃ straps los, x = .powerOnReset straps los
    · obtain ⟨straps, los, rfl⟩ := hx
      cases h
      exact State.powerOn_noticesOk straps los
    · exact exec_noticesOk (fun straps los he => hx ⟨straps, los, he⟩) (s := s.withPending rest) hs h

end Sys2Proof.Machine
end

section
/-! PROOFS. Every held handle in exactly one collection (R3): the collections as one list, the count of a handle in it, and
the accounts of a state in which some handles are between two collections. -/

namespace Sys2Proof.Machine

/-! ## What each block holds -/

/-- The handles a port holds. -/
def PortState.members (p : Port) (v : PortState) : List (Nat × Holder) :=
  (match v.ingress with
   | .receiving h _ => [(h, .ingress p)]
   | _ => []) ++ v.egress.map fun h => (h, .egress p)

/-- The handles the transmitter holds. -/
def Transmitter.members (v : Transmitter) : List (Nat × Holder) :=
  v.active.toList.map (fun h => (h, .trunkActive)) ++ v.stack.map fun h => (h, .trunkSuspended)

/-- The handle a context holds. -/
def Context.members (q : Tier) (c : Context) : List (Nat × Holder) :=
  match c with
  | .opened a => a.handle.toList.map fun h => (h, .reassembly q)
  | _ => []

@[simp] theorem Context.members_closed (q : Tier) : Context.closed.members q = [] := rfl
@[simp] theorem Context.members_discarding (q : Tier) (g : GivenUp) : (Context.discarding g).members q = [] := rfl
@[simp] theorem Context.members_opened (q : Tier) (a : Assembly) :
    (Context.opened a).members q = a.handle.toList.map fun h => (h, .reassembly q) := rfl

/-- A sum over a list changes by what changes at one place of it. -/
theorem count_flatMap_update {ι α : Type} [BEq α] {l : List ι} (hn : l.Nodup) {i : ι} (hi : i ∈ l) {f g : ι → List α}
    (hfg : ∀ j, j ≠ i → g j = f j) (a : α) :
    (l.flatMap g).count a + (f i).count a = (l.flatMap f).count a + (g i).count a := by
  induction l with
  | nil => cases hi
  | cons j l ih =>
    obtain ⟨hj, hl⟩ := List.nodup_cons.1 hn
    simp only [List.flatMap_cons, List.count_append]
    rcases List.mem_cons.1 hi with rfl | hi
    · have hrest : l.flatMap g = l.flatMap f :=
        List.flatMap_congr fun j hjl => hfg j fun e => hj (e ▸ hjl)
      rw [hrest]
      omega
    · rw [hfg j fun e => hj (e ▸ hi)]
      have := ih hl hi
      omega

namespace State

variable {s t u : State}

/-- How often a handle stands in the collection of a holder. -/
def memberCount (s : State) (a : Nat × Holder) : Nat := s.members.count a

theorem memberCount_eq (s : State) (a : Nat × Holder) : s.memberCount a =
    (allPorts.flatMap fun p => (s.port p).members p).count a +
    (Tier.all.flatMap fun q => (s.queue q).members.map fun h => (h, Holder.tierQueue q)).count a +
    s.tx.members.count a + (Tier.all.flatMap fun q => (s.context q).members q).count a +
    (s.agent.inbox.map fun h => (h, Holder.inbox)).count a := by
  simp only [memberCount, members, Transmitter.members, List.count_append]
  rw [add_assoc (_ + _) (List.count a (List.map _ s.tx.active.toList))]
  rfl

theorem memberCount_congr (hp : ∀ p, (t.port p).members p = (s.port p).members p)
    (hq : ∀ q, (t.queue q).members = (s.queue q).members) (hx : t.tx.members = s.tx.members)
    (hc : ∀ q, (t.context q).members q = (s.context q).members q) (ha : t.agent.inbox = s.agent.inbox) (a : Nat × Holder) :
    t.memberCount a = s.memberCount a := by
  simp only [memberCount_eq, hp, hq, hx, hc, ha]

theorem mem_allPorts (p : Port) : p ∈ allPorts := by revert p; decide

theorem mem_tiers (q : Tier) : q ∈ Tier.all := by cases q <;> decide

theorem memberCount_setPort (p : Port) (v : PortState) (a : Nat × Holder) :
    (s.setPort p v).memberCount a + ((s.port p).members p).count a = s.memberCount a + (v.members p).count a := by
  have h := count_flatMap_update (l := allPorts) (by decide) (mem_allPorts p)
    (f := fun q => (s.port q).members q) (g := fun q => ((s.setPort p v).port q).members q)
    (fun q hq => by rw [setPort_port_other _ _ hq]) a
  simp only [setPort_port_self] at h
  simp only [memberCount_eq]
  show _ + _ + _ + _ + _ + _ = _
  have hrest : (Tier.all.flatMap fun q => ((s.setPort p v).queue q).members.map fun h => (h, Holder.tierQueue q)) =
      Tier.all.flatMap fun q => (s.queue q).members.map fun h => (h, Holder.tierQueue q) := rfl
  have hctx : (Tier.all.flatMap fun q => ((s.setPort p v).context q).members q) =
      Tier.all.flatMap fun q => (s.context q).members q := rfl
  rw [hrest, hctx]
  simp only [setPort_tx, setPort_agent]
  omega

theorem memberCount_setMembers (q : Tier) (l : List Nat) (a : Nat × Holder) :
    (s.setMembers q l).memberCount a + ((s.queue q).members.map fun h => (h, Holder.tierQueue q)).count a =
      s.memberCount a + (l.map fun h => (h, Holder.tierQueue q)).count a := by
  have h := count_flatMap_update (l := Tier.all) (by decide) (mem_tiers q)
    (f := fun x => (s.queue x).members.map fun h => (h, Holder.tierQueue x))
    (g := fun x => ((s.setMembers q l).queue x).members.map fun h => (h, Holder.tierQueue x))
    (fun x hx => by rw [setMembers_queue_other _ _ hx]) a
  simp only [setMembers_queue_self] at h
  simp only [memberCount_eq]
  have hports : (allPorts.flatMap fun p => ((s.setMembers q l).port p).members p) =
      allPorts.flatMap fun p => (s.port p).members p := rfl
  have hctx : (Tier.all.flatMap fun x => ((s.setMembers q l).context x).members x) =
      Tier.all.flatMap fun x => (s.context x).members x := rfl
  rw [hports, hctx]
  simp only [setMembers_tx, setMembers_agent]
  omega

theorem memberCount_withTx (v : Transmitter) (a : Nat × Holder) :
    (s.withTx v).memberCount a + s.tx.members.count a = s.memberCount a + v.members.count a := by
  simp only [memberCount_eq]
  have hports : (allPorts.flatMap fun p => ((s.withTx v).port p).members p) =
      allPorts.flatMap fun p => (s.port p).members p := rfl
  have hq : (Tier.all.flatMap fun q => ((s.withTx v).queue q).members.map fun h => (h, Holder.tierQueue q)) =
      Tier.all.flatMap fun q => (s.queue q).members.map fun h => (h, Holder.tierQueue q) := rfl
  have hctx : (Tier.all.flatMap fun x => ((s.withTx v).context x).members x) =
      Tier.all.flatMap fun x => (s.context x).members x := rfl
  rw [hports, hq, hctx]
  simp only [withTx_tx, withTx_agent]
  omega

theorem memberCount_setContext (q : Tier) (c : Context) (a : Nat × Holder) :
    (s.setContext q c).memberCount a + ((s.context q).members q).count a =
      s.memberCount a + (c.members q).count a := by
  have h := count_flatMap_update (l := Tier.all) (by decide) (mem_tiers q)
    (f := fun x => (s.context x).members x) (g := fun x => ((s.setContext q c).context x).members x)
    (fun x hx => by rw [setContext_context_other _ _ hx]) a
  simp only [setContext_context_self] at h
  simp only [memberCount_eq]
  have hports : (allPorts.flatMap fun p => ((s.setContext q c).port p).members p) =
      allPorts.flatMap fun p => (s.port p).members p := rfl
  have hq : (Tier.all.flatMap fun x => ((s.setContext q c).queue x).members.map fun h => (h, Holder.tierQueue x)) =
      Tier.all.flatMap fun x => (s.queue x).members.map fun h => (h, Holder.tierQueue x) := rfl
  rw [hports, hq]
  simp only [setContext_tx, setContext_agent]
  omega

theorem memberCount_withAgent (v : Agent) (a : Nat × Holder) :
    (s.withAgent v).memberCount a + (s.agent.inbox.map fun h => (h, Holder.inbox)).count a =
      s.memberCount a + (v.inbox.map fun h => (h, Holder.inbox)).count a := by
  simp only [memberCount_eq]
  have hports : (allPorts.flatMap fun p => ((s.withAgent v).port p).members p) =
      allPorts.flatMap fun p => (s.port p).members p := rfl
  have hq : (Tier.all.flatMap fun q => ((s.withAgent v).queue q).members.map fun h => (h, Holder.tierQueue q)) =
      Tier.all.flatMap fun q => (s.queue q).members.map fun h => (h, Holder.tierQueue q) := rfl
  have hctx : (Tier.all.flatMap fun x => ((s.withAgent v).context x).members x) =
      Tier.all.flatMap fun x => (s.context x).members x := rfl
  rw [hports, hq, hctx]
  simp only [withAgent_tx, withAgent_agent]
  omega

/-- A move that leaves the collections. -/
theorem memberCount_of_frame {bs : List Block} (h : ChangesOnly bs s t)
    (hb : Block.ports ∉ bs ∧ Block.queues ∉ bs ∧ Block.tx ∉ bs ∧ Block.rx ∉ bs ∧ Block.agent ∉ bs) (a : Nat × Holder) :
    t.memberCount a = s.memberCount a :=
  memberCount_congr (fun p => by rw [port_of_ports (h.ports hb.1)]) (fun q => by rw [queue_of_queues (h.queues hb.2.1)])
    (by rw [h.tx hb.2.2.1]) (fun q => by rw [context_of_rx (h.rx hb.2.2.2.1)]) (by rw [h.agent hb.2.2.2.2]) a

/-! ## The holder of a handle -/

/-- The holder of a handle; absent while it is FREE. -/
def holderOf (s : State) (h : Nat) : Option Holder := (s.handle? h).map Handle.holder

theorem holderOf_of_handle? {h : Nat} {r : Handle} (hr : s.handle? h = some r) : s.holderOf h = some r.holder := by
  simp [holderOf, hr]

theorem handle?_of_holderOf {h : Nat} {k : Holder} (hk : s.holderOf h = some k) :
    ∃ r, s.handle? h = some r ∧ r.holder = k := by simpa [holderOf] using hk

theorem holderOf_eq_none {h : Nat} : s.holderOf h = none ↔ s.handle? h = none := by simp [holderOf]

theorem holderOf_congr {h : Nat} (he : t.handle? h = s.handle? h) : t.holderOf h = s.holderOf h := by
  rw [holderOf, holderOf, he]

theorem holderOf_setHandle_self (h : Nat) (r : Handle) : (s.setHandle h r).holderOf h = some r.holder := by
  simp [holderOf]

theorem holderOf_setHandle_other {h j : Nat} (r : Handle) (hj : j ≠ h) :
    (s.setHandle h r).holderOf j = s.holderOf j := holderOf_congr (setHandle_handle?_other s r hj)

theorem handle?_modHandle (h : Nat) (f : Handle → Handle) :
    (s.modHandle h f).handle? h = (s.handle? h).map f := by
  rcases hr : s.handle? h with _ | r
  · simp [modHandle, hr]
  · simp [modHandle_handle?_self _ _ hr]

theorem holderOf_modHandle_self (h : Nat) (f : Handle → Handle) :
    (s.modHandle h f).holderOf h = (s.handle? h).map fun r => (f r).holder := by
  simp [holderOf, handle?_modHandle, Function.comp_def]

/-- A change of a record that keeps its holder. -/
theorem holderOf_modHandle_keep {f : Handle → Handle} (hf : ∀ r, (f r).holder = r.holder) (h j : Nat) :
    (s.modHandle h f).holderOf j = s.holderOf j := by
  by_cases hj : j = h
  · subst hj
    rw [holderOf_modHandle_self, holderOf]
    exact congrArg (fun g => Option.map g (s.handle? j)) (funext hf)
  · exact holderOf_congr (modHandle_handle?_other s f hj)

/-- Once for the handles that stand in the collection their holder names, and once for each of `X`, the handles that are
between two collections. -/
def Accounted (X : List (Nat × Holder)) (s : State) : Prop :=
  ∀ h k, (if s.holderOf h = some k then 1 else 0) = s.memberCount (h, k) + X.count (h, k)

section Accounted

variable {X : List (Nat × Holder)} (hs : Accounted X s)

include hs

theorem Accounted.holderOf_of_mem {h : Nat} {k : Holder} (hm : (h, k) ∈ X) : s.holderOf h = some k := by
  have := hs h k
  have hpos := List.count_pos_iff.2 hm
  split at this
  · assumption
  · omega

theorem Accounted.holderOf_of_member {h : Nat} {k : Holder} (hm : (h, k) ∈ s.members) : s.holderOf h = some k := by
  have := hs h k
  have hpos : 0 < s.memberCount (h, k) := List.count_pos_iff.2 hm
  split at this
  · assumption
  · omega

/-- A handle changes its record, is freed or is granted outside every collection, and the rest stands. -/
theorem Accounted.rehold {Y : List (Nat × Holder)} {h : Nat} {o : Option Holder} (ho : t.holderOf h = o)
    (hX : X = (s.holderOf h).toList.map (fun k => (h, k)) ++ Y) (hother : ∀ j, j ≠ h → t.holderOf j = s.holderOf j)
    (hm : ∀ a, t.memberCount a = s.memberCount a) : Accounted (o.toList.map (fun k => (h, k)) ++ Y) t := by
  have hcount : ∀ (o : Option Holder) (j : Nat) (k : Holder), (o.toList.map fun k => (h, k)).count (j, k) =
      if j = h ∧ o = some k then 1 else 0 := by
    intro o j k
    rcases o with _ | c
    · simp
    · by_cases hj : j = h <;> by_cases hc : c = k <;> simp [hj, hc, Ne.symm]
  intro j k
  have hjk := hs j k
  rw [hX, List.count_append, hcount] at hjk
  rw [hm, List.count_append, hcount]
  by_cases hj : j = h
  · subst hj
    rw [ho]
    simp only [true_and] at hjk ⊢
    omega
  · rw [hother j hj]
    simp only [hj, false_and, if_false] at hjk ⊢
    exact hjk

/-- A handle in no collection takes another holder. -/
theorem Accounted.setHolder {Y : List (Nat × Holder)} {h : Nat} {k : Holder} (hX : X = (h, k) :: Y) (k' : Holder) :
    Accounted ((h, k') :: Y) (s.setHolder h k') := by
  have hk := hs.holderOf_of_mem (h := h) (k := k) (by rw [hX]; exact List.mem_cons_self)
  obtain ⟨r, hr, -⟩ := handle?_of_holderOf hk
  refine hs.rehold (o := some k') (h := h) (Y := Y) ?_ (by rw [hk]; exact hX)
    (fun j hj => holderOf_congr (modHandle_handle?_other s _ hj))
    (memberCount_of_frame (lawful_setHolder h k').frame (by decide))
  rw [State.setHolder, holderOf_modHandle_self, hr]
  rfl

/-- A handle in no collection is released. -/
theorem Accounted.freeHandle {Y : List (Nat × Holder)} {h : Nat} {k : Holder} (hX : X = (h, k) :: Y) :
    Accounted Y (s.freeHandle h) := by
  have hk := hs.holderOf_of_mem (h := h) (k := k) (by rw [hX]; exact List.mem_cons_self)
  exact hs.rehold (o := none) (h := h) (Y := Y) (by simp [holderOf]) (by rw [hk]; exact hX)
    (fun j hj => holderOf_congr (freeHandle_handle?_other s hj))
    (memberCount_of_frame (lawful_freeHandle h).frame (by decide))

/-- A granted handle is in no collection yet. -/
theorem Accounted.grant {h : Nat} (hfree : s.handle? h = none) {r : Handle} :
    Accounted ((h, r.holder) :: X) (s.setHandle h r) :=
  hs.rehold (o := some r.holder) (h := h) (Y := X) (holderOf_setHandle_self h r)
    (by rw [holderOf_eq_none.2 hfree]; rfl) (fun j hj => holderOf_setHandle_other r hj)
    (memberCount_of_frame (bs := [.buf]) (by simp [ChangesOnly]) (by decide))

/-- Handles leave a collection. -/
theorem Accounted.take {Y : List (Nat × Holder)} (hh : ∀ j, t.holderOf j = s.holderOf j)
    (hm : ∀ a, t.memberCount a + Y.count a = s.memberCount a) : Accounted (Y ++ X) t := by
  intro j k
  have hjk := hs j k
  have := hm (j, k)
  rw [hh, List.count_append]
  omega

/-- Handles join a collection. -/
theorem Accounted.put {Y Z : List (Nat × Holder)} (hX : X = Y ++ Z) (hh : ∀ j, t.holderOf j = s.holderOf j)
    (hm : ∀ a, t.memberCount a = s.memberCount a + Y.count a) : Accounted Z t := by
  intro j k
  have hjk := hs j k
  have := hm (j, k)
  rw [hX, List.count_append] at hjk
  rw [hh]
  omega

theorem Accounted.congr (hh : ∀ j, t.holderOf j = s.holderOf j) (hm : ∀ a, t.memberCount a = s.memberCount a) :
    Accounted X t := hs.put (Y := []) rfl hh fun a => by rw [hm a]; rfl

end Accounted

/-- Where the stores are in order, a handle is in its collection exactly when its holder names it (R3). -/
theorem holdersOk_iff (hs : StoresOk s) : HoldersOk s ↔ Accounted [] s := by
  constructor
  · rintro ⟨hnodup, hheld, hlisted⟩ h k
    simp only [List.count_nil, add_zero]
    have hn : s.members.Nodup := List.Nodup.of_map _ hnodup
    rw [memberCount, hn.count]
    refine if_congr ⟨fun hk => ?_, fun hm => ?_⟩ rfl rfl
    · obtain ⟨r, hr, rfl⟩ := handle?_of_holderOf hk
      exact hlisted _ (mem_of_handle? hr)
    · obtain ⟨r, hr, hk⟩ := hheld _ hm
      rw [holderOf_of_handle? hr, hk]
  · intro ha
    have hmem : ∀ m ∈ s.members, s.holderOf m.1 = some m.2 := fun m hm => ha.holderOf_of_member hm
    have hn : s.members.Nodup := List.nodup_iff_count_le_one.2 fun a => by
      have := ha a.1 a.2
      simp only [List.count_nil, add_zero] at this
      have : s.members.count a = _ := this.symm
      rw [this]
      split <;> decide
    refine ⟨hn.map_on fun a hx b hy he => ?_, fun m hm => handle?_of_holderOf (hmem m hm), fun e he => ?_⟩
    · have := (hmem a hx).symm.trans (he ▸ hmem b hy)
      exact Prod.ext he (Option.some.inj this)
    · have hfind : s.handle? e.1 = some e.2 := Table.find_of_mem hs.1 he
      have := ha e.1 e.2.holder
      rw [holderOf_of_handle? hfind, if_pos rfl] at this
      rw [List.count_nil, add_zero] at this
      have hpos : 0 < s.memberCount (e.1, e.2.holder) := by omega
      exact List.count_pos_iff.1 hpos

end State

end Sys2Proof.Machine
end

section
/-! PROOFS. Orderly moves: the moves that keep every handle in its one collection, the contexts in agreement with their handles,
the chains fit, and the trunk's frames in order.  A move takes the handles `Y` that are between two collections to `Y'`; the
handles `Z` it does not concern stay as they are. -/

namespace Sys2Proof.Machine

/-! ## The parts of an orderly state -/

/-- Outside SENDING the transmitter holds nothing (R83). -/
def State.Rested (s : State) : Prop :=
  s.tx.mode ≠ .sending → s.tx.active = none ∧ s.tx.fragment = none ∧ s.tx.stack = []

/-- The fragment record agrees with its context, and a context between fragments has had its header (R128). -/
def State.FragmentOk (s : State) : Prop :=
  (∀ f, s.rx.fragment = some f →
    match f.mode with
    | .storing => ∃ a, s.context f.tier = .opened a ∧
        (f.kind = .first → f.header.length < 4 → a.handle = none) ∧
        (f.kind = .first → 2 ≤ f.header.length → a.declared ≠ none) ∧
        ((f.kind = .next ∨ f.header.length = 4) →
          a.handle ≠ none ∧ a.declared ≠ none ∧ a.tag ≠ none)
    | .tracking => (s.context f.tier).isDiscarding = true
    | .ignored => s.context f.tier = .closed) ∧
  ∀ t a, s.context t = .opened a → (∀ f, s.rx.fragment = some f → f.tier ≠ t) →
    a.handle ≠ none ∧ a.declared ≠ none ∧ a.tag ≠ none

/-- What an OPEN context of tier `q` holds agrees with its handle (R126, R132). -/
def State.HoldsAssembly (s : State) (q : Tier) (a : Assembly) : Prop :=
  (∀ d, a.declared = some d → 8 ≤ d ∧ d ≤ 2048 ∧ a.received ≤ d) ∧ (a.handle = none → a.received = 0) ∧
  ∀ h r, a.handle = some h → s.handle? h = some r →
    r.holder = .reassembly q ∧ r.stream = none ∧ r.bodyLength = a.received ∧ a.tag = some r.tag

def State.ContextsOk (s : State) : Prop := ∀ q a, s.context q = .opened a → s.HoldsAssembly q a

theorem receiverOk_iff {s : State} : ReceiverOk s ↔ s.FragmentOk ∧ s.ContextsOk :=
  ⟨fun h => ⟨⟨h.1, h.2.1⟩, h.2.2⟩, fun h => ⟨h.1.1, h.1.2, h.2⟩⟩

/-- The stores and the contexts in order, the transmitter without a frame outside SENDING, and every held handle in one
place. -/
structure Orderly (X : List (Nat × Holder)) (s : State) : Prop where
  stores : StoresOk s
  rested : s.Rested
  rx : s.ContextsOk
  accounted : s.Accounted X

/-- A chain of the cells that the body needs (R6). -/
def Handle.Fits (r : Handle) : Prop := r.chain.length = cellsFor r.bodyLength

/-- Every chain fits but those of the frames being built (R15). -/
def State.FitsBuilt (s : State) : Prop := ∀ h r, s.handle? h = some r → r.holder ≠ .agentBuild → r.Fits

/-- A frame off the trunk is to be sent from its beginning (R5, R103). -/
def Handle.Ready (r : Handle) : Prop :=
  r.sentOffset ≤ r.bodyLength ∧ r.restartCount ≤ 2 ∧
  (r.holder ≠ .trunkActive → r.holder ≠ .trunkSuspended → r.sentOffset = 0 ∧ r.nextIndex = 0 ∧ r.resumeHold = false)

/-- The fragment record agrees with the active frame (R84, R93, R94). -/
def TxFragment.Agrees (f : TxFragment) (r : Handle) : Prop :=
  f.tier = r.tier ∧ f.index = r.nextIndex ∧ f.carried ≤ r.sentOffset ∧
  (f.kind = .first → f.index = 0 ∧ f.carried = r.sentOffset ∧ r.resumeHold = false) ∧
  (f.kind = .next → r.resumeHold = decide (f.carried < 128)) ∧
  (f.closing = .last → r.sentOffset = r.bodyLength) ∧
  (f.closing = .more → 64 ≤ f.carried ∧ 64 ≤ r.bodyLength - r.sentOffset ∧ r.tier ≠ .t0 ∧ r.whole = false ∧
    r.resumeHold = false)

/-- A suspended frame was cut as R95 allows. -/
def Handle.Cut (r : Handle) : Prop :=
  64 ≤ r.bodyLength - r.sentOffset ∧ r.tier ≠ .t0 ∧ r.whole = false ∧ r.resumeHold = false

/-- The transmitter in order, but for the modes that need a frame or none (R83 to R85, R91 to R95). -/
structure TxCore (s : State) : Prop where
  fragment : s.tx.fragment.isSome = s.tx.active.isSome
  rising : (s.tx.active.toList ++ s.tx.stack).Pairwise fun a b => (s.tierOf a).moreUrgent (s.tierOf b) = true
  current : ∀ h f r, s.tx.active = some h → s.tx.fragment = some f → s.handle? h = some r → f.Agrees r
  cut : ∀ h ∈ s.tx.stack, ∀ r, s.handle? h = some r → r.Cut
  queued : ∀ q, ∀ h ∈ (s.queue q).members, s.tierOf h = q
  ready : ∀ h r, s.handle? h = some r → r.Ready

/-- IDLE only with nothing to send (R91). -/
def State.IdleOk (s : State) : Prop := s.tx.mode = .idle → (∀ q, (s.queue q).members = []) ∧ s.tx.stack = []

/-- SENDING only with a frame (R83). -/
def State.BusyOk (s : State) : Prop := s.tx.mode = .sending → s.tx.active.isSome = true

theorem Table.handle?_of_mem {s : State} (hs : StoresOk s) {e : Nat × Handle} (he : e ∈ s.buf.handles) :
    s.handle? e.1 = some e.2 := Table.find_of_mem hs.1 he

/-- A transmitter in order is one with the parts above in order. -/
theorem transmitterOk_iff {s : State} (hs : StoresOk s) (hl : s.Rested) :
    TransmitterOk s ↔ TxCore s ∧ s.IdleOk ∧ s.BusyOk := by
  constructor
  · rintro ⟨h1, h2, h3, h4, h5, h6, h7, h8⟩
    exact ⟨⟨h2, h4, h5, h6, h7, fun h r hr => h8 _ (State.mem_of_handle? hr)⟩, h3, fun hm => by rw [h1, hm]; rfl⟩
  · rintro ⟨⟨h2, h4, h5, h6, h7, h8⟩, h3, hb⟩
    refine ⟨?_, h2, h3, h4, h5, h6, h7, fun e he => h8 _ _ (Table.handle?_of_mem hs he)⟩
    by_cases hm : s.tx.mode = .sending
    · rw [hb hm, hm]; rfl
    · rw [(hl hm).1, decide_eq_false hm]; rfl

/-- An orderly move from `s` to `t`: the handles `Y` between two collections become `Y'`. -/
structure Keeps (Y Y' : List (Nat × Holder)) (s t : State) : Prop where
  orderly : ∀ {Z}, Orderly (Y ++ Z) s → Orderly (Y' ++ Z) t
  aside : ∀ {Z}, Orderly (Y ++ Z) s → ∀ a ∈ Z, t.handle? a.1 = s.handle? a.1
  fits : ∀ {Z}, Orderly (Y ++ Z) s → s.FitsBuilt → t.FitsBuilt
  core : ∀ {Z}, Orderly (Y ++ Z) s → TxCore s → TxCore t
  idle : ∀ {Z}, Orderly (Y ++ Z) s → TxCore s → s.IdleOk → t.IdleOk
  busy : ∀ {Z}, Orderly (Y ++ Z) s → TxCore s → s.BusyOk → t.BusyOk
  fragment : ∀ {Z}, Orderly (Y ++ Z) s → s.FragmentOk → t.FragmentOk

namespace Keeps

variable {Y Y' Y'' : List (Nat × Holder)} {s t u : State}

theorem refl (Y : List (Nat × Holder)) (s : State) : Keeps Y Y s s :=
  ⟨id, fun _ _ _ => rfl, fun _ => id, fun _ => id, fun _ _ => id, fun _ _ => id, fun _ => id⟩

theorem trans (h : Keeps Y Y' s t) (g : Keeps Y' Y'' t u) : Keeps Y Y'' s u :=
  ⟨fun ho => g.orderly (h.orderly ho),
    fun ho a ha => (g.aside (h.orderly ho) a ha).trans (h.aside ho a ha),
    fun ho hf => g.fits (h.orderly ho) (h.fits ho hf), fun ho hc => g.core (h.orderly ho) (h.core ho hc),
    fun ho hc hi => g.idle (h.orderly ho) (h.core ho hc) (h.idle ho hc hi),
    fun ho hc hb => g.busy (h.orderly ho) (h.core ho hc) (h.busy ho hc hb),
    fun ho hf => g.fragment (h.orderly ho) (h.fragment ho hf)⟩

/-- A move concerns no handle beyond its own. -/
theorem frame (h : Keeps [] [] s t) (Y : List (Nat × Holder)) : Keeps Y Y s t := by
  refine ⟨fun ho => h.orderly (Z := Y ++ _) ho, fun ho a ha => h.aside (Z := Y ++ _) ho a (List.mem_append_right _ ha),
    fun ho => h.fits (Z := Y ++ _) ho, fun ho => h.core (Z := Y ++ _) ho, fun ho => h.idle (Z := Y ++ _) ho,
    fun ho => h.busy (Z := Y ++ _) ho, fun ho => h.fragment (Z := Y ++ _) ho⟩

theorem frame_append (h : Keeps Y Y' s t) (W : List (Nat × Holder)) : Keeps (Y ++ W) (Y' ++ W) s t := by
  refine ⟨fun ho => ?_, fun ho a ha => ?_, fun ho => ?_, fun ho => ?_, fun ho => ?_, fun ho => ?_, fun ho => ?_⟩
  all_goals rw [List.append_assoc] at ho
  · rw [List.append_assoc]; exact h.orderly ho
  · exact h.aside ho a (List.mem_append_right _ ha)
  · exact h.fits ho
  · exact h.core ho
  · exact h.idle ho
  · exact h.busy ho
  · exact h.fragment ho

/-- A property that every state of a move has may be used to show the move orderly. -/
theorem of_orderly (h : ∀ {Z}, Orderly (Y ++ Z) s → Keeps Y Y' s t) : Keeps Y Y' s t :=
  ⟨fun ho => (h ho).orderly ho, fun ho => (h ho).aside ho, fun ho => (h ho).fits ho, fun ho => (h ho).core ho,
    fun ho => (h ho).idle ho, fun ho => (h ho).busy ho, fun ho => (h ho).fragment ho⟩

end Keeps

namespace State

variable {s t u : State} {X Y Y' Z : List (Nat × Holder)}

/-! ## What each part reads -/

theorem tierOf_congr {h : Nat} (he : t.handle? h = s.handle? h) : t.tierOf h = s.tierOf h := by
  simp only [tierOf, he]

/-- The handles of a context. -/
theorem mem_members_context {q : Tier} {a : Assembly} {h : Nat} (hc : s.context q = .opened a) (ha : a.handle = some h) :
    (h, Holder.reassembly q) ∈ s.members := by
  simp only [members, List.mem_append, List.mem_flatMap]
  exact .inl (.inr ⟨q, mem_tiers q, by simp [hc, ha]⟩)

theorem mem_members_active {h : Nat} (ha : s.tx.active = some h) : (h, Holder.trunkActive) ∈ s.members := by
  simp [members, ha]

theorem mem_members_stack {h : Nat} (hm : h ∈ s.tx.stack) : (h, Holder.trunkSuspended) ∈ s.members := by
  simp [members, hm]

theorem mem_members_queue {q : Tier} {h : Nat} (hm : h ∈ (s.queue q).members) : (h, Holder.tierQueue q) ∈ s.members := by
  simp only [members, List.mem_append, List.mem_flatMap]
  exact .inl (.inl (.inl (.inl (.inr ⟨q, mem_tiers q, List.mem_map.2 ⟨h, hm, rfl⟩⟩))))

theorem mem_members_ingress {p : Port} {h : Nat} {l : List Byte} (hi : (s.port p).ingress = .receiving h l) :
    (h, Holder.ingress p) ∈ s.members := by
  simp only [members, List.mem_append, List.mem_flatMap]
  exact .inl (.inl (.inl (.inl (.inl ⟨p, mem_allPorts p, .inl (by simp [hi])⟩))))

theorem mem_members_egress {p : Port} {h : Nat} (hm : h ∈ (s.port p).egress) : (h, Holder.egress p) ∈ s.members := by
  simp only [members, List.mem_append, List.mem_flatMap]
  exact .inl (.inl (.inl (.inl (.inl ⟨p, mem_allPorts p, .inr (List.mem_map.2 ⟨h, hm, rfl⟩)⟩))))

theorem mem_members_inbox {h : Nat} (hm : h ∈ s.agent.inbox) : (h, Holder.inbox) ∈ s.members := by
  simp only [members, List.mem_append]
  exact .inr (List.mem_map.2 ⟨h, hm, rfl⟩)

/-- The contexts read themselves and the records of their handles. -/
theorem contextsOk_of (hs : s.ContextsOk) (hrx : t.rx = s.rx)
    (hk : ∀ q a h, s.context q = .opened a → a.handle = some h → t.handle? h = s.handle? h) : t.ContextsOk := by
  intro q a hc
  rw [context_of_rx hrx] at hc
  obtain ⟨hd, hn, hr⟩ := hs q a hc
  exact ⟨hd, hn, fun h r ha hh => hr h r ha (by rw [← hk q a h hc ha]; exact hh)⟩

theorem fragmentOk_of (hrx : t.rx = s.rx) (hs : s.FragmentOk) : t.FragmentOk := by
  unfold FragmentOk at hs ⊢
  simpa only [hrx, context_of_rx hrx] using hs

/-- A handle that stands in a collection of the trunk or of the receiver. -/
def OnTrunk (s : State) (h : Nat) : Prop :=
  h ∈ s.tx.active.toList ++ s.tx.stack ∨ ∃ q, h ∈ (s.queue q).members

/-- The transmitter's order reads the transmitter, the queues and the records of their handles. -/
theorem txCore_of (hs : TxCore s) (htx : t.tx = s.tx) (hq : ∀ q, (t.queue q).members = (s.queue q).members)
    (hk : ∀ h, s.OnTrunk h → t.handle? h = s.handle? h) (hready : ∀ h r, t.handle? h = some r → r.Ready) : TxCore t := by
  obtain ⟨h1, h2, h3, h4, h5, -⟩ := hs
  have hactive : ∀ h, s.tx.active = some h → t.handle? h = s.handle? h := fun h ha => hk h (.inl (by simp [ha]))
  have hstack : ∀ h ∈ s.tx.stack, t.handle? h = s.handle? h := fun h hm => hk h (.inl (List.mem_append_right _ hm))
  refine ⟨by rw [htx]; exact h1, ?_, fun h f r ha hf hr => ?_, fun h hm r hr => ?_, fun q h hm => ?_, hready⟩
  · rw [htx]
    refine h2.imp_of_mem fun {a b} ha hb hab => ?_
    rwa [tierOf_congr (hk a (.inl ha)), tierOf_congr (hk b (.inl hb))]
  · rw [htx] at ha hf
    rw [hactive h ha] at hr
    exact h3 h f r ha hf hr
  · rw [htx] at hm
    rw [hstack h hm] at hr
    exact h4 h hm r hr
  · rw [hq] at hm
    rw [tierOf_congr (hk h (.inr ⟨q, hm⟩))]
    exact h5 q h hm

theorem idleOk_of (htx : t.tx = s.tx) (hq : ∀ q, (t.queue q).members = (s.queue q).members) (hs : s.IdleOk) : t.IdleOk := by
  unfold IdleOk at hs ⊢
  simpa only [htx, hq] using hs

theorem rested_of (htx : t.tx = s.tx) (hs : s.Rested) : t.Rested := by
  unfold Rested at hs ⊢
  rwa [htx]

theorem busyOk_of (htx : t.tx = s.tx) (hs : s.BusyOk) : t.BusyOk := by
  unfold BusyOk at hs ⊢
  rwa [htx]

/-! ## Handles between two collections -/

/-- A handle between two collections is in none. -/
theorem Accounted.not_member (hs : s.Accounted X) {h : Nat} {k k' : Holder} (hX : (h, k) ∈ X) :
    (h, k') ∉ s.members := by
  intro hm
  have hk := hs.holderOf_of_mem hX
  have hk' := hs.holderOf_of_member hm
  obtain rfl := Option.some.inj (hk.symm.trans hk')
  have := hs h k
  have hpos : 0 < s.memberCount (h, k) := List.count_pos_iff.2 hm
  have hpos' := List.count_pos_iff.2 hX
  rw [if_pos hk] at this
  omega

/-- A handle stands between two collections once. -/
theorem Accounted.not_mem_of_cons {h : Nat} {k : Holder} (hs : s.Accounted ((h, k) :: X)) {k' : Holder} : (h, k') ∉ X := by
  intro hm
  have hk := hs.holderOf_of_mem (List.mem_cons_self (a := (h, k)) (l := X))
  have hk' := hs.holderOf_of_mem (List.mem_cons_of_mem _ hm)
  obtain rfl := Option.some.inj (hk.symm.trans hk')
  have := hs h k
  have hpos := List.count_pos_iff.2 hm
  rw [if_pos hk, List.count_cons_self] at this
  omega

/-- A handle in a collection is not one between two. -/
theorem Accounted.not_mem_of_member (hs : s.Accounted X) {h : Nat} {k k' : Holder} (hm : (h, k) ∈ s.members) :
    (h, k') ∉ X := fun hX => hs.not_member hX hm

/-- A FREE handle is nowhere. -/
theorem Accounted.not_mem_of_free (hs : s.Accounted X) {h : Nat} (hf : s.handle? h = none) (k : Holder) :
    (h, k) ∉ X ∧ (h, k) ∉ s.members := by
  refine ⟨fun hX => ?_, fun hm => ?_⟩
  · have := hs.holderOf_of_mem hX
    rw [holderOf_eq_none.2 hf] at this
    cases this
  · have := hs.holderOf_of_member hm
    rw [holderOf_eq_none.2 hf] at this
    cases this

/-- The handle of a move that is neither on the trunk, nor in a context, nor one that the move does not concern. -/
structure Own (Z : List (Nat × Holder)) (s : State) (h : Nat) : Prop where
  aside : ∀ k, (h, k) ∉ Z
  trunk : ¬ s.OnTrunk h
  context : ∀ q a, s.context q = .opened a → a.handle ≠ some h

theorem Own.of_not_member {h : Nat} (hz : ∀ k, (h, k) ∉ Z) (hm : ∀ k, (h, k) ∉ s.members) : Own Z s h := by
  refine ⟨hz, ?_, fun q a hc ha => hm _ (mem_members_context hc ha)⟩
  rintro (ht | ⟨q, hq⟩)
  · rcases List.mem_append.1 ht with ha | hst
    · exact hm _ (mem_members_active (by simpa using ha))
    · exact hm _ (mem_members_stack hst)
  · exact hm _ (mem_members_queue hq)

theorem Own.of_between {h : Nat} {k : Holder} (hs : s.Accounted ((h, k) :: X)) : Own X s h :=
  .of_not_member (fun _ => hs.not_mem_of_cons) fun _ => hs.not_member List.mem_cons_self

theorem Own.of_free {h : Nat} (hs : s.Accounted X) (hf : s.handle? h = none) : Own X s h :=
  .of_not_member (fun k => (hs.not_mem_of_free hf k).1) fun k => (hs.not_mem_of_free hf k).2

/-- A handle at a port or in the inbox. -/
theorem Own.of_member (hs : s.Accounted X) {h : Nat} {k : Holder} (hm : (h, k) ∈ s.members)
    (hk : (∃ p, k = .ingress p) ∨ (∃ p, k = .egress p) ∨ k = .inbox) : Own X s h := by
  have hhold := hs.holderOf_of_member hm
  have hne : ∀ k', (h, k') ∈ s.members → k' = k := fun k' hm' =>
    Option.some.inj ((hs.holderOf_of_member hm').symm.trans hhold)
  have hout : ∀ k', (h, k') ∈ s.members → (∃ p, k' = .ingress p) ∨ (∃ p, k' = .egress p) ∨ k' = .inbox :=
    fun k' hm' => hne k' hm' ▸ hk
  refine ⟨fun _ => hs.not_mem_of_member hm, ?_, fun q a hc ha => ?_⟩
  · rintro (ht | ⟨q, hq⟩)
    · rcases List.mem_append.1 ht with ha | hst
      · rcases hout _ (mem_members_active (by simpa using ha)) with ⟨_, e⟩ | ⟨_, e⟩ | e <;> cases e
      · rcases hout _ (mem_members_stack hst) with ⟨_, e⟩ | ⟨_, e⟩ | e <;> cases e
    · rcases hout _ (mem_members_queue hq) with ⟨_, e⟩ | ⟨_, e⟩ | e <;> cases e
  · rcases hout _ (mem_members_context hc ha) with ⟨_, e⟩ | ⟨_, e⟩ | e <;> cases e

/-! ## Moves on one handle, and moves on the collections off the trunk -/

/-- A move on the record of one handle of its own. -/
theorem keeps_touch {h : Nat} (hstores : StoresOk s → StoresOk t) (hrx : t.rx = s.rx)
    (htx : t.tx = s.tx) (hq : ∀ q, (t.queue q).members = (s.queue q).members)
    (hother : ∀ j, j ≠ h → t.handle? j = s.handle? j)
    (hown : ∀ {Z}, s.Accounted (Y ++ Z) → Own Z s h)
    (hacc : ∀ {Z}, s.Accounted (Y ++ Z) → t.Accounted (Y' ++ Z))
    (hfit : ∀ r', t.handle? h = some r' → r'.holder ≠ .agentBuild → s.FitsBuilt → r'.Fits)
    (hready : ∀ r', t.handle? h = some r' → (∀ r, s.handle? h = some r → r.Ready) → r'.Ready) : Keeps Y Y' s t := by
  refine ⟨fun ho => ?_, fun ho a ha => ?_, fun ho hf j r hr hk => ?_, fun ho hc => ?_, fun _ _ => idleOk_of htx hq,
    fun _ _ => busyOk_of htx, fun _ => fragmentOk_of hrx⟩
  · have hO := hown ho.accounted
    refine ⟨hstores ho.stores, rested_of htx ho.rested, contextsOk_of ho.rx hrx fun q a j hc ha => hother j ?_, hacc ho.accounted⟩
    rintro rfl
    exact hO.context q a hc ha
  · refine hother _ fun e => ?_
    exact (hown ho.accounted).aside a.2 (e ▸ ha)
  · by_cases hj : j = h
    · subst hj; exact hfit r hr hk hf
    · rw [hother j hj] at hr; exact hf j r hr hk
  · have hO := hown ho.accounted
    refine txCore_of hc htx hq (fun j hj => hother j ?_) fun j r hr => ?_
    · rintro rfl
      exact hO.trunk hj
    · by_cases hj : j = h
      · subst hj; exact hready r hr fun r' hr' => hc.ready j r' hr'
      · rw [hother j hj] at hr; exact hc.ready j r hr

/-- A move of handles between the ports or the inbox and no collection. -/
theorem keeps_regroup (hbuf : t.buf = s.buf) (hrx : t.rx = s.rx) (htx : t.tx = s.tx)
    (hq : ∀ q, (t.queue q).members = (s.queue q).members)
    (hcount : ∀ a, t.memberCount a + Y'.count a = s.memberCount a + Y.count a) : Keeps Y Y' s t := by
  have hh : ∀ j, t.handle? j = s.handle? j := handle?_of_buf hbuf
  refine ⟨fun ho => ⟨storesOk_of_buf ho.stores hbuf, rested_of htx ho.rested, contextsOk_of ho.rx hrx fun _ _ j _ _ => hh j,
    fun j k => ?_⟩, fun _ a _ => hh a.1, fun _ hf j r hr => hf j r (hh j ▸ hr), fun _ hc =>
    txCore_of hc htx hq (fun j _ => hh j) fun j r hr => hc.ready j r (hh j ▸ hr), fun _ _ => idleOk_of htx hq,
    fun _ _ => busyOk_of htx, fun _ => fragmentOk_of hrx⟩
  have hs := ho.accounted j k
  have hjk := hcount (j, k)
  rw [List.count_append] at hs
  rw [holderOf_congr (hh j), List.count_append]
  omega

/-- A move that leaves the stores, the collections and the receiver. -/
theorem keeps_of_changes {bs : List Block} (h : ChangesOnly bs s t)
    (hb : Block.buf ∉ bs ∧ Block.ports ∉ bs ∧ Block.queues ∉ bs ∧ Block.tx ∉ bs ∧ Block.rx ∉ bs ∧
      Block.agent ∉ bs) : Keeps [] [] s t := by
  obtain ⟨hbuf, hports, hqueues, htx, hrx, hagent⟩ := hb
  exact keeps_regroup (h.buf hbuf) (h.rx hrx) (h.tx htx)
    (fun q => by rw [queue_of_queues (h.queues hqueues)])
    fun a => by rw [memberCount_of_frame h ⟨hports, hqueues, htx, hrx, hagent⟩]

theorem keeps_of_frame {bs : List Block} (h : Lawful bs s t)
    (hb : Block.buf ∉ bs ∧ Block.ports ∉ bs ∧ Block.queues ∉ bs ∧ Block.tx ∉ bs ∧ Block.rx ∉ bs ∧
      Block.agent ∉ bs) : Keeps [] [] s t := keeps_of_changes h.frame hb

/-- The handles between two collections, in another order. -/
theorem keeps_recount (h : ∀ a, Y'.count a = Y.count a) : Keeps Y Y' s s :=
  keeps_regroup rfl rfl rfl (fun _ => rfl) fun a => by rw [h a]

theorem keeps_sendTrunk (l : List TrunkSymbol) : Keeps [] [] s (s.sendTrunk l) :=
  keeps_regroup rfl rfl rfl (fun _ => rfl) fun _ => rfl

theorem keeps_trunkIdle : Keeps [] [] s s.trunkIdle := by
  unfold trunkIdle
  split
  · exact .refl [] s
  · exact keeps_sendTrunk _

/-- A port takes another value, its handles going to or coming from between. -/
theorem keeps_setPort {p : Port} {v : PortState}
    (h : ∀ a, (v.members p).count a + Y'.count a = ((s.port p).members p).count a + Y.count a) :
    Keeps Y Y' s (s.setPort p v) :=
  keeps_regroup rfl rfl rfl (fun _ => rfl) fun a => by
    have := memberCount_setPort (s := s) p v a
    have := h a
    omega

/-- The agent takes another value, its requests going to or coming from between. -/
theorem keeps_withAgent {v : Agent}
    (h : ∀ a, (v.inbox.map fun h => (h, Holder.inbox)).count a + Y'.count a =
      (s.agent.inbox.map fun h => (h, Holder.inbox)).count a + Y.count a) : Keeps Y Y' s (s.withAgent v) :=
  keeps_regroup rfl rfl rfl (fun _ => rfl) fun a => by
    have := memberCount_withAgent (s := s) v a
    have := h a
    omega

theorem keeps_agentFields {v : Agent} (h : v.inbox = s.agent.inbox) : Keeps [] [] s (s.withAgent v) :=
  keeps_withAgent fun _ => by rw [h]

/-! ## Records of handles between two collections -/

section Between

variable {h : Nat} {k : Holder}

/-- A release outside every collection. -/
theorem keeps_freeHandle : Keeps [(h, k)] [] s (s.freeHandle h) :=
  keeps_touch (h := h) (lawful_freeHandle h).stores rfl rfl (fun _ => rfl)
    (fun _ hj => freeHandle_handle?_other s hj) (fun ha => .of_between ha) (fun ha => ha.freeHandle rfl)
    (fun r' hr => by rw [freeHandle_handle?_self] at hr; cases hr)
    (fun r' hr => by rw [freeHandle_handle?_self] at hr; cases hr)

theorem keeps_countDiscard (c : Cause) (o : Option StreamIx) : Keeps [] [] s (s.countDiscard c o) :=
  keeps_of_frame (lawful_countDiscard c o) (by decide)

theorem keeps_raiseRelease : Keeps [] [] s s.raiseRelease := keeps_of_frame lawful_raiseRelease (by decide)

theorem keeps_discardQuiet (c : Cause) : Keeps [(h, k)] [] s (s.discardQuiet c h) :=
  keeps_freeHandle.trans (keeps_countDiscard c _)

theorem keeps_discard (c : Cause) : Keeps [(h, k)] [] s (s.discard c h) :=
  (keeps_discardQuiet c).trans keeps_raiseRelease

theorem keeps_release : Keeps [(h, k)] [] s (s.release h) := keeps_freeHandle.trans keeps_raiseRelease

/-- A change of the record of a handle between two collections that keeps its holder, its chain and its body. -/
theorem keeps_modHandle {f : Handle → Handle} (hholder : ∀ r, (f r).holder = r.holder)
    (hchain : ∀ r, (f r).chain = r.chain) (hfit : ∀ r : Handle, r.Fits → (f r).Fits)
    (hready : ∀ r : Handle, r.Ready → (f r).Ready) : Keeps [(h, k)] [(h, k)] s (s.modHandle h f) := by
  have hl := lawful_modHandle (s := s) h f hchain
  refine keeps_touch (h := h) hl.stores (hl.frame.rx (by decide)) (hl.frame.tx (by decide))
    (fun q => by rw [queue_of_queues (hl.frame.queues (by decide))]) (fun j hj => modHandle_handle?_other s f hj)
    (fun ha => .of_between ha)
    (fun ha => ha.congr (holderOf_modHandle_keep hholder h) (memberCount_of_frame hl.frame (by decide)))
    (fun r' hr hk hf => ?_) (fun r' hr hr0 => ?_)
  · rw [handle?_modHandle, Option.map_eq_some_iff] at hr
    obtain ⟨r, hr, rfl⟩ := hr
    exact hfit r (hf h r hr (by rw [← hholder r]; exact hk))
  · rw [handle?_modHandle, Option.map_eq_some_iff] at hr
    obtain ⟨r, hr, rfl⟩ := hr
    exact hready r (hr0 r hr)

/-- A frame between two collections takes another holder off the trunk; one that has been built fits by now. -/
theorem keeps_setHolder {k' : Holder} (hk : k ≠ .trunkActive ∧ k ≠ .trunkSuspended)
    (hfit : k = .agentBuild → ∀ r, s.handle? h = some r → r.Fits) :
    Keeps [(h, k)] [(h, k')] s (s.setHolder h k') := by
  refine Keeps.of_orderly fun {Z} ho => ?_
  have hold := ho.accounted.holderOf_of_mem (h := h) (k := k) (by simp)
  obtain ⟨r, hr, rfl⟩ := handle?_of_holderOf hold
  have hl := lawful_setHolder (s := s) h k'
  have hself : (s.setHolder h k').handle? h = some { r with holder := k' } := modHandle_handle?_self _ _ hr
  refine keeps_touch (h := h) hl.stores (hl.frame.rx (by decide)) (hl.frame.tx (by decide))
    (fun q => by rw [queue_of_queues (hl.frame.queues (by decide))]) (fun j hj => modHandle_handle?_other s _ hj)
    (fun ha => .of_between ha) (fun ha => ha.setHolder rfl k') (fun r' hr' _ hf => ?_) (fun r' hr' hready => ?_)
  · rw [hself] at hr'
    cases hr'
    by_cases hb : r.holder = .agentBuild
    · exact hfit hb r hr
    · exact hf h r hr hb
  · rw [hself] at hr'
    cases hr'
    obtain ⟨h1, h2, h3⟩ := hready r hr
    exact ⟨h1, h2, fun _ _ => h3 hk.1 hk.2⟩

end Between

/-! ## Grants and octets -/

theorem fits_granted (k : Holder) (tag : Tag) (q : Tier) (i : Option StreamIx) : (Handle.granted k tag q i).Fits := by
  simp [Handle.Fits, Handle.granted, cellsFor, Config.cellSize]

theorem ready_granted (k : Holder) (tag : Tag) (q : Tier) (i : Option StreamIx) : (Handle.granted k tag q i).Ready :=
  ⟨le_rfl, Nat.zero_le _, fun _ _ => ⟨rfl, rfl, rfl⟩⟩

/-- A granted handle stands between two collections. -/
theorem keeps_claimHandle {mgmt : Bool} {k : Holder} {tag : Tag} {q : Tier} {i : Option StreamIx} {h : Nat}
    (hc : s.claimHandle mgmt k tag q i = some (h, t)) : Keeps [] [(h, k)] s t := by
  have hl := lawful_claimHandle hc
  obtain ⟨-, hfree, rfl, -⟩ := claimHandle_spec hc
  refine keeps_touch (h := h) hl.stores rfl rfl (fun _ => rfl)
    (fun j hj => setHandle_handle?_other s _ hj) (fun ha => .of_free ha hfree) (fun ha => ha.grant hfree)
    (fun r' hr _ _ => ?_) (fun r' hr _ => ?_)
  · rw [setHandle_handle?_self] at hr; cases hr; exact fits_granted ..
  · rw [setHandle_handle?_self] at hr; cases hr; exact ready_granted ..

/-- Whatever changes at most the chain, the body and the octets of one frame off the trunk is orderly where the frame
fits afterwards. -/
theorem keeps_octets {h : Nat} {r r' : Handle} (hl : Lawful [.buf] s t) (hr : s.handle? h = some r)
    (hr' : t.handle? h = some r') (hother : ∀ j, j ≠ h → t.handle? j = s.handle? j)
    (hsame : ∃ n chain, r' = { r with bodyLength := n, chain := chain } ∧ r.bodyLength ≤ n)
    (hown : ∀ {Z}, s.Accounted (Y ++ Z) → Own Z s h)
    (hfit : r.holder ≠ .agentBuild → r.Fits → r'.Fits) : Keeps Y Y s t := by
  obtain ⟨n, chain, rfl, hn⟩ := hsame
  refine keeps_touch (h := h) hl.stores (hl.frame.rx (by decide)) (hl.frame.tx (by decide))
    (fun q => by rw [queue_of_queues (hl.frame.queues (by decide))]) hother hown
    (fun ha => ha.congr (fun j => ?_) (memberCount_of_frame hl.frame (by decide))) (fun q hq hk hf => ?_) (fun q hq hready => ?_)
  · by_cases hj : j = h
    · subst hj; rw [holderOf_of_handle? hr', holderOf_of_handle? hr]
    · exact holderOf_congr (hother j hj)
  · rw [hr'] at hq; cases hq
    exact hfit hk (hf h r hr hk)
  · rw [hr'] at hq; cases hq
    obtain ⟨h1, h2, h3⟩ := hready r hr
    exact ⟨h1.trans hn, h2, h3⟩

/-- The octet that a granted append stores leaves the chain fit (R6). -/
theorem fits_appendOctet {mgmt : Bool} {h : Nat} {r r' : Handle} {b : Byte} (hr : s.handle? h = some r)
    (ht : s.appendOctet mgmt h b = some t) (hr' : t.handle? h = some r') :
    (∃ n chain, r' = { r with bodyLength := n, chain := chain } ∧ r.bodyLength ≤ n) ∧ (r.Fits → r'.Fits) := by
  obtain ⟨chain, hchain, -, hh, -⟩ := appendOctet_spec hr ht
  rw [hr'] at hh
  cases hh
  refine ⟨⟨_, _, rfl, Nat.le_succ _⟩, fun hf => ?_⟩
  show chain.length = cellsFor (r.bodyLength + 1)
  rw [cellsFor_succ, hchain]
  by_cases hz : r.bodyLength % 64 = 0
  · rw [if_pos hz, if_pos (show r.bodyLength % Config.cellSize = 0 from hz), List.length_append, hf]
    rfl
  · rw [if_neg hz, if_neg (show ¬ r.bodyLength % Config.cellSize = 0 from hz), hf]

theorem appendOctet_other {mgmt : Bool} {h : Nat} {b : Byte} (ht : s.appendOctet mgmt h b = some t) {j : Nat}
    (hj : j ≠ h) : t.handle? j = s.handle? j := by
  rcases hr : s.handle? h with _ | r
  · simp only [appendOctet, hr] at ht; cases ht; rfl
  · obtain ⟨_, _, _, _, hother, _⟩ := appendOctet_spec hr ht
    exact hother j hj

/-- A frame off the trunk and the receiver takes another octet. -/
theorem keeps_appendOctet {mgmt : Bool} {h : Nat} {b : Byte} (hown : ∀ {Z}, s.Accounted (Y ++ Z) → Own Z s h)
    (ht : s.appendOctet mgmt h b = some t) : Keeps Y Y s t := by
  rcases hr : s.handle? h with _ | r
  · simp only [appendOctet, hr] at ht; cases ht; exact .refl Y s
  · obtain ⟨_, _, _, hr', _⟩ := appendOctet_spec hr ht
    obtain ⟨hsame, hfit⟩ := fits_appendOctet hr ht hr'
    exact keeps_octets (lawful_appendOctet ht) hr hr' (fun j hj => appendOctet_other ht hj) hsame hown fun _ => hfit

theorem keeps_appendOctets {h : Nat} {k : Holder} (mgmt : Bool) (l : List Byte) :
    Keeps [(h, k)] [(h, k)] s (s.appendOctets mgmt h l).2 := by
  induction l generalizing s with
  | nil => exact .refl _ s
  | cons b l ih =>
    simp only [appendOctets]
    split
    · exact .refl _ s
    · rename_i s1 hs1
      exact (keeps_appendOctet (fun ha => .of_between ha) hs1).trans ih

end State

end Sys2Proof.Machine
end

section
/-! PROOFS. The transmitter (chapter 5): what a selection, a block, a close and a CLEAR do, one equation or one lemma a case. -/

namespace Sys2Proof.Machine

theorem Tier.moreUrgent_trans {a b c : Tier} (h : a.moreUrgent b = true) (g : b.moreUrgent c = true) :
    a.moreUrgent c = true := by
  simp only [Tier.moreUrgent, decide_eq_true_eq] at *
  omega

namespace State

variable {s t : State}

/-! ## Selection (R91 to R93) -/

theorem mostUrgent_eq_none : s.mostUrgent = none ↔ ∀ q, (s.queue q).members = [] := by
  simp only [mostUrgent, List.find?_eq_none, decide_eq_true_eq, ne_eq, not_not]
  exact ⟨fun h q => h q (mem_tiers q), fun h q _ => h q⟩

theorem mostUrgent_eq_some {q : Tier} : s.mostUrgent = some q ↔
    (s.queue q).members ≠ [] ∧ ∀ x : Tier, x.moreUrgent q = true → (s.queue x).members = [] := by
  have hall : (∀ x : Tier, x.moreUrgent q = true → (s.queue x).members = []) ↔
      (Tier.all.filter fun x => x.moreUrgent q).all fun x => decide ((s.queue x).members = []) := by
    simp only [List.all_eq_true, List.mem_filter, decide_eq_true_eq]
    exact ⟨fun h x hx => h x hx.2, fun h x hx => h x ⟨mem_tiers x, hx⟩⟩
  rw [hall]
  simp only [mostUrgent, Tier.all, List.find?_cons, List.find?_nil]
  by_cases h0 : (s.queue .t0).members = [] <;> by_cases h1 : (s.queue .t1).members = [] <;>
    by_cases h2 : (s.queue .t2).members = [] <;> by_cases h3 : (s.queue .t3).members = [] <;>
    cases q <;> simp [h0, h1, h2, h3, Tier.moreUrgent, Tier.ix, List.filter]

theorem select_eq_openHead {q : Tier} (hq : s.mostUrgent = some q)
    (htop : ∀ top below, s.tx.stack = top :: below → q.moreUrgent (s.tierOf top) = true) : s.select = s.openHead q := by
  unfold select
  rw [hq]
  split
  · rename_i h _; cases h; rfl
  · rename_i h hstack; cases h; rw [if_pos (htop _ _ hstack)]
  · rename_i h _; cases h
  · rename_i h _; cases h

theorem select_eq_resumeTop {top : Nat} {below : List Nat} (hstack : s.tx.stack = top :: below)
    (hempty : ∀ x : Tier, x.moreUrgent (s.tierOf top) = true → (s.queue x).members = []) :
    s.select = s.resumeTop top below := by
  unfold select
  rw [hstack]
  split
  · rename_i h; cases h
  · rename_i q _ _ hq h
    cases h
    rw [if_neg fun hmore => (mostUrgent_eq_some.1 hq).1 (hempty q hmore)]
  · rename_i h; cases h; rfl
  · rename_i h; cases h

theorem select_eq_goIdle (hempty : ∀ q, (s.queue q).members = []) (hstack : s.tx.stack = []) : s.select = s.goIdle := by
  unfold select
  rw [hstack, mostUrgent_eq_none.2 hempty]

/-- The three outcomes of a selection (R91). -/
theorem select_cases (s : State) :
    (∃ q h rest, (s.queue q).members = h :: rest ∧ (∀ x : Tier, x.moreUrgent q = true → (s.queue x).members = []) ∧
      (∀ top below, s.tx.stack = top :: below → q.moreUrgent (s.tierOf top) = true) ∧ s.select = s.openHead q) ∨
    (∃ top below, s.tx.stack = top :: below ∧ s.select = s.resumeTop top below) ∨
    ((∀ q, (s.queue q).members = []) ∧ s.tx.stack = [] ∧ s.select = s.goIdle) := by
  rcases hq : s.mostUrgent with _ | q
  · have hempty := mostUrgent_eq_none.1 hq
    rcases hstack : s.tx.stack with _ | ⟨top, below⟩
    · exact .inr (.inr ⟨hempty, rfl, select_eq_goIdle hempty hstack⟩)
    · exact .inr (.inl ⟨top, below, rfl, select_eq_resumeTop hstack fun x _ => hempty x⟩)
  · obtain ⟨hne, hmore⟩ := mostUrgent_eq_some.1 hq
    obtain ⟨h, rest, hm⟩ := List.exists_cons_of_ne_nil hne
    by_cases htop : ∀ top below, s.tx.stack = top :: below → q.moreUrgent (s.tierOf top) = true
    · exact .inl ⟨q, h, rest, hm, hmore, htop, select_eq_openHead hq htop⟩
    · push Not at htop
      obtain ⟨top, below, hstack, hnot⟩ := htop
      refine .inr (.inl ⟨top, below, hstack, ?_⟩)
      unfold select
      rw [hq, hstack]
      simp only [if_neg hnot]

/-- A frame opens (R92, R86). -/
theorem openHead_spec {q : Tier} {h : Nat} {rest : List Nat} {r : Handle} (hm : (s.queue q).members = h :: rest)
    (hr : s.handle? h = some r) :
    (s.openHead q).handle? h = some { r with holder := .trunkActive } ∧
    (∀ j, j ≠ h → (s.openHead q).handle? j = s.handle? j) ∧ (s.openHead q).buf.octets = s.buf.octets ∧
    (s.openHead q).queue q = { s.queue q with members := rest } ∧ (∀ x, x ≠ q → (s.openHead q).queue x = s.queue x) ∧
    (s.openHead q).tx = { mode := .sending, active := some h, stack := s.tx.stack
                          fragment := some { kind := .first, tier := r.tier, index := 0, carried := 0, closing := .none } } ∧
    (s.openHead q).line = { s.line with
      sent := s.line.sent ++ ([.openFirst r.tier] ++ trunkData (count2 r.bodyLength)) } ∧
    ∀ a, (s.openHead q).memberCount a + (s.tx.members ++ [(h, Holder.tierQueue q)]).count a =
      s.memberCount a + (Transmitter.members { s.tx with active := some h }).count a := by
  have he : s.openHead q = (((s.setMembers q rest).setHolder h .trunkActive).withTx
      { s.tx with
        mode := .sending, active := some h
        fragment := some { kind := .first, tier := r.tier, index := 0, carried := 0, closing := .none } }).sendTrunk
      ([.openFirst r.tier] ++ trunkData (count2 r.bodyLength)) := by
    simp only [openHead, hm, hr]
  have hframe := lawful_setHolder (s := s.setMembers q rest) h .trunkActive
  rw [he]
  refine ⟨modHandle_handle?_self _ _ hr, fun j hj => modHandle_handle?_other _ _ hj, setHolder_octets _ _ _, ?_,
    fun x hx => ?_, rfl, ?_, fun a => ?_⟩
  · exact (queue_of_queues (hframe.frame.queues (by decide)) q).trans (setMembers_queue_self ..)
  · exact (queue_of_queues (hframe.frame.queues (by decide)) x).trans (setMembers_queue_other _ _ hx)
  · exact congrArg (fun l : TrunkLine => { l with
      sent := l.sent ++ ([TrunkSymbol.openFirst r.tier] ++ trunkData (count2 r.bodyLength)) }) (hframe.frame.line (by decide))
  · have h1 := memberCount_setMembers (s := s) q rest a
    have h2 := memberCount_of_frame hframe.frame (by decide) a
    have h3 := memberCount_withTx (s := (s.setMembers q rest).setHolder h .trunkActive) { s.tx with
        mode := .sending, active := some h
        fragment := some { kind := .first, tier := r.tier, index := 0, carried := 0, closing := .none } } a
    have htx : ((s.setMembers q rest).setHolder h .trunkActive).tx = s.tx := hframe.frame.tx (by decide)
    rw [htx] at h3
    rw [hm, List.map_cons, List.count_cons] at h1
    rw [List.count_append, List.count_singleton]
    have h4 (u : State) (l : List TrunkSymbol) : (u.sendTrunk l).memberCount a = u.memberCount a := rfl
    rw [h4]
    simp only [Transmitter.members] at h3 ⊢
    omega

/-- A suspended frame resumes (R93, R87). -/
theorem resumeTop_spec {h : Nat} {rest : List Nat} {r : Handle} (hr : s.handle? h = some r) :
    (s.resumeTop h rest).handle? h = some { r with holder := .trunkActive, resumeHold := true } ∧
    (∀ j, j ≠ h → (s.resumeTop h rest).handle? j = s.handle? j) ∧ (s.resumeTop h rest).buf.octets = s.buf.octets ∧
    (s.resumeTop h rest).queues = s.queues ∧
    (s.resumeTop h rest).tx = { mode := .sending, active := some h, stack := rest
                                fragment := some { kind := .next, tier := r.tier, index := r.nextIndex, carried := 0
                                                   closing := .none } } ∧
    (s.resumeTop h rest).line = { s.line with sent := s.line.sent ++ [.openNext r.tier r.nextIndex] } ∧
    ∀ a, (s.resumeTop h rest).memberCount a + s.tx.members.count a =
      s.memberCount a + (Transmitter.members { s.tx with active := some h, stack := rest }).count a := by
  have he : s.resumeTop h rest = ((s.setHandle h { r with holder := .trunkActive, resumeHold := true }).withTx
      { mode := .sending, active := some h, stack := rest
        fragment := some { kind := .next, tier := r.tier, index := r.nextIndex, carried := 0, closing := .none } }).sendTrunk
      [.openNext r.tier r.nextIndex] := by
    simp only [resumeTop, hr]
  rw [he]
  refine ⟨setHandle_handle?_self .., fun j hj => setHandle_handle?_other _ _ hj, rfl, rfl, rfl, rfl, fun a => ?_⟩
  exact memberCount_withTx (s := s.setHandle h { r with holder := .trunkActive, resumeHold := true }) _ a

/-! ## Blocks and closes (R89, R94 to R96, R100) -/

theorem cutCheck_iff {r : Handle} {f : TxFragment} : s.cutCheck r f = true ↔
    (∃ q : Tier, q.moreUrgent r.tier = true ∧ (s.queue q).members ≠ []) ∧ r.tier ≠ .t0 ∧ r.whole = false ∧
      64 ≤ f.carried ∧ 64 ≤ r.bodyLength - r.sentOffset ∧ r.resumeHold = false := by
  simp only [cutCheck, Bool.and_eq_true, List.any_eq_true, decide_eq_true_eq, Bool.not_eq_true', Config.minFragment]
  constructor
  · rintro ⟨⟨⟨⟨⟨⟨q, -, hq⟩, h2⟩, h3⟩, h4⟩, h5⟩, h6⟩
    exact ⟨⟨q, hq⟩, h2, h3, of_decide_eq_true h4, of_decide_eq_true h5, h6⟩
  · rintro ⟨⟨q, hq⟩, h2, h3, h4, h5, h6⟩
    exact ⟨⟨⟨⟨⟨⟨q, mem_tiers q, hq⟩, h2⟩, h3⟩, decide_eq_true h4⟩, decide_eq_true h5⟩, h6⟩

/-- How the fragment goes on after a block that left the frame's record as `r` and the fragment's as `f` (R94 step 3). -/
def closingAfter (s : State) (r : Handle) (f : TxFragment) : Closing :=
  if r.sentOffset = r.bodyLength then .last else if s.cutCheck r f then .more else .none

/-- A block under way has been sent (R94). -/
theorem blockSent_eq {h : Nat} {f : TxFragment} {r : Handle} (ha : s.tx.active = some h) (hf : s.tx.fragment = some f)
    (hr : s.handle? h = some r) (hc : f.closing = .none) :
    s.blockSent = ((s.setHandle h (afterBlock r f).1).withTx { s.tx with
        fragment := some { (afterBlock r f).2 with
          closing := s.closingAfter (afterBlock r f).1 (afterBlock r f).2 } }).sendTrunk
      (trunkData (s.bodySlice r r.sentOffset (afterBlock r f).1.sentOffset)) := by
  simp only [blockSent, ha, hf, hr, hc, if_true, closingAfter]

theorem blockSent_of_none (hn : ∀ h f, s.tx.active = some h → s.tx.fragment = some f → f.closing = .none → s.handle? h = none) :
    s.blockSent = s := by
  unfold blockSent
  split
  · rename_i h f ha hf
    split
    · rfl
    · rename_i r hr
      split
      · rename_i hc
        rw [hn h f ha hf hc] at hr
        cases hr
      · rfl
  · rfl

/-- CLOSE MORE under way has been sent, before the selection (R89, R96). -/
def suspended (s : State) (h : Nat) (f : TxFragment) (r : Handle) : State :=
  ((s.sendTrunk (s.moreTrailer r f)).setHandle h
      { r with nextIndex := r.nextIndex + 1, holder := .trunkSuspended }).withTx
    { s.tx with active := none, fragment := none, stack := h :: s.tx.stack }

theorem closeMoreSent_eq {h : Nat} {f : TxFragment} {r : Handle} (ha : s.tx.active = some h) (hf : s.tx.fragment = some f)
    (hr : s.handle? h = some r) (hc : f.closing = .more) : s.closeMoreSent = (s.suspended h f r).select := by
  simp only [closeMoreSent, ha, hf, hr, hc, if_true, suspended]

theorem closeMoreSent_of_none
    (hn : ∀ h f, s.tx.active = some h → s.tx.fragment = some f → f.closing = .more → s.handle? h = none) :
    s.closeMoreSent = s := by
  unfold closeMoreSent
  split
  · rename_i h f ha hf
    split
    · rfl
    · rename_i r hr
      split
      · rename_i hc
        rw [hn h f ha hf hc] at hr
        cases hr
      · rfl
  · rfl

/-- CLOSE LAST under way has been sent: tallies and release (R100 steps 1 to 3). -/
def completed (s : State) (h : Nat) (f : TxFragment) (r : Handle) : State :=
  (((s.sendTrunk (s.lastTrailer r f)).countToTrunk r.stream r.bodyLength).release h).withTx
    { s.tx with active := none, fragment := none }

theorem completeActive_eq {h : Nat} {f : TxFragment} {r : Handle} (ha : s.tx.active = some h)
    (hf : s.tx.fragment = some f) (hr : s.handle? h = some r) (hc : f.closing = .last) :
    s.completeActive = some (s.completed h f r) := by
  simp only [completeActive, ha, hf, hr, hc, if_true, completed]

/-- Where a frame completes, it is the active one with its CLOSE LAST under way. -/
theorem completeActive_some (hc : s.completeActive = some t) : ∃ h f r, s.tx.active = some h ∧
    s.tx.fragment = some f ∧ s.handle? h = some r ∧ f.closing = .last ∧ t = s.completed h f r := by
  unfold completeActive at hc
  split at hc
  · rename_i h f ha hf
    split at hc
    · cases hc
    · rename_i r hr
      split at hc
      · rename_i hl
        cases hc
        exact ⟨h, f, r, ha, hf, hr, hl, rfl⟩
      · cases hc
  · cases hc

theorem completeActive_eq_none
    (hn : ∀ h f, s.tx.active = some h → s.tx.fragment = some f → f.closing = .last → s.handle? h = none) :
    s.completeActive = none := by
  rcases hc : s.completeActive with _ | t
  · rfl
  · obtain ⟨h, f, r, ha, hf, hr, hl, -⟩ := completeActive_some hc
    rw [hn h f ha hf hl] at hr
    cases hr

/-! ## Slices of the body -/

/-- The octets of a slice are those of the body. -/
theorem bodySlice_eq_drop_take {h : Nat} {r : Handle} (hr : s.handle? h = some r) {a b : Nat} (hb : b ≤ r.bodyLength) :
    s.bodySlice r a b = ((s.bodyOf h).drop a).take (b - a) := by
  rw [bodyOf_eq hr]
  unfold bodySlice
  rw [← List.map_drop, ← List.map_take]
  refine congrArg _ ?_
  apply List.ext_getElem
  · simp only [List.length_range', List.length_take, List.length_drop]
    omega
  · intro i h1 h2
    simp only [List.getElem_range', List.getElem_take, List.getElem_drop]
    omega

/-- The octets of a tally after a frame has completed on the trunk (R100, R191). -/
theorem countToTrunk_tally (o : Option StreamIx) (n : Nat) (i : StreamIx) :
    (s.countToTrunk o n).tally i = if o = some i then
      { s.tally i with
        framesToTrunk := (s.tally i).framesToTrunk + 1
        octetsToTrunk := (s.tally i).octetsToTrunk + BitVec.ofNat 32 n } else s.tally i := by
  unfold countToTrunk
  split
  · rw [if_neg nofun]
  · rename_i j
    by_cases hj : i = j
    · subst hj
      rw [if_pos rfl, setTally_tally_self]
    · rw [if_neg fun e => hj (Option.some.inj e).symm, setTally_tally_other _ _ fun e => hj (Fin.ext e)]

theorem countToTrunk_discardCount (o : Option StreamIx) (n : Nat) (c : Cause) :
    (s.countToTrunk o n).discardCount c = s.discardCount c := by
  unfold countToTrunk
  split <;> rfl

end State

/-! ## The obligations -/

/-- Settles O31: the three outcomes of a selection are openHead, resumeTop and goIdle. -/
theorem selectionRule : Obligations.SelectionRule := by
  intro s
  refine ⟨fun q h rest r hm hmore htop hr => ?_, fun top below r hstack hempty hr => ?_, fun hempty hstack => ?_⟩
  · have hq := State.mostUrgent_eq_some.2 ⟨by rw [hm]; exact nofun, hmore⟩
    rw [State.select_eq_openHead hq htop]
    obtain ⟨h1, h2, h3, h4, h5, h6, h7, -⟩ := State.openHead_spec hm hr
    refine ⟨by rw [h4], fun x hx => by rw [h5 x hx], fun x => ?_, h1, fun j hj => h2 j (by simpa using hj), h3, h6, ?_,
      (State.lawful_openHead q).frame⟩
    · by_cases hx : x = q
      · subst hx; rw [h4]
      · rw [h5 x hx]
    · rw [h7]
      simp [trunkData, count2]
  · rw [State.select_eq_resumeTop hstack hempty]
    obtain ⟨h1, h2, h3, -, h5, h6, -⟩ := State.resumeTop_spec (rest := below) hr
    exact ⟨h1, fun j hj => h2 j (by simpa using hj), h3, h5, h6, (State.lawful_resumeTop top below).frame⟩
  · rw [State.select_eq_goIdle hempty hstack]
    refine ⟨?_, ?_, State.lawful_goIdle.frame⟩
    · rw [State.goIdle, State.trunkIdle_tx]
      simp [hstack]
    · unfold State.goIdle State.trunkIdle
      split
      · rename_i he
        rw [if_pos (show s.line.sent.getLast? = _ from he)]
        rfl
      · rename_i he
        rw [if_neg (show ¬ s.line.sent.getLast? = _ from he)]
        rfl

/-- Settles O32: the block's equation, with the cut check spelled out. -/
theorem blockSentAdvancesAndCuts : Obligations.BlockSentAdvancesAndCuts := by
  intro s
  refine ⟨fun h f r ha hf hc hr hle => ?_, fun hn => congrArg Host.Outcome.next (State.blockSent_of_none hn)⟩
  have hend : r.sentOffset + min 16 (r.bodyLength - r.sentOffset) ≤ r.bodyLength := by omega
  refine ⟨s.blockSent, s.closingAfter (afterBlock r f).1 (afterBlock r f).2, rfl, ?_, ?_, ?_, ?_, fun he => if_pos he,
    fun hne hcut => ?_, fun hne hcut => ?_, ?_, State.lawful_blockSent.frame⟩
  · rw [State.blockSent_eq ha hf hr hc]
    exact State.setHandle_handle?_self ..
  · rw [State.blockSent_eq ha hf hr hc]
    exact fun j hj => State.setHandle_handle?_other _ _ (by simpa using hj)
  · rw [State.blockSent_eq ha hf hr hc]
    rfl
  · rw [State.blockSent_eq ha hf hr hc]
    rfl
  · exact (if_neg hne).trans (if_pos (State.cutCheck_iff.2 hcut))
  · exact (if_neg hne).trans (if_neg fun h => hcut (State.cutCheck_iff.1 h))
  · rw [State.blockSent_eq ha hf hr hc]
    have hslice := State.bodySlice_eq_drop_take hr (a := r.sentOffset) hend
    rw [Nat.add_sub_cancel_left] at hslice
    show { s.line with sent := s.line.sent ++ trunkData (s.bodySlice r r.sentOffset (r.sentOffset +
      min 16 (r.bodyLength - r.sentOffset))) } = _
    rw [hslice]
    rfl

/-- Settles O33: the equations of the two commands. -/
theorem closeMoreAndClearSent : Obligations.CloseMoreAndClearSent := by
  refine ⟨fun s => ⟨fun h f r ha hf hc hr hle hend => ?_, fun hn =>
    congrArg Host.Outcome.next (State.closeMoreSent_of_none hn)⟩, fun s => ⟨fun hm => ?_, fun hm => ?_⟩⟩
  · have hslice := State.bodySlice_eq_drop_take hr (a := r.sentOffset - f.carried) hend
    rw [Nat.sub_sub_self hle] at hslice
    refine ⟨s.suspended h f r, congrArg Host.Outcome.next (State.closeMoreSent_eq ha hf hr hc),
      State.setHandle_handle?_self .., fun j hj => State.setHandle_handle?_other _ _ (by simpa using hj), rfl, rfl, ?_,
      by simp [ChangesOnly, State.suspended]⟩
    show { s.line with sent := s.line.sent ++ s.moreTrailer r f } = _
    simp only [State.moreTrailer, State.fragmentOctets, hslice, List.append_assoc]
    cases f.kind <;> rfl
  · exact ⟨s.sendTrunk [.clear], congrArg Host.Outcome.next (if_pos hm), rfl, by simp [ChangesOnly]⟩
  · exact congrArg Host.Outcome.next (if_neg hm)

/-- Settles O34: the equation of the completion, and its selection after the release event. -/
theorem closeLastSentCompletes : Obligations.CloseLastSentCompletes := by
  intro s
  refine ⟨fun h f r ha hf hc hr hle hend => ?_, fun hn => ?_⟩
  · have hslice := State.bodySlice_eq_drop_take hr (a := r.sentOffset - f.carried) (b := r.sentOffset) (by omega)
    rw [Nat.sub_sub_self hle, hend] at hslice
    have htake : ((s.bodyOf h).drop (r.bodyLength - f.carried)).take f.carried =
        (s.bodyOf h).drop (r.bodyLength - f.carried) := by
      refine List.take_of_length_le ?_
      rw [List.length_drop, State.bodyOf_length hr]
      omega
    rw [htake] at hslice
    have hframe := State.lawful_completeActive (State.completeActive_eq ha hf hr hc)
    refine ⟨s.completed h f r, ?_, State.freeHandle_handle?_self .., fun j hj => ?_, fun a => ?_, ?_, rfl, ?_, fun i => ?_,
      fun k => ?_, hframe.frame⟩
    · simp only [exec, execCloseLastSent, State.completeActive_eq ha hf hr hc, State.selectAfterClose]
    · have hj' : j ≠ h := by simpa using hj
      refine (State.freeHandle_handle?_other _ hj').trans (State.handle?_of_buf ?_ j)
      simp
    · show Memory.read (((s.sendTrunk _).countToTrunk r.stream r.bodyLength).freeHandle h).buf.octets a = _
      rw [State.freeHandle_octets]
      simp
    · show (((s.sendTrunk _).countToTrunk r.stream r.bodyLength).freeHandle h).releaseEvents + 1 = _
      simp
    · show (((s.sendTrunk (s.lastTrailer r f)).countToTrunk r.stream r.bodyLength).freeHandle h).line = _
      have : ((s.sendTrunk (s.lastTrailer r f)).countToTrunk r.stream r.bodyLength).line =
          (s.sendTrunk (s.lastTrailer r f)).line := (State.lawful_countToTrunk _ _).frame.line (by decide)
      rw [State.freeHandle_line, this]
      show { s.line with sent := s.line.sent ++ s.lastTrailer r f } = _
      simp only [State.lastTrailer, State.fragmentOctets, hend, hslice, ← State.bodyOf_eq hr, List.append_assoc, trunkData,
        List.map_append]
      cases f.kind <;> simp [count2]
    · exact (State.countToTrunk_tally (s := s.sendTrunk (s.lastTrailer r f)) r.stream r.bodyLength i)
    · exact (State.countToTrunk_discardCount (s := s.sendTrunk (s.lastTrailer r f)) r.stream r.bodyLength k)
  · simp only [exec, execCloseLastSent, State.completeActive_eq_none hn]

end Sys2Proof.Machine
end

section
/-! PROOFS. The orderly moves of the transmitter (chapter 5): a frame joins a queue, becomes active, is sent, suspended,
resumed, completed, or returned by a trunk loss. -/

namespace Sys2Proof.Machine

theorem Tier.not_moreUrgent_self (q : Tier) : ¬ q.moreUrgent q = true := by simp [Tier.moreUrgent]

/-- An orderly move that need not serve the queues and the stack, nor leave a frame with a transmitter in SENDING. -/
structure Moves (Y Y' : List (Nat × Holder)) (s t : State) : Prop where
  orderly : ∀ {Z}, Orderly (Y ++ Z) s → Orderly (Y' ++ Z) t
  aside : ∀ {Z}, Orderly (Y ++ Z) s → ∀ a ∈ Z, t.handle? a.1 = s.handle? a.1
  fits : ∀ {Z}, Orderly (Y ++ Z) s → s.FitsBuilt → t.FitsBuilt
  core : ∀ {Z}, Orderly (Y ++ Z) s → TxCore s → TxCore t

/-- An orderly move after which the transmitter serves whatever waits. -/
structure Serves (s t : State) : Prop where
  moves : Moves [] [] s t
  rx : t.rx = s.rx
  served : ∀ {Z}, Orderly Z s → TxCore s → t.IdleOk ∧ t.BusyOk

section Moves

variable {Y Y' Y'' : List (Nat × Holder)} {s t u : State}

theorem Keeps.moves (h : Keeps Y Y' s t) : Moves Y Y' s t := ⟨h.orderly, h.aside, h.fits, h.core⟩

theorem Moves.trans (h : Moves Y Y' s t) (g : Moves Y' Y'' t u) : Moves Y Y'' s u :=
  ⟨fun ho => g.orderly (h.orderly ho), fun ho a ha => (g.aside (h.orderly ho) a ha).trans (h.aside ho a ha),
    fun ho hf => g.fits (h.orderly ho) (h.fits ho hf), fun ho hc => g.core (h.orderly ho) (h.core ho hc)⟩

theorem Moves.of_orderly (h : ∀ {Z}, Orderly (Y ++ Z) s → Moves Y Y' s t) : Moves Y Y' s t :=
  ⟨fun ho => (h ho).orderly ho, fun ho => (h ho).aside ho, fun ho => (h ho).fits ho, fun ho => (h ho).core ho⟩

theorem Moves.keeps (h : Moves Y Y' s t) (hidle : ∀ {Z}, Orderly (Y ++ Z) s → TxCore s → s.IdleOk → t.IdleOk)
    (hbusy : ∀ {Z}, Orderly (Y ++ Z) s → TxCore s → s.BusyOk → t.BusyOk)
    (hfragment : ∀ {Z}, Orderly (Y ++ Z) s → s.FragmentOk → t.FragmentOk) : Keeps Y Y' s t :=
  ⟨h.orderly, h.aside, h.fits, h.core, hidle, hbusy, hfragment⟩

theorem Serves.keeps (h : Serves s t) : Keeps [] [] s t :=
  h.moves.keeps (fun ho hc _ => (h.served ho hc).1) (fun ho hc _ => (h.served ho hc).2)
    fun _ => State.fragmentOk_of h.rx

/-- A move of the receiver alone among the blocks that the transmitter reads. -/
theorem Moves.keeps_rx {bs : List Block} (h : Moves Y Y' s t) (hl : Lawful bs s t)
    (hb : Block.queues ∉ bs ∧ Block.tx ∉ bs) (hfragment : ∀ {Z}, Orderly (Y ++ Z) s → s.FragmentOk → t.FragmentOk) :
    Keeps Y Y' s t :=
  h.keeps (fun _ _ => State.idleOk_of (hl.frame.tx hb.2) fun q => by rw [State.queue_of_queues (hl.frame.queues hb.1)])
    (fun _ _ => State.busyOk_of (hl.frame.tx hb.2)) hfragment

/-- A move that is followed by a selection. -/
theorem Moves.serve (h : Moves Y [] s t) (hrx : ∀ {Z}, Orderly (Y ++ Z) s → s.FragmentOk → t.FragmentOk)
    (g : Serves t u) : Keeps Y [] s u :=
  (h.trans g.moves).keeps (fun ho hc _ => (g.served (h.orderly ho) (h.core ho hc)).1)
    (fun ho hc _ => (g.served (h.orderly ho) (h.core ho hc)).2)
    fun ho hf => State.fragmentOk_of g.rx (hrx ho hf)

theorem Serves.of_orderly (hrx : t.rx = s.rx) (h : ∀ {Z}, Orderly Z s → Serves s t) : Serves s t :=
  ⟨Moves.of_orderly fun {Z} ho => (h (Z := Z) ho).moves, hrx, fun ho => (h ho).served ho⟩

end Moves

namespace State

variable {s t : State} {Y Y' Z : List (Nat × Holder)}

/-! ## One frame from one place to another -/

/-- A handle moves from one collection, or from between two, to another. -/
theorem Accounted.move {h : Nat} {k k' : Holder} (hs : s.Accounted (Y ++ Z)) (hk : s.holderOf h = some k)
    (hk' : t.holderOf h = some k') (hother : ∀ j, j ≠ h → t.handle? j = s.handle? j)
    (hcount : ∀ a, t.memberCount a + (Y' ++ [(h, k)]).count a = s.memberCount a + (Y ++ [(h, k')]).count a) :
    t.Accounted (Y' ++ Z) := by
  intro j c
  have hj := hs j c
  have hjc := hcount (j, c)
  rw [List.count_append] at hj ⊢
  rw [List.count_append, List.count_append, List.count_singleton, List.count_singleton] at hjc
  by_cases e : j = h
  · subst e
    rw [hk] at hj
    rw [hk']
    simp only [Option.some.injEq, beq_iff_eq, Prod.mk.injEq, true_and] at hj hjc ⊢
    omega
  · rw [holderOf_congr (hother j e)]
    have hne : ∀ x, ((h, x) == (j, c)) = false := fun x => by simp [Ne.symm e]
    rw [hne, hne] at hjc
    simp only [Bool.false_eq_true, if_false] at hjc
    omega

/-- The tiers of frames, after a change of one record that keeps its tier. -/
theorem tierOf_moved {h : Nat} {r r' : Handle} (hr : s.handle? h = some r) (hr' : t.handle? h = some r')
    (htier : r'.tier = r.tier) (hother : ∀ j, j ≠ h → t.handle? j = s.handle? j) (j : Nat) : t.tierOf j = s.tierOf j := by
  by_cases e : j = h
  · subst e; simp only [tierOf, hr, hr', htier]
  · exact tierOf_congr (hother j e)

/-- A frame of the trunk moves, or a frame comes there: its record keeps its chain and its body. -/
theorem moves_frame {h : Nat} {r r' : Handle} {bs : List Block} (hl : Lawful bs s t) (hb : Block.rx ∉ bs)
    (hr : s.handle? h = some r) (hr' : t.handle? h = some r') (hother : ∀ j, j ≠ h → t.handle? j = s.handle? j)
    (hbody : r'.chain = r.chain ∧ r'.bodyLength = r.bodyLength) (hbuild : r.holder = .agentBuild → r.Fits)
    (hout : ∀ {Z}, s.Accounted (Y ++ Z) →
      (∀ k, (h, k) ∉ Z) ∧ ∀ q a, s.context q = .opened a → a.handle ≠ some h)
    (hcount : ∀ a, t.memberCount a + (Y' ++ [(h, r.holder)]).count a = s.memberCount a + (Y ++ [(h, r'.holder)]).count a)
    (hrested : s.Rested → t.Rested) (hcore : ∀ {Z}, Orderly (Y ++ Z) s → TxCore s → TxCore t) : Moves Y Y' s t := by
  refine ⟨fun ho => ⟨hl.stores ho.stores, hrested ho.rested, contextsOk_of ho.rx (hl.frame.rx hb) fun q a j hc ha =>
    hother j ?_, ho.accounted.move (holderOf_of_handle? hr) (holderOf_of_handle? hr') hother hcount⟩, fun ho a ha =>
    hother _ fun e => (hout ho.accounted).1 a.2 (e ▸ ha), fun ho hf j q hq hk => ?_, hcore⟩
  · rintro rfl
    exact (hout ho.accounted).2 q a hc ha
  · by_cases e : j = h
    · subst e
      rw [hr'] at hq
      cases hq
      have hfit : r.Fits := by
        by_cases hb : r.holder = .agentBuild
        · exact hbuild hb
        · exact hf j r hr hb
      unfold Handle.Fits at hfit ⊢
      rw [hbody.1, hbody.2, hfit]
    · rw [hother j e] at hq
      exact hf j q hq hk

/-- A frame of a collection that is no context. -/
theorem Accounted.out_of_member (hs : s.Accounted Z) {h : Nat} {k : Holder} (hm : (h, k) ∈ s.members)
    (hk : ∀ q, k ≠ .reassembly q) :
    (∀ k, (h, k) ∉ Z) ∧ ∀ q a, s.context q = .opened a → a.handle ≠ some h := by
  refine ⟨fun _ => hs.not_mem_of_member hm, fun q a hc ha => ?_⟩
  have := (hs.holderOf_of_member hm).symm.trans (hs.holderOf_of_member (mem_members_context hc ha))
  exact hk q (Option.some.inj this)

theorem Accounted.handle_of_member (hs : s.Accounted Z) {h : Nat} {k : Holder} (hm : (h, k) ∈ s.members) :
    ∃ r, s.handle? h = some r ∧ r.holder = k := handle?_of_holderOf (hs.holderOf_of_member hm)

/-- The transmitter takes another value, its frames going to or coming from between. -/
theorem moves_withTx {v : Transmitter} (hrested : s.Rested → (s.withTx v).Rested)
    (hcount : ∀ a, v.members.count a + Y'.count a = s.tx.members.count a + Y.count a)
    (hcore : ∀ {Z}, Orderly (Y ++ Z) s → TxCore s → TxCore (s.withTx v)) : Moves Y Y' s (s.withTx v) := by
  refine ⟨fun ho => ⟨storesOk_of_buf ho.stores rfl, hrested ho.rested, contextsOk_of ho.rx rfl fun _ _ _ _ _ => rfl,
    fun j k => ?_⟩, fun _ _ _ => rfl, fun _ => id, hcore⟩
  have hs := ho.accounted j k
  have h1 := memberCount_withTx (s := s) v (j, k)
  have h2 := hcount (j, k)
  rw [List.count_append] at hs ⊢
  rw [holderOf_congr (s := s) (t := s.withTx v) rfl]
  omega

/-! ## Selection -/

theorem serves_openHead {q : Tier} {h : Nat} {rest : List Nat} (hm : (s.queue q).members = h :: rest)
    (ha : s.tx.active = none)
    (htop : ∀ top below, s.tx.stack = top :: below → q.moreUrgent (s.tierOf top) = true) : Serves s (s.openHead q) := by
  have hrx := (lawful_openHead (s := s) q).frame.rx (by decide)
  refine Serves.of_orderly hrx fun ho => ?_
  have hmem : (h, Holder.tierQueue q) ∈ s.members := mem_members_queue (by rw [hm]; exact List.mem_cons_self)
  obtain ⟨r, hr, hk⟩ := ho.accounted.handle_of_member hmem
  obtain ⟨hr', hother, -, hqueue, hqueues, htx, -, hcount⟩ := openHead_spec hm hr
  have htier := tierOf_moved hr hr' rfl hother
  refine ⟨moves_frame (lawful_openHead q) (by decide) hr hr' hother ⟨rfl, rfl⟩ (fun e => by rw [hk] at e; cases e)
    (fun hs => hs.out_of_member hmem nofun) (fun a => ?_) (fun _ he => absurd (congrArg Transmitter.mode htx) he)
    fun _ hc => ⟨by rw [htx]; rfl, ?_, ?_, ?_, ?_, ?_⟩, hrx, fun _ _ => ⟨?_, ?_⟩⟩
  · have := hcount a
    rw [hk]
    simp only [List.nil_append, Transmitter.members, ha, Option.toList_none, Option.toList_some, List.map_nil,
      List.map_cons, List.cons_append, List.count_append, List.count_cons, List.count_nil] at this ⊢
    omega
  · rw [htx]
    simp only [htier]
    have hpair : s.tx.stack.Pairwise fun a b => (s.tierOf a).moreUrgent (s.tierOf b) = true := by
      have := hc.rising
      rwa [ha] at this
    refine List.pairwise_cons.2 ⟨fun j hj => ?_, hpair⟩
    have hq : s.tierOf h = q := hc.queued q h (by rw [hm]; exact List.mem_cons_self)
    rw [hq]
    rcases hstack : s.tx.stack with _ | ⟨top, below⟩
    · rw [hstack] at hj; cases hj
    · rw [hstack] at hj hpair
      rcases List.mem_cons.1 hj with rfl | hj
      · exact htop _ _ hstack
      · exact Tier.moreUrgent_trans (htop _ _ hstack) ((List.pairwise_cons.1 hpair).1 j hj)
  · intro j f r' haj hf hrj
    rw [htx] at haj hf
    cases haj
    cases hf
    rw [hr'] at hrj
    cases hrj
    obtain ⟨h1, h2, h3⟩ := (hc.ready h r hr).2.2 (by rw [hk]; exact nofun) (by rw [hk]; exact nofun)
    exact ⟨rfl, h2.symm, Nat.zero_le _, fun _ => ⟨rfl, h1.symm, h3⟩, nofun, nofun, nofun⟩
  · intro j hj r' hrj
    rw [htx] at hj
    by_cases e : j = h
    · subst e
      rw [hr'] at hrj
      cases hrj
      exact hc.cut j hj r hr
    · rw [hother j e] at hrj
      exact hc.cut j hj r' hrj
  · intro x j hj
    rw [htier]
    by_cases e : x = q
    · subst e
      rw [hqueue] at hj
      exact hc.queued x j (by rw [hm]; exact List.mem_cons_of_mem _ hj)
    · rw [hqueues x e] at hj
      exact hc.queued x j hj
  · intro j r' hrj
    by_cases e : j = h
    · subst e
      rw [hr'] at hrj
      cases hrj
      obtain ⟨h1, h2, -⟩ := hc.ready j r hr
      exact ⟨h1, h2, fun hne => absurd rfl hne⟩
    · rw [hother j e] at hrj
      exact hc.ready j r' hrj
  · intro hi
    rw [htx] at hi
    cases hi
  · intro _
    rw [htx]
    rfl

theorem serves_resumeTop {top : Nat} {below : List Nat} (hstack : s.tx.stack = top :: below) (ha : s.tx.active = none) :
    Serves s (s.resumeTop top below) := by
  have hrx := (lawful_resumeTop (s := s) top below).frame.rx (by decide)
  refine Serves.of_orderly hrx fun ho => ?_
  have hmem : (top, Holder.trunkSuspended) ∈ s.members := mem_members_stack (by rw [hstack]; exact List.mem_cons_self)
  obtain ⟨r, hr, hk⟩ := ho.accounted.handle_of_member hmem
  obtain ⟨hr', hother, -, hqueues, htx, -, hcount⟩ := resumeTop_spec (rest := below) hr
  have htier := tierOf_moved hr hr' rfl hother
  refine ⟨moves_frame (lawful_resumeTop top below) (by decide) hr hr' hother ⟨rfl, rfl⟩
    (fun e => by rw [hk] at e; cases e) (fun hs => hs.out_of_member hmem nofun) (fun a => ?_)
    (fun _ he => absurd (congrArg Transmitter.mode htx) he)
    fun _ hc => ⟨by rw [htx]; rfl, ?_, ?_, ?_, ?_, ?_⟩, hrx, fun _ _ => ⟨?_, ?_⟩⟩
  · have := hcount a
    rw [hk]
    simp only [List.nil_append, Transmitter.members, ha, hstack, Option.toList_none, Option.toList_some, List.map_nil,
      List.map_cons, List.cons_append, List.count_cons, List.count_nil] at this ⊢
    omega
  · rw [htx]
    simp only [htier]
    have := hc.rising
    rwa [ha, hstack] at this
  · intro j f r' haj hf hrj
    rw [htx] at haj hf
    cases haj
    cases hf
    rw [hr'] at hrj
    cases hrj
    exact ⟨rfl, rfl, Nat.zero_le _, nofun, fun _ => rfl, nofun, nofun⟩
  · intro j hj r' hrj
    rw [htx] at hj
    have hrise := hc.rising
    rw [ha, hstack] at hrise
    have e : j ≠ top := by
      rintro rfl
      exact Tier.not_moreUrgent_self _ ((List.pairwise_cons.1 hrise).1 j hj)
    rw [hother j e] at hrj
    exact hc.cut j (by rw [hstack]; exact List.mem_cons_of_mem _ hj) r' hrj
  · intro x j hj
    rw [htier]
    rw [queue_of_queues hqueues] at hj
    exact hc.queued x j hj
  · intro j r' hrj
    by_cases e : j = top
    · subst e
      rw [hr'] at hrj
      cases hrj
      obtain ⟨h1, h2, -⟩ := hc.ready j r hr
      exact ⟨h1, h2, fun hne => absurd rfl hne⟩
    · rw [hother j e] at hrj
      exact hc.ready j r' hrj
  · intro hi
    rw [htx] at hi
    cases hi
  · intro _
    rw [htx]
    rfl

theorem serves_goIdle (hempty : ∀ q, (s.queue q).members = []) (hstack : s.tx.stack = []) (ha : s.tx.active = none) :
    Serves s s.goIdle := by
  have hm : Moves [] [] s (s.withTx { s.tx with mode := .idle, active := none, fragment := none }) := by
    refine moves_withTx (fun _ _ => ⟨rfl, rfl, hstack⟩) (fun a => ?_) fun _ hc =>
      ⟨rfl, ?_, fun _ _ _ ha' => (by cases ha'), hc.cut, hc.queued, hc.ready⟩
    · rw [Transmitter.members, Transmitter.members, ha]
    · have := hc.rising
      rwa [ha] at this
  refine ⟨hm.trans keeps_trunkIdle.moves, lawful_goIdle.frame.rx (by decide), fun _ _ => ⟨fun _ => ?_, fun hs => ?_⟩⟩
  · refine ⟨fun q => ?_, ?_⟩
    · rw [queue_of_queues (lawful_goIdle.frame.queues (by decide))]
      exact hempty q
    · rw [goIdle, trunkIdle_tx]
      exact hstack
  · rw [goIdle, trunkIdle_tx] at hs
    cases hs

/-- A selection serves what waits (R91). -/
theorem serves_select (ha : s.tx.active = none) : Serves s s.select := by
  rcases s.select_cases with ⟨q, h, rest, hm, -, htop, he⟩ | ⟨top, below, hstack, he⟩ | ⟨hempty, hstack, he⟩
  · rw [he]; exact serves_openHead hm ha htop
  · rw [he]; exact serves_resumeTop hstack ha
  · rw [he]; exact serves_goIdle hempty hstack ha

/-! ## Joining a queue -/

/-- A frame off the trunk joins a tier queue (R79). -/
theorem keeps_joinQueue {q : Tier} {h : Nat} {k : Holder} (hk : k ≠ .trunkActive ∧ k ≠ .trunkSuspended)
    (htier : ∀ r, s.handle? h = some r → r.tier = q) (hbuild : k = .agentBuild → ∀ r, s.handle? h = some r → r.Fits) :
    Keeps [(h, k)] [] s (s.joinQueue q h) := by
  refine Keeps.of_orderly fun {Z} ho => ?_
  obtain ⟨r, hr, rfl⟩ := handle?_of_holderOf (ho.accounted.holderOf_of_mem (h := h) (k := k) (by simp))
  have hclear := Own.of_between ho.accounted
  have hl : Lawful [.buf, .queues] s ((s.setMembers q ((s.queue q).members ++ [h])).setHolder h (.tierQueue q)) :=
    (lawful_setMembers q _).seq (lawful_setHolder h _) (by decide)
  generalize hu : (s.setMembers q ((s.queue q).members ++ [h])).setHolder h (.tierQueue q) = u at hl
  have hr' : u.handle? h = some { r with holder := .tierQueue q } := by
    rw [← hu]
    exact modHandle_handle?_self (s.setMembers q ((s.queue q).members ++ [h])) _ hr
  have hother : ∀ j, j ≠ h → u.handle? j = s.handle? j := fun j hj => by
    rw [← hu]
    exact modHandle_handle?_other (s.setMembers q ((s.queue q).members ++ [h])) _ hj
  have htx : u.tx = s.tx := hl.frame.tx (by decide)
  have hqueue : ∀ x, u.queue x = (s.setMembers q ((s.queue q).members ++ [h])).queue x := fun x => by
    rw [← hu]
    exact queue_of_queues ((lawful_setHolder (s := s.setMembers q ((s.queue q).members ++ [h])) h
      (.tierQueue q)).frame.queues (by decide)) x
  have htiers := tierOf_moved hr hr' rfl hother
  have hm : Moves [(h, r.holder)] [] s u := by
    refine moves_frame hl (by decide) hr hr' hother ⟨rfl, rfl⟩ (fun e => hbuild e r hr)
      (fun hs => ?_) (fun a => ?_) (rested_of htx) fun {Z'} ho' hc => ?_
    · exact ⟨(Own.of_between hs).aside, (Own.of_between hs).context⟩
    · have h1 := memberCount_setMembers (s := s) q ((s.queue q).members ++ [h]) a
      have h2 := memberCount_of_frame (lawful_setHolder (s := s.setMembers q ((s.queue q).members ++ [h])) h
        (.tierQueue q)).frame (by decide) a
      rw [hu] at h2
      rw [List.map_append, List.count_append] at h1
      simp only [List.nil_append, List.count_append, List.map_cons, List.map_nil] at h1 ⊢
      omega
    · have hown := Own.of_between ho'.accounted
      have hact : s.tx.active ≠ some h := fun e => hown.trunk (.inl (by simp [e]))
      refine ⟨by rw [htx]; exact hc.fragment, by rw [htx]; simpa only [htiers] using hc.rising, fun j f rj haj hf hrj => ?_,
        fun j hj rj hrj => ?_, fun x j hj => ?_, fun j rj hrj => ?_⟩
      · rw [htx] at haj hf
        rw [hother j (by rintro rfl; exact hact haj)] at hrj
        exact hc.current j f rj haj hf hrj
      · rw [htx] at hj
        rw [hother j (by rintro rfl; exact hown.trunk (.inl (List.mem_append_right _ hj)))] at hrj
        exact hc.cut j hj rj hrj
      · rw [htiers]
        rw [hqueue] at hj
        by_cases e : x = q
        · subst e
          rw [setMembers_queue_self] at hj
          rcases List.mem_append.1 hj with hj | hj
          · exact hc.queued x j hj
          · obtain rfl := List.mem_singleton.1 hj
            simp only [tierOf, hr]
            exact htier r hr
        · rw [setMembers_queue_other _ _ e] at hj
          exact hc.queued x j hj
      · by_cases e : j = h
        · subst e
          rw [hr'] at hrj
          cases hrj
          obtain ⟨h1, h2, h3⟩ := hc.ready j r hr
          exact ⟨h1, h2, fun _ _ => h3 hk.1 hk.2⟩
        · rw [hother j e] at hrj
          exact hc.ready j rj hrj
  have he : s.joinQueue q h = if u.tx.mode = .idle then u.select else u := by
    rw [← hu]
    rfl
  rw [he]
  split
  · rename_i hi
    have hrest := (hm.orderly ho).rested (by rw [hi]; exact nofun)
    exact hm.serve (fun _ => fragmentOk_of (hl.frame.rx (by decide))) (serves_select hrest.1)
  · rename_i hi
    exact hm.keeps (fun _ _ _ h => absurd h hi) (fun _ _ => busyOk_of htx)
      fun _ => fragmentOk_of (hl.frame.rx (by decide))

/-- An admission (R80). -/
theorem keeps_offerQueue {q : Tier} {h : Nat} {k : Holder} (hk : k ≠ .trunkActive ∧ k ≠ .trunkSuspended ∧ k ≠ .agentBuild)
    (htier : ∀ r, s.handle? h = some r → r.tier = q) :
    Keeps [(h, k)] (if (s.offerQueue q h).1 then [] else [(h, k)]) s (s.offerQueue q h).2 := by
  unfold offerQueue
  split
  · exact keeps_joinQueue ⟨hk.1, hk.2.1⟩ htier fun e => absurd e hk.2.2
  · exact .refl _ s

/-! ## Blocks and closes -/

/-- The fragment record agrees with the frame after a block (R94). -/
theorem agrees_afterBlock {f : TxFragment} {r : Handle} (h : f.Agrees r) :
    ({ (afterBlock r f).2 with closing := s.closingAfter (afterBlock r f).1 (afterBlock r f).2 } : TxFragment).Agrees
      (afterBlock r f).1 := by
  obtain ⟨h1, h2, h3, h4, h5, -, -⟩ := h
  refine ⟨h1, h2, Nat.add_le_add_right h3 _, fun hk => ?_, fun hk => ?_, fun hl => ?_, fun hm => ?_⟩
  · obtain ⟨hi, hcar, hres⟩ := h4 hk
    exact ⟨hi, congrArg (· + blockOctets r) hcar, by simp [afterBlock, hres]⟩
  · have hhold : (afterBlock r f).1.resumeHold = (decide (f.carried < 128) && decide (f.carried + blockOctets r < 128)) :=
      congrArg (· && _) (h5 hk)
    refine hhold.trans ?_
    by_cases hlt : f.carried + blockOctets r < 128
    · rw [decide_eq_true (show f.carried < 128 by omega), Bool.true_and]
      rfl
    · rw [decide_eq_false hlt, Bool.and_false]
      exact (decide_eq_false hlt).symm
  · unfold closingAfter at hl
    dsimp only at hl
    split at hl
    · assumption
    · split at hl <;> cases hl
  · unfold closingAfter at hm
    dsimp only at hm
    split at hm
    · cases hm
    · split at hm
      · rename_i hcut
        obtain ⟨-, c2, c3, c4, c5, c6⟩ := cutCheck_iff.1 hcut
        exact ⟨c4, c5, c2, c3, c6⟩
      · cases hm

/-- A block of the active frame (R94). -/
theorem keeps_blockSent : Keeps [] [] s s.blockSent := by
  by_cases hn : ∀ h f, s.tx.active = some h → s.tx.fragment = some f → f.closing = .none → s.handle? h = none
  · rw [blockSent_of_none hn]
    exact .refl [] s
  · push Not at hn
    obtain ⟨h, f, ha, hf, hc, hne⟩ := hn
    obtain ⟨r, hr⟩ := Option.ne_none_iff_exists'.1 hne
    refine Keeps.of_orderly fun ho => ?_
    have hmem := mem_members_active ha
    have hk : r.holder = .trunkActive := Option.some.inj
      ((holderOf_of_handle? hr).symm.trans (ho.accounted.holderOf_of_member hmem))
    have hl := lawful_blockSent (s := s)
    rw [blockSent_eq ha hf hr hc] at hl ⊢
    generalize hu : ((s.setHandle h (afterBlock r f).1).withTx { s.tx with
        fragment := some { (afterBlock r f).2 with
          closing := s.closingAfter (afterBlock r f).1 (afterBlock r f).2 } }).sendTrunk
      (trunkData (s.bodySlice r r.sentOffset (afterBlock r f).1.sentOffset)) = u at hl ⊢
    have hr' : u.handle? h = some (afterBlock r f).1 := by rw [← hu]; exact setHandle_handle?_self ..
    have hother : ∀ j, j ≠ h → u.handle? j = s.handle? j := fun j hj => by rw [← hu]; exact setHandle_handle?_other _ _ hj
    have htx : u.tx = { s.tx with fragment := some { (afterBlock r f).2 with
          closing := s.closingAfter (afterBlock r f).1 (afterBlock r f).2 } } := by rw [← hu]; rfl
    have hqueue : ∀ q, u.queue q = s.queue q := fun q => by rw [← hu]; rfl
    have htier := tierOf_moved hr hr' rfl hother
    refine Moves.keeps (moves_frame hl (by decide) hr hr' hother ⟨rfl, rfl⟩ (fun e => by rw [hk] at e; cases e)
      (fun hs => hs.out_of_member hmem nofun) (fun a => ?_) (fun hrest hm => ?_) fun {Z'} ho' hcore => ?_)
      (fun _ _ hi hm => ?_) (fun _ _ hb hm => ?_) fun _ => fragmentOk_of (hl.frame.rx (by decide))
    · have hsame : u.memberCount a = s.memberCount a := by
        have h1 := memberCount_withTx (s := s.setHandle h (afterBlock r f).1) { s.tx with
          fragment := some { (afterBlock r f).2 with
            closing := s.closingAfter (afterBlock r f).1 (afterBlock r f).2 } } a
        have h2 (v : State) (l : List TrunkSymbol) : (v.sendTrunk l).memberCount a = v.memberCount a := rfl
        rw [← hu, h2]
        exact Nat.add_right_cancel h1
      rw [hsame]
      rfl
    · rw [htx] at hm
      have := (hrest hm).1
      rw [ha] at this
      cases this
    · have hrise := hcore.rising
      rw [ha] at hrise
      refine ⟨by rw [htx, ha]; rfl, by rw [htx]; simpa only [htier] using hcore.rising, fun j g rj haj hg hrj => ?_,
        fun j hj rj hrj => ?_, fun x j hj => ?_, fun j rj hrj => ?_⟩
      · rw [htx] at haj hg
        obtain rfl := Option.some.inj (ha.symm.trans haj)
        cases hg
        rw [hr'] at hrj
        cases hrj
        exact agrees_afterBlock (hcore.current h f r ha hf hr)
      · rw [htx] at hj
        have e : j ≠ h := by
          rintro rfl
          exact Tier.not_moreUrgent_self _ ((List.pairwise_cons.1 hrise).1 j hj)
        rw [hother j e] at hrj
        exact hcore.cut j hj rj hrj
      · rw [hqueue] at hj
        rw [htier]
        exact hcore.queued x j hj
      · by_cases e : j = h
        · subst e
          rw [hr'] at hrj
          cases hrj
          obtain ⟨h1, h2, -⟩ := hcore.ready j r hr
          refine ⟨?_, h2, fun hne => absurd hk hne⟩
          have : r.sentOffset + blockOctets r ≤ r.bodyLength := by unfold blockOctets; omega
          exact this
        · rw [hother j e] at hrj
          exact hcore.ready j rj hrj
    · rw [htx] at hm ⊢
      exact ⟨fun q => by rw [hqueue]; exact (hi hm).1 q, (hi hm).2⟩
    · rw [htx] at hm ⊢
      exact hb hm

/-- CLOSE MORE sends the active frame to the stack (R89, R96). -/
theorem moves_suspended {h : Nat} {f : TxFragment} {r : Handle} (ha : s.tx.active = some h) (hf : s.tx.fragment = some f)
    (hr : s.handle? h = some r) (hc : f.closing = .more) : Moves [] [] s (s.suspended h f r) := by
  refine Moves.of_orderly fun ho => ?_
  have hmem := mem_members_active ha
  have hk : r.holder = .trunkActive := Option.some.inj
    ((holderOf_of_handle? hr).symm.trans (ho.accounted.holderOf_of_member hmem))
  have hl : Lawful [.buf, .tx, .line] s (s.suspended h f r) :=
    ((lawful_sendTrunk (s.moreTrailer r f)).seq (lawful_setHandle (r := r)
      (r' := { r with nextIndex := r.nextIndex + 1, holder := .trunkSuspended }) hr rfl) (by decide)
      (ds := [.buf, .line])).seq (lawful_withTx { s.tx with active := none, fragment := none, stack := h :: s.tx.stack })
      (by decide)
  have hr' : (s.suspended h f r).handle? h = some { r with nextIndex := r.nextIndex + 1, holder := .trunkSuspended } :=
    setHandle_handle?_self ..
  have hother : ∀ j, j ≠ h → (s.suspended h f r).handle? j = s.handle? j := fun j hj => setHandle_handle?_other _ _ hj
  have htx : (s.suspended h f r).tx = { s.tx with active := none, fragment := none, stack := h :: s.tx.stack } := rfl
  have htier := tierOf_moved hr hr' rfl hother
  refine moves_frame hl (by decide) hr hr' hother ⟨rfl, rfl⟩ (fun e => by rw [hk] at e; cases e)
    (fun hs => hs.out_of_member hmem nofun) (fun a => ?_) (fun hrest hm => ?_) fun {Z'} ho' hcore => ?_
  · have h1 : (s.suspended h f r).memberCount a + s.tx.members.count a = s.memberCount a +
        (Transmitter.members { s.tx with active := none, fragment := none, stack := h :: s.tx.stack }).count a :=
      memberCount_withTx (s := (s.sendTrunk (s.moreTrailer r f)).setHandle h
        { r with nextIndex := r.nextIndex + 1, holder := .trunkSuspended }) _ a
    rw [hk]
    simp only [Transmitter.members, ha, Option.toList_none, Option.toList_some, List.map_nil, List.map_cons,
      List.cons_append, List.nil_append, List.count_cons, List.count_nil] at h1 ⊢
    omega
  · have := (hrest hm).1
    rw [ha] at this
    cases this
  · refine ⟨rfl, ?_, fun _ _ _ haj => (by cases haj), fun j hj rj hrj => ?_, fun x j hj => ?_, fun j rj hrj => ?_⟩
    · have := hcore.rising
      rw [ha] at this
      rw [htx]
      simp only [htier]
      exact this
    · by_cases e : j = h
      · subst e
        rw [hr'] at hrj
        cases hrj
        obtain ⟨-, -, -, -, -, -, hmore⟩ := hcore.current j f r ha hf hr
        obtain ⟨-, m2, m3, m4, m5⟩ := hmore hc
        exact ⟨m2, m3, m4, m5⟩
      · rw [hother j e] at hrj
        rw [htx] at hj
        exact hcore.cut j ((List.mem_cons.1 hj).resolve_left e) rj hrj
    · rw [htier]
      exact hcore.queued x j hj
    · by_cases e : j = h
      · subst e
        rw [hr'] at hrj
        cases hrj
        obtain ⟨h1, h2, -⟩ := hcore.ready j r hr
        exact ⟨h1, h2, fun _ hne => absurd rfl hne⟩
      · rw [hother j e] at hrj
        exact hcore.ready j rj hrj

theorem keeps_closeMoreSent : Keeps [] [] s s.closeMoreSent := by
  by_cases hn : ∀ h f, s.tx.active = some h → s.tx.fragment = some f → f.closing = .more → s.handle? h = none
  · rw [closeMoreSent_of_none hn]
    exact .refl [] s
  · push Not at hn
    obtain ⟨h, f, ha, hf, hc, hne⟩ := hn
    obtain ⟨r, hr⟩ := Option.ne_none_iff_exists'.1 hne
    rw [closeMoreSent_eq ha hf hr hc]
    exact (moves_suspended ha hf hr hc).serve (fun _ => fragmentOk_of rfl) (serves_select rfl)

theorem keeps_clearSent : Keeps [] [] s s.clearSent := by
  unfold clearSent
  split
  · rename_i hm
    refine Keeps.of_orderly fun ho => ?_
    have hrest := ho.rested (by rw [hm]; exact nofun)
    exact (keeps_sendTrunk [.clear]).trans (serves_select (s := s.sendTrunk [.clear]) hrest.1).keeps
  · exact .refl [] s

theorem keeps_countToTrunk (o : Option StreamIx) (n : Nat) : Keeps [] [] s (s.countToTrunk o n) :=
  keeps_of_frame (lawful_countToTrunk o n) (by decide)

/-- CLOSE LAST releases the active frame (R100). -/
theorem moves_completed {h : Nat} {f : TxFragment} {r : Handle} (ha : s.tx.active = some h) :
    Moves [] [] s (s.completed h f r) := by
  have hsent : Keeps [] [] s ((s.sendTrunk (s.lastTrailer r f)).countToTrunk r.stream r.bodyLength) :=
    (keeps_sendTrunk _).trans (keeps_countToTrunk ..)
  have htx : ((s.sendTrunk (s.lastTrailer r f)).countToTrunk r.stream r.bodyLength).tx = s.tx :=
    (lawful_countToTrunk (s := s.sendTrunk (s.lastTrailer r f)) r.stream r.bodyLength).frame.tx (by decide)
  have hcompl : s.completed h f r =
      (((s.sendTrunk (s.lastTrailer r f)).countToTrunk r.stream r.bodyLength).withTx
        { s.tx with active := none, fragment := none }).release h := rfl
  rw [hcompl]
  generalize (s.sendTrunk (s.lastTrailer r f)).countToTrunk r.stream r.bodyLength = u at hsent htx ⊢
  rw [← htx] at ha ⊢
  refine hsent.moves.trans (.trans (Y' := [(h, .trunkActive)]) ?_ keeps_release.moves)
  refine moves_withTx (fun hrest hm => ?_) (fun a => ?_) fun ho hc => ⟨rfl, ?_, fun _ _ _ haj => (by cases haj), hc.cut,
    hc.queued, hc.ready⟩
  · have := (hrest hm).1
    rw [ha] at this
    cases this
  · simp only [Transmitter.members, ha, Option.toList_none, Option.toList_some, List.map_nil, List.map_cons,
      List.nil_append, List.cons_append, List.count_cons, List.count_nil]
    omega
  · have := hc.rising
    rw [ha] at this
    exact (List.pairwise_cons.1 this).2

/-- The selection after a completion serves the transmitter, unless the release event has taken it elsewhere. -/
theorem keeps_selectAfterClose {u : State} (h : Moves [] [] s u)
    (hidle : ∀ {Z}, Orderly Z s → TxCore s → s.IdleOk → u.IdleOk)
    (hfragment : ∀ {Z}, Orderly Z s → s.FragmentOk → u.FragmentOk) : Keeps [] [] s u.selectAfterClose := by
  unfold selectAfterClose
  split
  · rename_i hm
    exact h.serve hfragment (serves_select hm.2)
  · rename_i hm
    refine h.keeps hidle (fun _ _ _ hs => ?_) hfragment
    rcases ha : u.tx.active with _ | h
    · exact absurd ⟨hs, ha⟩ hm
    · rfl

/-! ## Trunk loss (R103, R104) -/

/-- The frames of the trunk are taken off it. -/
theorem moves_takeFrames : Moves [] s.tx.members s
    (s.withTx { mode := .offline, active := none, fragment := none, stack := [] }) :=
  moves_withTx (fun _ _ => ⟨rfl, rfl, rfl⟩) (fun a => (by simp [Transmitter.members])) fun _ hc =>
    ⟨rfl, .nil, fun _ _ _ haj => (by cases haj), fun _ hj => (by cases hj), hc.queued, hc.ready⟩

/-- A frame caught on the trunk goes back to its queue, or is discarded (R103). -/
theorem moves_returnFrame {acc : State × Nat × Nat} {h : Nat} {k : Holder}
    (hk : k = .trunkActive ∨ k = .trunkSuspended) (hoff : acc.1.tx.active = none ∧ acc.1.tx.stack = []) :
    Moves [(h, k)] [] acc.1 (returnFrame acc h).1 := by
  obtain ⟨s, back, gone⟩ := acc
  refine Moves.of_orderly fun ho => ?_
  obtain ⟨r, hr, rfl⟩ := handle?_of_holderOf (ho.accounted.holderOf_of_mem (h := h) (k := k) (by simp))
  simp only [returnFrame, hr]
  split
  · rename_i hcount
    have hl : Lawful [.buf, .queues] s ((s.setMembers r.tier (h :: (s.queue r.tier).members)).setHandle h
        { r with restartCount := r.restartCount + 1, sentOffset := 0, nextIndex := 0, resumeHold := false
                 holder := .tierQueue r.tier }) :=
      (lawful_setMembers _ _).seq (lawful_setHandle (r := r) (hr ▸ handle?_of_buf (by simp) _) rfl) (by decide)
    generalize hu : (s.setMembers r.tier (h :: (s.queue r.tier).members)).setHandle h
        { r with restartCount := r.restartCount + 1, sentOffset := 0, nextIndex := 0, resumeHold := false
                 holder := .tierQueue r.tier } = u at hl ⊢
    have hr' : u.handle? h = some { r with
        restartCount := r.restartCount + 1, sentOffset := 0, nextIndex := 0, resumeHold := false
        holder := .tierQueue r.tier } := by rw [← hu]; exact setHandle_handle?_self ..
    have hother : ∀ j, j ≠ h → u.handle? j = s.handle? j := fun j hj => by rw [← hu]; exact setHandle_handle?_other _ _ hj
    have htx : u.tx = s.tx := by rw [← hu]; rfl
    have hqueue : ∀ x, u.queue x = (s.setMembers r.tier (h :: (s.queue r.tier).members)).queue x := fun x => by
      rw [← hu]; rfl
    have htier := tierOf_moved hr hr' rfl hother
    refine moves_frame hl (by decide) hr hr' hother ⟨rfl, rfl⟩
      (fun e => by rcases hk with hk | hk <;> rw [hk] at e <;> cases e)
      (fun hs => ⟨(Own.of_between hs).aside, (Own.of_between hs).context⟩) (fun a => ?_) (rested_of htx)
      fun {Z'} ho' hc => ?_
    · have h1 := memberCount_setMembers (s := s) r.tier (h :: (s.queue r.tier).members) a
      have h2 : u.memberCount a = (s.setMembers r.tier (h :: (s.queue r.tier).members)).memberCount a := by
        rw [← hu]; rfl
      rw [List.map_cons, List.count_cons] at h1
      simp only [List.nil_append, List.count_append, List.count_singleton] at h1 ⊢
      omega
    · refine ⟨by rw [htx]; exact hc.fragment, by rw [htx]; simpa only [htier] using hc.rising, fun j f rj haj => ?_,
        fun j hj => ?_, fun x j hj => ?_, fun j rj hrj => ?_⟩
      · rw [htx, hoff.1] at haj; cases haj
      · rw [htx, hoff.2] at hj; cases hj
      · rw [htier]
        rw [hqueue] at hj
        by_cases e : x = r.tier
        · subst e
          rw [setMembers_queue_self] at hj
          rcases List.mem_cons.1 hj with rfl | hj
          · simp only [tierOf, hr]
          · exact hc.queued _ j hj
        · rw [setMembers_queue_other _ _ e] at hj
          exact hc.queued x j hj
      · by_cases e : j = h
        · subst e
          rw [hr'] at hrj
          cases hrj
          exact ⟨Nat.zero_le _, hcount, fun _ _ => ⟨rfl, rfl, rfl⟩⟩
        · rw [hother j e] at hrj
          exact hc.ready j rj hrj
  · exact (keeps_discard _).moves

theorem moves_returnFrames {l : List (Nat × Holder)} (hl : ∀ a ∈ l, a.2 = .trunkActive ∨ a.2 = .trunkSuspended)
    {acc : State × Nat × Nat} (hoff : acc.1.tx.active = none ∧ acc.1.tx.stack = []) :
    Moves l [] acc.1 ((l.map Prod.fst).foldl returnFrame acc).1 := by
  induction l generalizing acc with
  | nil => exact (Keeps.refl [] acc.1).moves
  | cons a l ih =>
    have htx : (returnFrame acc a.1).1.tx = acc.1.tx := (lawful_returnFrame acc a.1).frame.tx (by decide)
    have hfirst := moves_returnFrame (acc := acc) (h := a.1) (hl a List.mem_cons_self) hoff
    refine .trans (Y' := l) ⟨fun ho => hfirst.orderly ho, fun ho b hb => hfirst.aside ho b (List.mem_append_right _ hb),
      fun ho => hfirst.fits ho, fun ho => hfirst.core ho⟩ ?_
    exact ih (fun b hb => hl b (List.mem_cons_of_mem _ hb)) (by rwa [htx])

theorem members_transmitter_fst (v : Transmitter) : v.members.map Prod.fst = v.active.toList ++ v.stack := by
  simp [Transmitter.members, Function.comp_def]

/-- A trunk loss (R103, R104). -/
theorem moves_transmitterLoss : Moves [] [] s s.transmitterLoss.1 := by
  have hl : ∀ a ∈ s.tx.members, a.2 = .trunkActive ∨ a.2 = .trunkSuspended := by
    intro a ha
    rcases List.mem_append.1 ha with ha | ha <;> obtain ⟨_, -, rfl⟩ := List.mem_map.1 ha
    · exact .inl rfl
    · exact .inr rfl
  have hfold := moves_takeFrames.trans (moves_returnFrames hl
    (acc := (s.withTx { mode := .offline, active := none, fragment := none, stack := [] }, 0, 0)) ⟨rfl, rfl⟩)
  rwa [members_transmitter_fst] at hfold

end State

end Sys2Proof.Machine
end

section
/-! PROOFS. The orderly moves of the frames the part builds, of the flushes and of the soft restart. -/

namespace Sys2Proof.Machine.State

variable {s t : State} {Y Y' Z : List (Nat × Holder)}

/-! ## Frames the part builds (R9, R151, R179) -/

/-- A frame being built with the cells of `n` octets (R9). -/
def Building (s : State) (h n : Nat) : Prop :=
  ∃ r, s.handle? h = some r ∧ r.tier = .t0 ∧ r.bodyLength = 0 ∧ r.chain.length = cellsFor n

theorem Building.congr {h n : Nat} (hs : s.Building h n) (he : t.handle? h = s.handle? h) : t.Building h n := by
  obtain ⟨r, hr, hb⟩ := hs
  exact ⟨r, he.trans hr, hb⟩

/-- A compound claim grants a frame to be built (R9). -/
theorem keeps_claimCompound {tag : Tag} {n h : Nat} (hc : s.claimCompound tag n = some (h, t)) :
    Keeps [] [(h, .agentBuild)] s t := by
  refine Keeps.of_orderly fun ho => ?_
  obtain ⟨hh, hcells, rfl⟩ := claimCompound_some hc
  obtain ⟨u, cells, hc', -, -, hfree, hr', hother, -⟩ := claimCompound_granted ho.stores tag hh hcells
  obtain rfl : t = u := congrArg Prod.snd (Option.some.inj (hc.symm.trans hc'))
  have hl := lawful_claimCompound hc
  refine keeps_touch hl.stores (hl.frame.rx (by decide)) (hl.frame.tx (by decide))
    (fun q => by rw [queue_of_queues (hl.frame.queues (by decide))]) hother (fun ha => .of_free ha hfree) (fun ha => ?_)
    (fun r' hr'' hk => ?_) (fun r' hr'' _ => ?_)
  · exact ha.rehold (o := some .agentBuild) (holderOf_of_handle? hr') (by rw [holderOf_eq_none.2 hfree]; rfl)
      (fun j hj => holderOf_congr (hother j hj)) (memberCount_of_frame hl.frame (by decide))
  · rw [hr'] at hr''
    cases hr''
    exact absurd rfl hk
  · rw [hr'] at hr''
    cases hr''
    exact ready_granted .agentBuild tag .t0 none

theorem building_of_claim (hs : StoresOk s) {tag : Tag} {n h : Nat} (hc : s.claimCompound tag n = some (h, t)) :
    t.Building h n := by
  obtain ⟨hh, hcells, rfl⟩ := claimCompound_some hc
  obtain ⟨u, cells, hc', -, hlen, -, hr', -⟩ := claimCompound_granted hs tag hh hcells
  obtain rfl : t = u := congrArg Prod.snd (Option.some.inj (hc.symm.trans hc'))
  exact ⟨_, hr', rfl, rfl, hlen⟩

theorem storeOctets_handle?_other (l : List Byte) {h j : Nat} (hj : j ≠ h) :
    (s.storeOctets h l).handle? j = s.handle? j := by
  induction l generalizing s with
  | nil => rfl
  | cons b l ih =>
    refine (ih (s := s.storeOctet h b)).trans ?_
    rcases hr : s.handle? h with _ | r
    · simp [storeOctet, hr]
    · exact (storeOctet_spec s b hr).2.1 j hj

theorem storeOctets_handle?_self (l : List Byte) {h : Nat} {r : Handle} (hr : s.handle? h = some r) :
    (s.storeOctets h l).handle? h = some { r with bodyLength := r.bodyLength + l.length } := by
  induction l generalizing s r with
  | nil => exact hr
  | cons b l ih =>
    refine (ih (storeOctet_spec s b hr).1).trans ?_
    simp only [List.length_cons, Nat.add_assoc, Nat.add_comm 1]

/-- A frame being built takes its octets and joins the T0 queue (R151, R178). -/
theorem keeps_joinBuilt {h : Nat} {l : List Byte} (hb : s.Building h l.length) :
    Keeps [(h, .agentBuild)] [] s ((s.storeOctets h l).joinQueue .t0 h) := by
  obtain ⟨r, hr, htier, hlen, hchain⟩ := hb
  have hr' := storeOctets_handle?_self l hr
  refine .trans (Y' := [(h, .agentBuild)]) ?_ (keeps_joinQueue ⟨nofun, nofun⟩ (fun q hq => ?_) fun _ q hq => ?_)
  · refine Keeps.of_orderly fun {Z} ho => ?_
    have hk : r.holder = .agentBuild := Option.some.inj ((holderOf_of_handle? hr).symm.trans
      (ho.accounted.holderOf_of_mem (h := h) (k := .agentBuild) (by simp)))
    exact keeps_octets (lawful_storeOctets h l) hr hr' (fun j hj => storeOctets_handle?_other l hj)
      ⟨_, _, rfl, Nat.le_add_right _ _⟩ (fun ha => .of_between ha) fun hne => absurd hk hne
  · rw [hr'] at hq
    cases hq
    exact htier
  · rw [hr'] at hq
    cases hq
    show r.chain.length = cellsFor (r.bodyLength + l.length)
    rw [hchain, hlen, Nat.zero_add]

/-! ## The notice queue (chapter 9) -/

theorem keeps_withNotices (v : NoticeQueue) : Keeps [] [] s (s.withNotices v) :=
  keeps_of_frame (lawful_withNotices v) (by decide)

theorem noticeDetail_length (n : Notice) : (noticeDetail n).length = 4 := by
  unfold noticeDetail
  split <;> rfl

theorem noticeBody_length (n : Notice) (q : Byte) (k : Nat) (l : Byte) : (s.noticeBody n q k l).length = noticeOctets := by
  simp [noticeBody, octets2, noticeDetail_length, noticeOctets]

theorem keeps_sendOldest (q : Byte) (k : Nat) (l c : Byte) : Keeps [] [] s (s.sendOldest q k l c) := by
  unfold sendOldest
  split
  · exact .refl [] s
  · split
    · exact keeps_withNotices _
    · rename_i r rest _ _ h s1 hc
      refine Keeps.of_orderly fun ho => ?_
      refine (keeps_claimCompound hc).trans (.trans ((keeps_withNotices { s.notices with
          records := { r with state := .sent q k l } :: rest
          counter := c, pending := false, timer := .running 0 }).frame _) (keeps_joinBuilt ?_))
      rw [noticeBody_length]
      exact (building_of_claim ho.stores hc).congr rfl

theorem keeps_sendFirst : Keeps [] [] s s.sendFirst := keeps_sendOldest ..

theorem keeps_resend : Keeps [] [] s s.resend := by
  unfold resend
  split
  · exact keeps_sendOldest ..
  · exact .refl [] s

theorem keeps_noticeAttempt : Keeps [] [] s s.noticeAttempt := by
  unfold noticeAttempt
  split
  · exact keeps_sendFirst
  · exact .refl [] s

theorem keeps_noticeRetry : Keeps [] [] s s.noticeRetry := by
  unfold noticeRetry
  split
  · split
    · exact .refl [] s
    · split
      · exact keeps_resend
      · exact keeps_sendFirst
  · exact .refl [] s

theorem keeps_raiseNotice (n : Notice) : Keeps [] [] s (s.raiseNotice n) := by
  unfold raiseNotice
  split
  · exact keeps_withNotices _
  · split
    · exact keeps_withNotices _
    · exact (keeps_withNotices _).trans keeps_noticeAttempt

theorem keeps_noticeResume : Keeps [] [] s s.noticeResume := by
  unfold noticeResume
  split
  · exact keeps_noticeRetry
  · exact keeps_noticeAttempt

theorem keeps_syncTimer : Keeps [] [] s s.syncTimer := keeps_of_frame lawful_syncTimer (by decide)

theorem keeps_resendExpiry : Keeps [] [] s s.resendExpiry := by
  unfold resendExpiry
  split
  · split
    · exact keeps_resend
    · exact ((keeps_withNotices _).trans (keeps_withNotices _)).trans keeps_noticeAttempt
  · exact .refl [] s

/-! ## Flushes (R19, R53, R54) -/

theorem keeps_flushFrames (c : Cause) (retry : Bool) (l : List (Nat × Holder)) :
    Keeps l [] s (s.flushFrames c retry (l.map Prod.fst)) := by
  induction l generalizing s with
  | nil => exact .refl [] s
  | cons a l ih =>
    refine .trans (Y' := l) ?_ ih
    refine .trans (Y' := l) ((keeps_discardQuiet (h := a.1) (k := a.2) c).frame_append l) ?_
    split
    · exact keeps_noticeRetry.frame l
    · exact .refl l _

theorem keeps_flushHolder (c : Cause) (retry : Bool) (k : Holder) (l : List Nat) :
    Keeps (l.map fun h => (h, k)) [] s (s.flushFrames c retry l) := by
  have := keeps_flushFrames (s := s) c retry (l.map fun h => (h, k))
  rwa [List.map_map, show Prod.fst ∘ (fun h => (h, k)) = @id Nat from rfl, List.map_id] at this

/-- The handle of an ingress (R40). -/
def ingressMembers (p : Port) : Ingress → List (Nat × Holder)
  | .receiving h _ => [(h, .ingress p)]
  | _ => []

theorem members_ingress (p : Port) (v : PortState) :
    v.members p = ingressMembers p v.ingress ++ v.egress.map fun h => (h, .egress p) := by
  unfold PortState.members
  rcases v.ingress with _ | _ | _ | _ <;> rfl

/-- An ingress takes another state, its handle going or coming (R40). -/
theorem keeps_setIngress {p : Port} {v : Ingress}
    (h : ∀ a, (ingressMembers p v).count a + Y'.count a = (ingressMembers p (s.port p).ingress).count a + Y.count a) :
    Keeps Y Y' s (s.setIngress p v) :=
  keeps_setPort fun a => by
    have := h a
    simp only [members_ingress, List.count_append]
    omega

/-- An ingress gives its frame up. -/
theorem keeps_leaveIngress {p : Port} {v : Ingress} (hv : ingressMembers p v = []) :
    Keeps [] (ingressMembers p (s.port p).ingress) s (s.setIngress p v) :=
  keeps_setIngress fun a => by rw [hv]; simp

theorem keeps_leaveReceiving {p : Port} {v : Ingress} {h : Nat} {l : List Byte} (hv : ingressMembers p v = [])
    (hi : (s.port p).ingress = .receiving h l) : Keeps [] [(h, .ingress p)] s (s.setIngress p v) := by
  have := keeps_leaveIngress (s := s) (p := p) hv
  rwa [hi] at this

theorem keeps_leaveEmpty {p : Port} {v : Ingress} (hv : ingressMembers p v = [])
    (hi : ingressMembers p (s.port p).ingress = []) : Keeps [] [] s (s.setIngress p v) := by
  have := keeps_leaveIngress (s := s) (p := p) hv
  rwa [hi] at this

theorem keeps_sendTrib (p : Port) (l : List TribSymbol) : Keeps [] [] s (s.sendTrib p l) :=
  keeps_setPort fun _ => rfl

theorem keeps_flushIngress (p : Port) (retry : Bool) : Keeps [] [] s (s.flushIngress p retry) := by
  unfold flushIngress
  dsimp only
  split
  · exact .refl [] s
  · rename_i hi
    exact (keeps_leaveEmpty rfl (by rw [hi]; rfl)).trans (keeps_countDiscard ..)
  · rename_i h l hi
    exact (keeps_leaveReceiving rfl hi).trans (keeps_flushHolder .flush retry (.ingress p) [h])
  · rename_i hi
    exact keeps_leaveEmpty rfl (by rw [hi]; rfl)

/-- An egress queue gives up some of its frames. -/
theorem keeps_cutEgress {p : Port} {v : PortState} {kept gone : List Nat} (hi : v.ingress = (s.port p).ingress)
    (hv : v.egress = kept) (he : (s.port p).egress = kept ++ gone) :
    Keeps [] (gone.map fun h => (h, .egress p)) s (s.setPort p v) :=
  keeps_setPort fun a => by
    simp only [members_ingress, hi, hv, he, List.map_append, List.count_append, List.count_nil]
    omega

theorem keeps_flushEgress (p : Port) (retry : Bool) : Keeps [] [] s (s.flushEgress p retry) := by
  unfold flushEgress
  split
  · exact .refl [] s
  · refine .trans ?_ (keeps_flushHolder .flush retry (.egress p) _)
    exact .trans (keeps_cutEgress (v := { s.port p with egress := [] }) (kept := []) rfl rfl rfl)
      ((keeps_sendTrib p [.closeAbort, .idle]).frame _)

theorem keeps_resetPort (p : Port) (retry : Bool) : Keeps [] [] s (s.resetPort p retry) :=
  (keeps_flushIngress p retry).trans (keeps_flushEgress p retry)

theorem keeps_writeEnabled (p : Port) (on : Bool) : Keeps [] [] s (s.writeEnabled p on) := by
  unfold writeEnabled
  dsimp only
  split
  · exact .trans (keeps_cutEgress (v := { s.port p with enabled := false, egress := (s.port p).egress.take 1 })
      (kept := (s.port p).egress.take 1) (gone := (s.port p).egress.drop 1) rfl rfl (List.take_append_drop ..).symm)
      (keeps_flushHolder .portDisabled true (.egress p) _)
  · exact keeps_setPort fun _ => rfl

theorem keeps_foldl {α : Type} {f : State → α → State} (hf : ∀ s a, Keeps [] [] s (f s a)) (l : List α) (s : State) :
    Keeps [] [] s (l.foldl f s) := by
  induction l generalizing s with
  | nil => exact .refl [] s
  | cons a l ih => exact (hf s a).trans (ih _)

/-! ## The soft restart (R19) -/

/-- A tier queue gives up its frames. -/
theorem keeps_emptyQueue (q : Tier) :
    Keeps [] ((s.queue q).members.map fun h => (h, .tierQueue q)) s (s.setMembers q []) := by
  have hsub : ∀ x, (∀ h ∈ ((s.setMembers q []).queue x).members, h ∈ (s.queue x).members) := by
    intro x h hm
    by_cases e : x = q
    · subst e; rw [setMembers_queue_self] at hm; cases hm
    · rwa [setMembers_queue_other _ _ e] at hm
  refine ⟨fun ho => ⟨storesOk_of_buf ho.stores rfl, ho.rested, contextsOk_of ho.rx rfl fun _ _ _ _ _ => rfl, fun j k => ?_⟩,
    fun _ _ _ => rfl, fun _ => id, fun _ hc => ⟨hc.fragment, hc.rising, hc.current, hc.cut, fun x h hm =>
    hc.queued x h (hsub x h hm), hc.ready⟩, fun _ _ hi hm => ⟨fun x => ?_, (hi hm).2⟩, fun _ _ => id, fun _ => id⟩
  · have hs := ho.accounted j k
    have h1 := memberCount_setMembers (s := s) q [] (j, k)
    rw [List.map_nil, List.count_nil] at h1
    rw [List.nil_append] at hs
    rw [holderOf_congr (s := s) (t := s.setMembers q []) rfl, List.count_append]
    omega
  · refine List.eq_nil_iff_forall_not_mem.2 fun h hmem => ?_
    have := hsub x h hmem
    rw [(hi hm).1 x] at this
    cases this

/-- The frames of the tier queues. -/
def queueMembers (s : State) : List (Nat × Holder) :=
  Tier.all.flatMap fun q => (s.queue q).members.map fun h => (h, .tierQueue q)

theorem queueMembers_fst : s.queueMembers.map Prod.fst = Tier.all.flatMap fun q => (s.queue q).members := by
  simp [queueMembers, List.map_flatMap, Function.comp_def]

theorem keeps_emptyQueues (l : List Tier) (hn : l.Nodup) (s : State) :
    Keeps [] (l.flatMap fun q => (s.queue q).members.map fun h => (h, .tierQueue q)) s
      (l.foldl (fun s q => s.setMembers q []) s) := by
  induction l generalizing s with
  | nil => exact .refl [] s
  | cons q l ih =>
    obtain ⟨hq, hl⟩ := List.nodup_cons.1 hn
    have hrest : (l.flatMap fun x => ((s.setMembers q []).queue x).members.map fun h => (h, Holder.tierQueue x)) =
        l.flatMap fun x => (s.queue x).members.map fun h => (h, Holder.tierQueue x) :=
      List.flatMap_congr fun x hx => by rw [setMembers_queue_other _ _ fun e => hq (by rwa [← e])]
    have hih := ih hl (s.setMembers q [])
    rw [hrest] at hih
    refine (keeps_emptyQueue q).trans (.trans (hih.frame_append _) (keeps_recount fun a => ?_))
    rw [List.flatMap_cons, List.count_append, List.count_append]
    omega

theorem keeps_restartTransmitter : Keeps [] [] s s.restartTransmitter := by
  have hqueues := keeps_emptyQueues Tier.all (by decide) s
  have htx : (Tier.all.foldl (fun s q => s.setMembers q []) s).tx = s.tx := rfl
  have hmode : ((if s.line.link = .up then TxMode.clearing else .offline) : TxMode) ≠ .sending ∧
      ((if s.line.link = .up then TxMode.clearing else .offline) : TxMode) ≠ .idle := by split <;> exact ⟨nofun, nofun⟩
  have hflush : s.restartTransmitter = ((Tier.all.foldl (fun s q => s.setMembers q []) s).withTx
      { mode := if s.line.link = .up then .clearing else .offline
        active := none, fragment := none, stack := [] }).flushFrames .flush false
      ((s.queueMembers ++ s.tx.members).map Prod.fst) := by
    rw [List.map_append, queueMembers_fst, members_transmitter_fst, ← List.append_assoc]
    rfl
  rw [hflush]
  refine .trans (.trans hqueues ?_) (keeps_flushFrames .flush false _)
  generalize Tier.all.foldl (fun s q => s.setMembers q []) s = u at htx ⊢
  refine .trans (Y' := s.tx.members ++ s.queueMembers) (Keeps.frame_append (Y := []) ?_ _)
    (keeps_recount fun a => by rw [List.count_append, List.count_append, Nat.add_comm])
  refine Moves.keeps (moves_withTx (fun _ _ => ⟨rfl, rfl, rfl⟩) (fun a => ?_) fun _ hc =>
    ⟨rfl, .nil, fun _ _ _ haj => (by cases haj), fun _ hj => (by cases hj), hc.queued, hc.ready⟩)
    (fun _ _ _ hm => absurd hm hmode.2) (fun _ _ _ hm => absurd hm hmode.1) fun _ => id
  rw [htx]
  simp [Transmitter.members]

/-- A context takes another value, its frame going or coming. -/
theorem moves_setContext {q : Tier} {c : Context}
    (hc : ∀ {Z}, Orderly (Y ++ Z) s → ∀ a, c = .opened a → s.HoldsAssembly q a)
    (hcount : ∀ a, (c.members q).count a + Y'.count a = ((s.context q).members q).count a + Y.count a) :
    Moves Y Y' s (s.setContext q c) := by
  refine ⟨fun ho => ⟨storesOk_of_buf ho.stores rfl, ho.rested, fun x a hx => ?_, fun j k => ?_⟩, fun _ _ _ => rfl,
    fun _ => id, fun _ hcore => ⟨hcore.fragment, hcore.rising, hcore.current, hcore.cut, hcore.queued, hcore.ready⟩⟩
  · by_cases e : x = q
    · subst e
      rw [setContext_context_self] at hx
      exact hc ho a hx
    · rw [setContext_context_other _ _ e] at hx
      exact ho.rx x a hx
  · have hs := ho.accounted j k
    have h1 := memberCount_setContext (s := s) q c (j, k)
    have h2 := hcount (j, k)
    rw [List.count_append] at hs ⊢
    rw [holderOf_congr (s := s) (t := s.setContext q c) rfl]
    omega

/-- A context is closed or given up, its frame between two collections. -/
theorem moves_closeContext {q : Tier} {c : Context} (hc : ∀ a, c ≠ .opened a) :
    Moves [] ((s.context q).members q) s (s.setContext q c) := by
  refine moves_setContext (fun _ a e => absurd e (hc a)) fun a => ?_
  have : c.members q = [] := by
    rcases c with _ | a | g
    · rfl
    · exact absurd rfl (hc a)
    · rfl
  rw [this]
  simp

theorem moves_setFragment (o : Option RxFragment) : Moves [] [] s (s.setFragment o) :=
  ⟨fun ho => ⟨storesOk_of_buf ho.stores rfl, ho.rested, ho.rx, ho.accounted⟩, fun _ _ _ => rfl, fun _ => id,
    fun _ hc => ⟨hc.fragment, hc.rising, hc.current, hc.cut, hc.queued, hc.ready⟩⟩

theorem moves_foldl {α : Type} {f : State → α → State} (hf : ∀ s a, Moves [] [] s (f s a)) (l : List α) (s : State) :
    Moves [] [] s (l.foldl f s) := by
  induction l generalizing s with
  | nil => exact (Keeps.refl [] s).moves
  | cons a l ih => exact (hf s a).trans (ih _)

theorem moves_restartContext (q : Tier) : Moves [] [] s (s.restartContext q) := by
  have hclose := moves_closeContext (s := s) (q := q) (c := .closed) fun _ => nofun
  unfold restartContext
  split
  · rename_i a ha
    rw [ha, Context.members_opened] at hclose
    split
    · rename_i h hh
      rw [hh] at hclose
      exact hclose.trans (keeps_discardQuiet .flush).moves
    · rename_i hh
      rw [hh] at hclose
      exact hclose.trans (keeps_countDiscard ..).moves
  · rename_i hno
    refine moves_setContext (fun _ a e => nomatch e) fun a => ?_
    rcases hx : s.context q with _ | a | g
    · rfl
    · exact absurd hx (hno a)
    · rfl

/-- A receiver with every context CLOSED and no fragment is in order. -/
theorem fragmentOk_of_closed (hf : s.rx.fragment = none) (hc : ∀ q, s.context q = .closed) : s.FragmentOk :=
  ⟨fun f h => (by rw [hf] at h; cases h), fun q a h => (by rw [hc q] at h; cases h)⟩

end Sys2Proof.Machine.State
end

section
/-! PROOFS. The orderly moves of the agent, of the ports and of time. -/

namespace Sys2Proof.Machine.State

variable {s t : State} {Y Y' Z : List (Nat × Holder)}

/-! ## The soft restart (R19) -/

theorem restartContext_self (q : Tier) : (s.restartContext q).context q = .closed := by
  unfold restartContext
  split
  · split
    · rw [context_of_rx ((lawful_discardQuiet .flush _).frame.rx (by decide))]; exact setContext_context_self ..
    · rw [context_of_rx ((lawful_countDiscard .flush none).frame.rx (by decide))]; exact setContext_context_self ..
  · exact setContext_context_self ..

theorem restartContext_other {q x : Tier} (h : x ≠ q) : (s.restartContext q).context x = s.context x := by
  unfold restartContext
  split
  · split
    · rw [context_of_rx ((lawful_discardQuiet .flush _).frame.rx (by decide)), setContext_context_other _ _ h]
    · rw [context_of_rx ((lawful_countDiscard .flush none).frame.rx (by decide)), setContext_context_other _ _ h]
  · exact setContext_context_other _ _ h

theorem restartReceiver_closed (q : Tier) : s.restartReceiver.context q = .closed := by
  show ((((s.restartContext .t0).restartContext .t1).restartContext .t2).restartContext .t3).context q = .closed
  cases q
  · rw [restartContext_other (x := .t0) (by decide), restartContext_other (x := .t0) (by decide),
      restartContext_other (x := .t0) (by decide), restartContext_self]
  · rw [restartContext_other (x := .t1) (by decide), restartContext_other (x := .t1) (by decide), restartContext_self]
  · rw [restartContext_other (x := .t2) (by decide), restartContext_self]
  · rw [restartContext_self]

theorem keeps_restartReceiver : Keeps [] [] s s.restartReceiver :=
  ((moves_foldl (fun _ q => moves_restartContext q) Tier.all s).trans (moves_setFragment none)).keeps_rx
    lawful_restartReceiver (by decide) fun _ _ => fragmentOk_of_closed rfl restartReceiver_closed

theorem keeps_restartAgent : Keeps [] [] s s.restartAgent := by
  have hcut : Keeps [] ((s.agent.inbox.drop 1).map fun h => (h, .inbox)) s s.cutAgent :=
    keeps_withAgent fun a => by
      rw [← List.count_append, ← List.map_append, List.take_append_drop]
      rfl
  exact (hcut.trans (keeps_flushHolder .flush false .inbox _)).trans
    (keeps_of_frame (lawful_withPart _ rfl) (by decide))

theorem keeps_softRestart : Keeps [] [] s s.softRestart := by
  refine Keeps.trans ?_ (keeps_of_frame lawful_restartNotices (by decide))
  refine Keeps.trans ?_ (keeps_of_frame lawful_restartMetering (by decide))
  refine Keeps.trans ?_ keeps_restartAgent
  refine Keeps.trans ?_ keeps_restartReceiver
  exact (keeps_foldl (fun _ p => keeps_resetPort p false) allPorts s).trans keeps_restartTransmitter

/-! ## Carrying out (R151 step 1) -/

theorem keeps_writeFrom {α : Type} {f : State → Nat → α → State} (hf : ∀ s i a, Keeps [] [] s (f s i a)) (l : List α)
    (i : Nat) (s : State) : Keeps [] [] s (writeFrom f s i l) := by
  induction l generalizing s i with
  | nil => exact .refl [] s
  | cons a l ih => exact (hf s i a).trans (ih (i + 1) (f s i a))

theorem keeps_setLimit (q : Tier) (n : Nat) : Keeps [] [] s (s.setQueue q { s.queue q with limit := n }) := by
  have hq : ∀ x, ((s.setQueue q { s.queue q with limit := n }).queue x).members = (s.queue x).members := fun x => by
    by_cases e : x = q
    · subst e; rw [setQueue_queue_self]
    · rw [setQueue_queue_other _ _ e]
  exact keeps_regroup rfl rfl rfl hq fun a =>
    congrArg (· + 0) (memberCount_congr (s := s) (t := s.setQueue q { s.queue q with limit := n }) (fun _ => rfl) hq rfl
      (fun _ => rfl) rfl a)

theorem keeps_writeEntries (first : Nat) (w : Written) : Keeps [] [] s (s.writeEntries first w) := by
  cases w with
  | streams l =>
    exact keeps_writeFrom (f := State.writeStreamEntry) (fun s i e =>
      keeps_of_changes (bs := [.streams, .metering]) (by simp [ChangesOnly, writeStreamEntry]) (by decide)) l first s
  | allots l =>
    exact keeps_writeFrom (f := State.setRecord) (fun s i e =>
      keeps_of_changes (bs := [.metering]) (by simp [ChangesOnly]) (by decide)) l first s
  | tallies l =>
    exact keeps_writeFrom (f := State.setTally) (fun s i e =>
      keeps_of_changes (bs := [.tallies]) (by simp [ChangesOnly]) (by decide)) l first s
  | tiers l =>
    exact keeps_writeFrom (f := fun s i n => s.setQueue (Tier.ofIx (Fin.ofNat 4 i))
      { s.queue (Tier.ofIx (Fin.ofNat 4 i)) with limit := n }) (fun s i n => keeps_setLimit _ n) l first s
  | ports l => exact keeps_writeFrom (fun s i on => keeps_writeEnabled _ on) l first s
  | parts l =>
    exact keeps_writeFrom (f := fun s _ v => s.writePart v.1 v.2) (fun s i v =>
      keeps_of_frame (lawful_writePart v.1 v.2) (by decide)) l first s
  | discards l =>
    exact keeps_writeFrom (f := fun s i v => s.setDiscardCount (Fin.ofNat 20 i) v) (fun s i v =>
      keeps_of_changes (bs := [.tallies]) (by simp [ChangesOnly]) (by decide)) l first s

theorem keeps_carryVerdict (v : Verdict) : Keeps [] [] s (s.carryVerdict v).1 := by
  unfold carryVerdict
  split
  · rename_i q e
    cases e with
    | select t base => exact keeps_agentFields rfl
    | release => exact keeps_agentFields rfl
    | read t first count => exact .refl [] s
    | write first w => exact keeps_writeEntries first w
    | append r n => exact keeps_of_frame (lawful_appendRecord r n) (by decide)
    | acknowledge lost => exact keeps_of_frame (lawful_acknowledge lost) (by decide)
    | status => exact .refl [] s
    | restart => exact keeps_softRestart
    | portReset p => exact keeps_resetPort p true
  · exact .refl [] s
  · exact .refl [] s

/-! ## What an answer leaves of the agent -/

theorem writeFrom_agent {α : Type} {f : State → Nat → α → State} (hf : ∀ s i a, (f s i a).agent = s.agent) (l : List α)
    (i : Nat) (s : State) : (writeFrom f s i l).agent = s.agent := by
  induction l generalizing s i with
  | nil => rfl
  | cons a l ih => exact (ih (i + 1) (f s i a)).trans (hf s i a)

theorem writeEntries_agent (first : Nat) (w : Written) : (s.writeEntries first w).agent = s.agent := by
  cases w with
  | streams l => exact writeFrom_agent (f := State.writeStreamEntry) (fun _ _ _ => rfl) l first s
  | allots l => exact writeFrom_agent (f := State.setRecord) (fun _ _ _ => rfl) l first s
  | tallies l => exact writeFrom_agent (f := State.setTally) (fun _ _ _ => rfl) l first s
  | tiers l =>
    exact writeFrom_agent (f := fun s i n => s.setQueue (Tier.ofIx (Fin.ofNat 4 i))
      { s.queue (Tier.ofIx (Fin.ofNat 4 i)) with limit := n }) (fun _ _ _ => rfl) l first s
  | ports l =>
    exact writeFrom_agent (fun s i on => (lawful_writeEnabled _ on).frame.agent (by decide)) l first s
  | parts l =>
    exact writeFrom_agent (f := fun s _ v => s.writePart v.1 v.2) (fun s i v =>
      (lawful_writePart v.1 v.2).frame.agent (by decide)) l first s
  | discards l =>
    exact writeFrom_agent (f := fun s i v => s.setDiscardCount (Fin.ofNat 20 i) v) (fun _ _ _ => rfl) l first s

/-- The agent after a soft restart (R170). -/
theorem softRestart_agent : s.softRestart.agent =
    { s.agent with inbox := s.agent.inbox.take 1, window := none, records := Vector.replicate 4 none } := by
  have hbefore : ((allPorts.foldl (fun s p => s.resetPort p false) s).restartTransmitter.restartReceiver).agent =
      s.agent := by
    rw [lawful_restartReceiver.frame.agent (by decide), lawful_restartTransmitter.frame.agent (by decide)]
    exact (lawful_foldl (fun _ p => lawful_resetPort p false) allPorts s).frame.agent (by decide)
  unfold softRestart
  dsimp only
  rw [lawful_restartNotices.frame.agent (by decide), lawful_restartMetering.frame.agent (by decide)]
  generalize (allPorts.foldl (fun s p => s.resetPort p false) s).restartTransmitter.restartReceiver = u at hbefore ⊢
  rw [← hbefore]
  show (u.cutAgent.flushFrames .flush false (u.agent.inbox.drop 1)).agent = _
  rw [(lawful_flushFrames_quiet _ _).frame.agent (by decide)]
  rfl

/-- The inbox keeps its head while the request there is carried out. -/
theorem carryVerdict_inbox (v : Verdict) :
    (s.carryVerdict v).1.agent.inbox = s.agent.inbox ∨ (s.carryVerdict v).1.agent.inbox = s.agent.inbox.take 1 := by
  unfold carryVerdict
  split
  · rename_i q e
    cases e with
    | select t base => exact .inl rfl
    | release => exact .inl rfl
    | read t first count => exact .inl rfl
    | write first w => exact .inl (congrArg Agent.inbox (writeEntries_agent first w))
    | append r n => exact .inl (congrArg Agent.inbox ((lawful_appendRecord r n).frame.agent (by decide)))
    | acknowledge lost => exact .inl (congrArg Agent.inbox ((lawful_acknowledge lost).frame.agent (by decide)))
    | status => exact .inl rfl
    | restart => exact .inr (congrArg Agent.inbox softRestart_agent)
    | portReset p => exact .inl (congrArg Agent.inbox ((lawful_resetPort p true).frame.agent (by decide)))
  · exact .inl rfl
  · exact .inl rfl

theorem recordAnswer_inbox (v : Verdict) : (s.recordAnswer v).agent.inbox = s.agent.inbox := by
  unfold recordAnswer
  split
  · split <;> rfl
  · rfl

theorem touchWindow_inbox (c : Byte) : (s.touchWindow c).agent.inbox = s.agent.inbox := by
  unfold touchWindow
  split
  · rfl
  · split <;> rfl

theorem keeps_recordAnswer (v : Verdict) : Keeps [] [] s (s.recordAnswer v) := by
  unfold recordAnswer
  split
  · split
    · exact .refl [] s
    · exact keeps_agentFields rfl
  · exact .refl [] s

theorem keeps_touchWindow (c : Byte) : Keeps [] [] s (s.touchWindow c) := by
  unfold touchWindow
  split
  · exact .refl [] s
  · split
    · exact keeps_agentFields rfl
    · exact .refl [] s

/-! ## The reply (R151 steps 2 to 5) -/

theorem streamOctets_length (e : StreamEntry) (rt : Runtime) : (streamOctets e rt).length = 14 := by
  cases rt with
  | unmetered => simp [streamOctets, runtimeOctets, octets2, octets3]
  | metered c r => cases r <;> simp [streamOctets, runtimeOctets, octets2, octets3]
  | exhausted c => simp [streamOctets, runtimeOctets, octets2, octets3]

theorem noticeEntry_length (r : NoticeRecord) : (noticeEntry r).length = 8 := by
  simp only [noticeEntry, List.length_append, noticeDetail_length]
  split <;> rfl

/-- An entry as READ gives it has the size of its table's entries (R204). -/
theorem entryOctets_length (q : TableName) (i : Nat) : (s.entryOctets q i).length = entrySize q := by
  cases q with
  | stream => exact streamOctets_length _ _
  | notices =>
    simp only [entryOctets, entrySize]
    split
    · exact noticeEntry_length _
    · rfl
  | _ => rfl

theorem statusPayload_length : s.statusPayload.length = 23 := by
  have hw : (windowCodes s.agent.window).length = 2 := by
    rcases s.agent.window with _ | w <;> rfl
  simp only [statusPayload, List.length_append, hw]
  rfl

/-- A reply's payload has the octets that were claimed for it (R155). -/
theorem payload_length (v : Verdict) : (s.carryVerdict v).2.length = v.payloadLength := by
  unfold carryVerdict
  split
  · rename_i q e
    cases e with
    | read t first count =>
      show (count2 first ++ (List.range' first count).flatMap fun i => s.entryOctets t i).length = 2 + count * entrySize t
      rw [List.length_append, List.length_flatMap, List.map_congr_left fun i _ => entryOctets_length t i, List.map_const',
        List.sum_replicate_nat, List.length_range']
      rfl
    | status => exact statusPayload_length
    | _ => rfl
  · rfl
  · rename_i h1 h2
    rcases v with _ | _ | ⟨q, a⟩
    · rfl
    · rfl
    · rcases a with e | i | st
      · exact absurd rfl (h1 q e)
      · exact absurd rfl (h2 q i)
      · rfl

theorem replyBody_length (body : List Byte) (v : Verdict) (payload : List Byte) :
    (s.replyBody body v payload).length = 8 + payload.length := by
  simp [replyBody, octets2]
  omega

/-- The reply is written and queued (R151 steps 2 to 4). -/
theorem keeps_replied {v : Verdict} {c : Byte} {r : Nat} {octets : List Byte} (hb : s.Building r octets.length) :
    Keeps [(r, .agentBuild)] [] s (s.replied v c r octets) := by
  have hrec : Keeps [] [] s ((s.recordAnswer v).touchWindow c) := (keeps_recordAnswer v).trans (keeps_touchWindow c)
  refine .trans (hrec.frame _) (keeps_joinBuilt (hb.congr ?_))
  exact handle?_of_buf (((lawful_recordAnswer v).trans (lawful_touchWindow c)).frame.buf (by decide)) r

theorem replied_inbox (v : Verdict) (c : Byte) (r : Nat) (octets : List Byte) :
    (s.replied v c r octets).agent.inbox = s.agent.inbox := by
  unfold replied
  rw [(lawful_joinQueue .t0 r).frame.agent (by decide), (lawful_storeOctets r octets).frame.agent (by decide),
    touchWindow_inbox, recordAnswer_inbox]

theorem keeps_noticesAfterReply (before : Tag) (v : Verdict) : Keeps [] [] s (s.noticesAfterReply before v) := by
  unfold noticesAfterReply
  split
  · exact keeps_noticeAttempt
  · exact keeps_noticeAttempt
  · split
    · exact keeps_noticeResume
    · exact .refl [] s
  · exact .refl [] s

/-- The request's handle is released (R151 step 5). -/
theorem keeps_releaseRequest {h : Nat} {rest : List Nat} (hi : s.agent.inbox = h :: rest) :
    Keeps [] [] s (s.releaseRequest h) := by
  refine .trans (.trans (Y' := [(h, .inbox)]) (keeps_withAgent fun a => ?_) keeps_freeHandle) keeps_noticeRetry
  rw [hi]
  simp only [List.tail_cons, List.map_cons, List.count_cons, List.count_nil]
  omega

/-- The answer of the head request (R151). -/
theorem keeps_answer {h r : Nat} {rest : List Nat} {body : List Byte} {v : Verdict} (hi : s.agent.inbox = h :: rest)
    (hb : s.Building r v.replyLength) : Keeps [(r, .agentBuild)] [] s (s.answer h r body v) := by
  refine Keeps.of_orderly fun {Z} ho => ?_
  have hcarry := keeps_carryVerdict (s := s) v
  have hsame : (s.carryVerdict v).1.handle? r = s.handle? r :=
    hcarry.aside (Z := (r, .agentBuild) :: Z) ho (r, .agentBuild) List.mem_cons_self
  let octets := (((s.carryVerdict v).1.recordAnswer v).touchWindow (octetAt body 4)).replyBody body v (s.carryVerdict v).2
  have hlen : octets.length = v.replyLength := by
    rw [replyBody_length, payload_length]
    rfl
  have hreply : Keeps [(r, .agentBuild)] [] s ((s.carryVerdict v).1.replied v (octetAt body 4) r octets) :=
    (hcarry.frame _).trans (keeps_replied (hlen ▸ hb.congr hsame))
  obtain ⟨rest', hhead⟩ : ∃ rest', (s.carryVerdict v).1.agent.inbox = h :: rest' := by
    rcases carryVerdict_inbox (s := s) v with e | e <;> rw [e, hi]
    · exact ⟨_, rfl⟩
    · exact ⟨[], rfl⟩
  refine (hreply.trans (keeps_noticesAfterReply s.part.noticeTag v)).trans (keeps_releaseRequest (rest := rest') ?_)
  rw [(lawful_noticesAfterReply s.part.noticeTag v).frame.agent (by decide), replied_inbox, hhead]

/-! ## Attempts and release events (R13, R150) -/

theorem keeps_attempt : Keeps [] [] s s.attempt := by
  unfold attempt
  split
  · exact .refl [] s
  · rename_i h rest hi
    dsimp only
    split
    · exact keeps_agentFields rfl
    · rename_i r s1 hc
      refine Keeps.of_orderly fun ho => (keeps_claimCompound hc).trans (keeps_answer (rest := rest) ?_
        (building_of_claim ho.stores hc))
      rw [(lawful_claimCompound hc).frame.agent (by decide)]
      exact hi

theorem keeps_releaseEvent : Keeps [] [] s s.releaseEvent := by
  unfold releaseEvent
  split
  · dsimp only
    split
    · exact keeps_attempt
    · exact keeps_attempt.trans keeps_noticeRetry
  · exact keeps_noticeRetry

theorem keeps_releaseEventsTaken (n : Nat) : Keeps [] [] s (s.releaseEventsTaken n) := by
  induction n generalizing s with
  | zero => exact .refl [] s
  | succ n ih => exact keeps_releaseEvent.trans ih

theorem keeps_settle : Keeps [] [] s s.settle :=
  (keeps_of_frame (lawful_withReleaseEvents 0) (by decide)).trans (keeps_releaseEventsTaken _)

/-! ## The inbox (R139) -/

theorem keeps_offerInbox {h : Nat} {k : Holder} (hk : k ≠ .trunkActive ∧ k ≠ .trunkSuspended ∧ k ≠ .agentBuild) :
    Keeps [(h, k)] [] s (s.offerInbox h) := by
  unfold offerInbox
  split
  · exact keeps_discard _
  · have hjoin : Keeps [(h, k)] [] s
        ((s.setHolder h .inbox).withAgent { s.agent with inbox := s.agent.inbox ++ [h] }) := by
      refine .trans (Y' := [(h, .inbox)]) (keeps_setHolder ⟨hk.1, hk.2.1⟩ fun e => absurd e hk.2.2)
        (keeps_withAgent fun a => ?_)
      rw [(lawful_setHolder h .inbox).frame.agent (by decide), List.map_append, List.count_append]
      rfl
    dsimp only
    split
    · exact hjoin.trans keeps_attempt
    · exact hjoin

theorem keeps_deliverRequest (q : Tier) (body : List Byte) : Keeps [] [] s (s.deliverRequest q body) := by
  unfold deliverRequest
  split
  · exact keeps_countDiscard ..
  · split
    · exact keeps_countDiscard ..
    · rename_i h s1 hc
      have hstore := keeps_appendOctets (s := s1) (h := h) (k := .reassembly q) true body
      have hclaim := (keeps_claimHandle hc).trans hstore
      split
      · rename_i s2 he
        rw [he] at hclaim
        exact hclaim.trans (keeps_discard _)
      · rename_i s2 he
        rw [he] at hclaim
        exact hclaim.trans (keeps_offerInbox ⟨nofun, nofun, nofun⟩)

/-! ## Egress (R51, R52, R140) -/

/-- A frame joins an egress queue (R51). -/
theorem keeps_joinEgress {p : Port} {h : Nat} {k : Holder} (hk : k ≠ .trunkActive ∧ k ≠ .trunkSuspended ∧ k ≠ .agentBuild) :
    Keeps [(h, k)] [] s (s.joinEgress p h) := by
  have hjoin : Keeps [(h, k)] [] s
      ((s.setPort p { s.port p with egress := (s.port p).egress ++ [h] }).setHolder h (.egress p)) := by
    have hcomm : (s.setPort p { s.port p with egress := (s.port p).egress ++ [h] }).setHolder h (.egress p) =
        (s.setHolder h (.egress p)).setPort p { s.port p with egress := (s.port p).egress ++ [h] } := by
      have hh : (s.setPort p { s.port p with egress := (s.port p).egress ++ [h] }).handle? h = s.handle? h := rfl
      unfold setHolder modHandle
      rw [hh]
      split <;> rfl
    rw [hcomm]
    refine .trans (Y' := [(h, .egress p)]) (keeps_setHolder ⟨hk.1, hk.2.1⟩ fun e => absurd e hk.2.2)
      (keeps_setPort fun a => ?_)
    rw [port_of_ports ((lawful_setHolder h (.egress p)).frame.ports (by decide))]
    simp only [members_ingress, List.map_append, List.count_append, List.map_cons, List.map_nil, List.count_nil]
    omega
  unfold joinEgress
  dsimp only
  split
  · exact hjoin.trans (keeps_sendTrib p _)
  · exact hjoin

theorem keeps_egressSent (p : Port) : Keeps [] [] s (s.egressSent p) := by
  unfold egressSent
  split
  · exact .refl [] s
  · rename_i h rest he
    split
    · exact .refl [] s
    · refine .trans (.trans (Y' := [(h, .egress p)]) (keeps_setPort fun a => ?_) ((keeps_sendTrib p _).frame _)) keeps_release
      simp only [members_ingress, he, List.map_cons, List.count_append, List.count_cons, List.count_nil]
      omega

/-- Routing by stream entry (R140). -/
theorem keeps_routeStream {h : Nat} {k : Holder} (hk : k ≠ .trunkActive ∧ k ≠ .trunkSuspended ∧ k ≠ .agentBuild)
    (tag : Tag) : Keeps [(h, k)] [] s (s.routeStream h tag) := by
  unfold routeStream
  split
  · exact keeps_discard _
  · rename_i i _
    have hmark : Keeps [(h, k)] [(h, k)] s (s.modHandle h fun r => { r with stream := some i }) :=
      keeps_modHandle (fun _ => rfl) (fun _ => rfl) (fun _ => id) fun _ => id
    dsimp only
    split
    · split
      · exact (hmark.trans (keeps_joinEgress hk)).trans (keeps_of_frame (lawful_countDelivered i) (by decide))
      · exact hmark.trans (keeps_discard _)
    · exact hmark.trans (keeps_discard _)

/-! ## The tributaries (chapter 3) -/

theorem keeps_endIngress (p : Port) (c : Cause) {next : Ingress} (hn : ingressMembers p next = []) :
    Keeps [] [] s (s.endIngress p c next) := by
  unfold endIngress
  split
  · exact .refl [] s
  · rename_i hi
    exact (keeps_leaveEmpty hn (by rw [hi]; rfl)).trans (keeps_countDiscard ..)
  · rename_i hi
    exact (keeps_leaveReceiving hn hi).trans (keeps_discard _)
  · exact .refl [] s

theorem endIngress_members (p : Port) (c : Cause) {next : Ingress} (hn : ingressMembers p next = []) :
    ingressMembers p ((s.endIngress p c next).port p).ingress = [] := by
  have hset : ((s.setIngress p next).port p).ingress = next := by simp [setIngress]
  unfold endIngress
  split
  · rename_i hi; rw [hi]; rfl
  · rw [port_of_ports ((lawful_countDiscard c none).frame.ports (by decide)), hset, hn]
  · rename_i h l hi
    rw [port_of_ports ((lawful_discard c h).frame.ports (by decide)), hset, hn]
  · rename_i hi; rw [hi]; rfl

theorem keeps_ingressOpen (p : Port) : Keeps [] [] s (s.ingressOpen p) := by
  have hend := keeps_endIngress (s := s) p .ingressAborted (next := .idle) rfl
  have hm := endIngress_members (s := s) p .ingressAborted (next := .idle) rfl
  unfold ingressOpen
  dsimp only
  split
  · exact hend.trans (keeps_leaveEmpty rfl hm)
  · exact hend.trans (keeps_leaveEmpty rfl hm)

theorem keeps_ingressAbort (p : Port) : Keeps [] [] s (s.ingressAbort p) :=
  (keeps_endIngress p .ingressAborted rfl).trans (keeps_leaveEmpty rfl (endIngress_members p .ingressAborted rfl))

theorem keeps_ingressTag {p : Port} (hi : ingressMembers p (s.port p).ingress = []) (tag : Tag) :
    Keeps [] [] s (s.ingressTag p tag) := by
  have hskip : Keeps [] [] s (s.setIngress p .skipping) := keeps_leaveEmpty rfl hi
  unfold ingressTag
  dsimp only
  split
  · exact hskip.trans (keeps_countDiscard ..)
  · rename_i i _
    split
    · exact hskip.trans (keeps_countDiscard ..)
    · split
      · exact hskip.trans (keeps_countDiscard ..)
      · rename_i h s1 hc
        have hclaim := (keeps_claimHandle hc).trans (keeps_appendOctets (s := s1) (h := h) false (octets2 tag))
        have hports : (s1.appendOctets false h (octets2 tag)).2.port p = s.port p :=
          port_of_ports (((lawful_claimHandle hc).trans (lawful_appendOctets false h _)).frame.ports (by decide)) p
        split
        · rename_i s2 he
          rw [he] at hclaim hports
          refine (hclaim.trans ?_).trans (keeps_discard (k := .ingress p) _)
          exact keeps_setIngress fun a => by rw [hports, hi]; rfl
        · rename_i s2 he
          rw [he] at hclaim hports
          refine hclaim.trans (keeps_setIngress fun a => ?_)
          rw [hports, hi]
          simp [ingressMembers]

theorem keeps_ingressOctet {p : Port} {h : Nat} {hold : List Byte} (hi : (s.port p).ingress = .receiving h hold)
    (b : Byte) : Keeps [] [] s (s.ingressOctet p h hold b) := by
  have hhold (l : List Byte) : Keeps [] [] s (s.setIngress p (.receiving h l)) :=
    keeps_setIngress fun a => by rw [hi]; rfl
  unfold ingressOctet
  split
  · exact hhold _
  · rename_i oldest rest
    split
    · exact hhold _
    · split
      · exact .refl [] s
      · split
        · exact (keeps_leaveReceiving rfl hi).trans (keeps_discard _)
        · split
          · exact (keeps_leaveReceiving rfl hi).trans (keeps_discard _)
          · rename_i s1 hs1
            have hports := port_of_ports ((lawful_appendOctet hs1).frame.ports (by decide)) p
            refine .trans (keeps_appendOctet (fun ha => .of_member ha (mem_members_ingress hi) (.inl ⟨p, rfl⟩)) hs1) ?_
            exact keeps_setIngress fun a => by rw [hports, hi]; rfl

theorem keeps_ingressData (p : Port) (b : Byte) : Keeps [] [] s (s.ingressData p b) := by
  unfold ingressData
  split
  · exact .refl [] s
  · rename_i hi
    exact keeps_leaveEmpty rfl (by rw [hi]; rfl)
  · rename_i hi
    exact keeps_ingressTag (by rw [hi]; rfl) _
  · rename_i hi
    exact keeps_ingressOctet hi b
  · exact .refl [] s

theorem keeps_setRuntime (i : Nat) (rt : Runtime) : Keeps [] [] s (s.setRuntime i rt) :=
  keeps_of_changes (bs := [.metering]) (by simp [ChangesOnly]) (by decide)

theorem keeps_charge (i : StreamIx) (len : Nat) : Keeps [] [] s (s.charge i len).2 := by
  unfold charge
  dsimp only
  split
  · exact .refl [] s
  · exact .refl [] s
  · split
    · exact keeps_setRuntime ..
    · split
      · split
        · split <;> exact keeps_setRuntime ..
        · exact keeps_setRuntime ..
      · exact (keeps_setRuntime ..).trans (keeps_raiseNotice _)
  · exact .refl [] s

/-- The hand-over of a good frame (R45). -/
theorem keeps_handOver {h : Nat} {p : Port} (i : StreamIx) (len : Nat) :
    Keeps [(h, .ingress p)] [] s (s.handOver h i len) := by
  have hcharge : Keeps [(h, .ingress p)] [(h, .ingress p)] s (s.charge i len).2 := (keeps_charge i len).frame _
  unfold handOver
  dsimp only
  split
  · exact hcharge.trans (keeps_discard _)
  · exact hcharge.trans (keeps_discard _)
  · rename_i q _
    generalize (s.charge i len).2 = u at hcharge
    have hfix : Keeps [(h, .ingress p)] [(h, .ingress p)] u (u.fixTier h i q) :=
      keeps_modHandle (fun _ => rfl) (fun _ => rfl) (fun _ => id) fun _ => id
    have htier : ∀ r, (u.fixTier h i q).handle? h = some r → r.tier = q := fun r hr => by
      rw [fixTier, handle?_modHandle, Option.map_eq_some_iff] at hr
      obtain ⟨r0, -, rfl⟩ := hr
      rfl
    have hoffer := (hcharge.trans hfix).trans (keeps_offerQueue (k := .ingress p) ⟨nofun, nofun, nofun⟩ htier)
    split
    · rename_i hadmit
      rwa [if_pos hadmit] at hoffer
    · rename_i hfull
      rw [if_neg hfull] at hoffer
      exact hoffer.trans (keeps_discard _)

theorem keeps_ingressClose {p : Port} {h : Nat} {hold : List Byte} (hi : (s.port p).ingress = .receiving h hold) :
    Keeps [] [] s (s.ingressClose p h hold) := by
  have hleave : Keeps [] [(h, .ingress p)] s (s.setIngress p .idle) := keeps_leaveReceiving rfl hi
  unfold ingressClose
  split
  · exact .refl [] s
  · dsimp only
    split
    · exact hleave.trans (keeps_discard _)
    · split
      · exact hleave.trans (keeps_discard _)
      · split
        · refine (hleave.trans ?_).trans (keeps_discard (k := .ingress p) _)
          exact keeps_modHandle (fun _ => rfl) (fun _ => rfl) (fun _ => id) fun _ => id
        · exact hleave.trans (keeps_handOver _ _)

theorem keeps_ingressEnd (p : Port) : Keeps [] [] s (s.ingressEnd p) := by
  unfold ingressEnd
  split
  · exact .refl [] s
  · rename_i hi
    exact (keeps_leaveEmpty rfl (by rw [hi]; rfl)).trans (keeps_countDiscard ..)
  · rename_i hi
    exact keeps_ingressClose hi
  · rename_i hi
    exact keeps_leaveEmpty rfl (by rw [hi]; rfl)

/-! ## Time -/

theorem keeps_tickWindow : Keeps [] [] s s.tickWindow := by
  unfold tickWindow
  split
  · exact .refl [] s
  · split <;> exact keeps_agentFields rfl

theorem keeps_tickResend : Keeps [] [] s s.tickResend := by
  unfold tickResend
  split
  · split
    · exact keeps_withNotices _
    · exact keeps_resendExpiry
  · exact .refl [] s

theorem keeps_tick : Keeps [] [] s s.tick :=
  ((keeps_of_frame lawful_tickEpoch (by decide)).trans keeps_tickWindow).trans keeps_tickResend

end Sys2Proof.Machine.State
end

section
/-! PROOFS. The orderly moves of the trunk receiver (chapter 7). -/

namespace Sys2Proof.Machine

/-- A context that has had its header. -/
def Assembly.Complete (a : Assembly) : Prop := a.handle ≠ none ∧ a.declared ≠ none ∧ a.tag ≠ none

namespace State

variable {s t : State} {Y Y' Z : List (Nat × Holder)}

/-! ## The fragment record beside the contexts (R128) -/

/-- What the context of an open fragment is, by the fragment's mode. -/
def Suits (s : State) (f : RxFragment) : Prop :=
  match f.mode with
  | .storing => ∃ a, s.context f.tier = .opened a ∧
      (f.kind = .first → f.header.length < 4 → a.handle = none) ∧
      (f.kind = .first → 2 ≤ f.header.length → a.declared ≠ none) ∧
      ((f.kind = .next ∨ f.header.length = 4) → a.Complete)
  | .tracking => (s.context f.tier).isDiscarding = true
  | .ignored => s.context f.tier = .closed

/-- The contexts of the tiers that no fragment is open for. -/
def OthersComplete (s : State) (q : Tier) : Prop := ∀ x a, x ≠ q → s.context x = .opened a → a.Complete

theorem fragmentOk_some {f : RxFragment} (hf : s.rx.fragment = some f) :
    s.FragmentOk ↔ s.Suits f ∧ s.OthersComplete f.tier := by
  constructor
  · rintro ⟨h1, h2⟩
    exact ⟨h1 f hf, fun x a hx hc => h2 x a hc fun g hg => by
      obtain rfl := Option.some.inj (hf.symm.trans hg)
      exact Ne.symm hx⟩
  · rintro ⟨h1, h2⟩
    refine ⟨fun g hg => ?_, fun x a hc hx => h2 x a (Ne.symm (hx f hf)) hc⟩
    obtain rfl := Option.some.inj (hf.symm.trans hg)
    exact h1

theorem fragmentOk_none (hf : s.rx.fragment = none) :
    s.FragmentOk ↔ ∀ q a, s.context q = .opened a → a.Complete :=
  ⟨fun h q a hc => h.2 q a hc fun g hg => (by rw [hf] at hg; cases hg),
    fun h => ⟨fun g hg => (by rw [hf] at hg; cases hg), fun q a hc _ => h q a hc⟩⟩

/-- What suits a storing fragment. -/
theorem suits_storing {f : RxFragment} (hm : f.mode = .storing) : s.Suits f ↔
    ∃ a, s.context f.tier = .opened a ∧ (f.kind = .first → f.header.length < 4 → a.handle = none) ∧
      (f.kind = .first → 2 ≤ f.header.length → a.declared ≠ none) ∧
      ((f.kind = .next ∨ f.header.length = 4) → a.Complete) := by
  unfold Suits
  rw [hm]

theorem suits_tracking {f : RxFragment} (hm : f.mode = .tracking) : s.Suits f ↔ (s.context f.tier).isDiscarding = true := by
  unfold Suits
  rw [hm]

theorem suits_ignored {f : RxFragment} (hm : f.mode = .ignored) : s.Suits f ↔ s.context f.tier = .closed := by
  unfold Suits
  rw [hm]

/-- A fragment whose context is OPEN is a STORING one. -/
theorem mode_of_opened {f : RxFragment} {a : Assembly} (hs : s.Suits f) (hc : s.context f.tier = .opened a) :
    f.mode = .storing := by
  rcases hm : f.mode
  · rfl
  · rw [suits_tracking hm, hc] at hs; cases hs
  · rw [suits_ignored hm, hc] at hs; cases hs

/-- Clearing the record leaves every OPEN context complete, where the fragment's own was. -/
theorem fragmentOk_clear (hs : s.FragmentOk)
    (hf : ∀ f, s.rx.fragment = some f → f.mode = .storing → f.kind = .next ∨ f.header.length = 4) :
    (s.setFragment none).FragmentOk := by
  rw [fragmentOk_none (s := s.setFragment none) rfl]
  intro q a hc
  rcases hfr : s.rx.fragment with _ | f
  · exact (fragmentOk_none hfr).1 hs q a hc
  · obtain ⟨hsuit, hothers⟩ := (fragmentOk_some hfr).1 hs
    by_cases e : q = f.tier
    · subst e
      have hm := mode_of_opened hsuit hc
      obtain ⟨a', hc', -, -, hcomp⟩ := (suits_storing hm).1 hsuit
      obtain rfl := Context.opened.inj (hc.symm.trans hc')
      exact hcomp (hf f hfr hm)
    · exact hothers q a e hc

/-- The record of a fragment that differs in its held octets. -/
theorem fragmentOk_hold {f g : RxFragment} (hf : s.rx.fragment = some f) (htier : g.tier = f.tier) (hkind : g.kind = f.kind)
    (hmode : g.mode = f.mode) (hheader : g.header = f.header) (hs : s.FragmentOk) :
    (s.setFragment (some g)).FragmentOk := by
  obtain ⟨h1, h2⟩ := (fragmentOk_some hf).1 hs
  refine (fragmentOk_some (s := s.setFragment (some g)) rfl).2 ⟨?_, htier ▸ h2⟩
  unfold Suits at h1 ⊢
  rw [hmode, htier, hkind, hheader]
  exact h1

/-- An OPEN context changes but for its handle, its declared length and its tag. -/
theorem fragmentOk_setOpened {q : Tier} {a b : Assembly} (hc : s.context q = .opened a) (hh : b.handle = a.handle)
    (hd : b.declared = a.declared) (ht : b.tag = a.tag) (hs : s.FragmentOk) :
    (s.setContext q (.opened b)).FragmentOk := by
  have hsame : ∀ x c, (s.setContext q (.opened b)).context x = .opened c → ∃ c', s.context x = .opened c' ∧
      (c'.Complete → c.Complete) := by
    intro x c hx
    by_cases e : x = q
    · subst e
      rw [setContext_context_self] at hx
      cases hx
      exact ⟨a, hc, fun ⟨h1, h2, h3⟩ => ⟨by rwa [hh], by rwa [hd], by rwa [ht]⟩⟩
    · rw [setContext_context_other _ _ e] at hx
      exact ⟨c, hx, id⟩
  rcases hf : s.rx.fragment with _ | f
  · rw [fragmentOk_none hf] at hs
    refine (fragmentOk_none (s := s.setContext q (.opened b)) hf).2 fun x c hx => ?_
    obtain ⟨c', hc', hcomp⟩ := hsame x c hx
    exact hcomp (hs x c' hc')
  · obtain ⟨hsuit, hothers⟩ := (fragmentOk_some hf).1 hs
    refine (fragmentOk_some (s := s.setContext q (.opened b)) hf).2 ⟨?_, fun x c hx hxc => ?_⟩
    · by_cases e : f.tier = q
      · have hm := mode_of_opened hsuit (e ▸ hc)
        obtain ⟨a', ha', h1, h2, h3⟩ := (suits_storing hm).1 hsuit
        rw [e, hc] at ha'
        cases ha'
        refine (suits_storing hm).2 ⟨b, by rw [e]; exact setContext_context_self .., fun k l => by rw [hh]; exact h1 k l,
          fun k l => by rw [hd]; exact h2 k l, fun k => ?_⟩
        obtain ⟨c1, c2, c3⟩ := h3 k
        exact ⟨by rwa [hh], by rwa [hd], by rwa [ht]⟩
      · unfold Suits at hsuit ⊢
        rw [setContext_context_other _ _ e]
        exact hsuit
    · obtain ⟨c', hc', hcomp⟩ := hsame x c hxc
      exact hcomp (hothers x c' hx hc')

/-- A DISCARDING context stays one. -/
theorem fragmentOk_setDiscarding {q : Tier} {g g' : GivenUp} (hc : s.context q = .discarding g) (hs : s.FragmentOk) :
    (s.setContext q (.discarding g')).FragmentOk := by
  have hsame : ∀ x c, (s.setContext q (.discarding g')).context x = .opened c → s.context x = .opened c := by
    intro x c hx
    by_cases e : x = q
    · subst e; rw [setContext_context_self] at hx; cases hx
    · rwa [setContext_context_other _ _ e] at hx
  rcases hf : s.rx.fragment with _ | f
  · rw [fragmentOk_none hf] at hs
    exact (fragmentOk_none (s := s.setContext q (.discarding g')) hf).2 fun x c hx => hs x c (hsame x c hx)
  · obtain ⟨hsuit, hothers⟩ := (fragmentOk_some hf).1 hs
    refine (fragmentOk_some (s := s.setContext q (.discarding g')) hf).2 ⟨?_, fun x c hx hxc =>
      hothers x c hx (hsame x c hxc)⟩
    by_cases e : f.tier = q
    · rcases hm : f.mode
      · obtain ⟨a, ha, -⟩ := (suits_storing hm).1 hsuit
        rw [e, hc] at ha
        cases ha
      · rw [suits_tracking hm, e, setContext_context_self]
        rfl
      · rw [suits_ignored hm, e, hc] at hsuit
        cases hsuit
    · unfold Suits at hsuit ⊢
      rw [setContext_context_other _ _ e]
      exact hsuit

/-- With no fragment open a context may leave OPEN. -/
theorem fragmentOk_close {q : Tier} {c : Context} (hf : s.rx.fragment = none) (hc : ∀ a, c ≠ .opened a) (hs : s.FragmentOk) :
    (s.setContext q c).FragmentOk := by
  rw [fragmentOk_none hf] at hs
  refine (fragmentOk_none (s := s.setContext q c) hf).2 fun x a hx => ?_
  by_cases e : x = q
  · subst e; rw [setContext_context_self] at hx; exact absurd hx (hc a)
  · rw [setContext_context_other _ _ e] at hx
    exact hs x a hx

/-! ## Giving up (R127, R128) -/

theorem keeps_discardAssembly (c : Cause) (q : Tier) (a : Assembly) :
    Keeps ((Context.opened a).members q) [] s (s.discardAssembly c a) := by
  unfold discardAssembly
  rw [Context.members_opened]
  split
  · rename_i h hh
    rw [hh]
    exact keeps_discard c
  · rename_i hh
    rw [hh]
    exact keeps_countDiscard ..

theorem moves_trackFragment (q : Tier) : Moves [] [] s (s.trackFragment q) := by
  unfold trackFragment
  split
  · split
    · exact moves_setFragment _
    · exact (Keeps.refl [] s).moves
  · exact (Keeps.refl [] s).moves

theorem trackFragment_context (q x : Tier) : (s.trackFragment q).context x = s.context x := by
  unfold trackFragment
  split
  · split <;> rfl
  · rfl

theorem trackFragment_fragment (q : Tier) : (s.trackFragment q).rx.fragment =
    s.rx.fragment.map fun f => if f.tier = q ∧ f.mode = .storing then { f with mode := .tracking } else f := by
  unfold trackFragment
  split
  · rename_i f hf
    rw [hf, Option.map_some]
    split
    · rfl
    · exact hf
  · rename_i hf
    rw [hf]
    rfl

/-- The part of a giving up that concerns the receiver. -/
def discarding (s : State) (q : Tier) (a : Assembly) (c : Cause) : State :=
  (s.setContext q (.discarding { tag := a.tag, declared := a.declared, expected := a.expected, mgmt := a.mgmt
                                 cause := c })).trackFragment q

theorem giveUp_opened {q : Tier} {a : Assembly} (ha : s.context q = .opened a) (c : Cause) :
    s.giveUp q c = (s.discarding q a c).discardAssembly c a := by
  simp only [giveUp, ha, discarding]

theorem giveUp_of_not_opened {q : Tier} (h : ∀ a, s.context q ≠ .opened a) (c : Cause) : s.giveUp q c = s := by
  unfold giveUp
  split
  · exact absurd ‹_› (h _)
  · rfl

theorem discarding_context_self (q : Tier) (a : Assembly) (c : Cause) : (s.discarding q a c).context q = .discarding
    { tag := a.tag, declared := a.declared, expected := a.expected, mgmt := a.mgmt, cause := c } := by
  rw [discarding, trackFragment_context, setContext_context_self]

theorem discarding_context_other {q x : Tier} (h : x ≠ q) (a : Assembly) (c : Cause) :
    (s.discarding q a c).context x = s.context x := by
  rw [discarding, trackFragment_context, setContext_context_other _ _ h]

theorem discarding_fragment (q : Tier) (a : Assembly) (c : Cause) : (s.discarding q a c).rx.fragment =
    s.rx.fragment.map fun f => if f.tier = q ∧ f.mode = .storing then { f with mode := .tracking } else f :=
  trackFragment_fragment q

/-- The receiver in order but for what the header of one tier's STORING fragment has brought. -/
def OrderedBut (s : State) (q : Tier) : Prop :=
  (∀ f, s.rx.fragment = some f → f.tier = q → f.mode = .storing) ∧
  (∀ f, s.rx.fragment = some f → f.tier ≠ q → s.Suits f) ∧
  ∀ x b, x ≠ q → s.context x = .opened b → (∀ f, s.rx.fragment = some f → f.tier ≠ x) → b.Complete

/-- After a giving up the receiver is in order, whatever the header of the context's own fragment had brought. -/
theorem fragmentOk_discarding {q : Tier} {a : Assembly} (c : Cause) (hs : s.OrderedBut q) :
    (s.discarding q a c).FragmentOk := by
  obtain ⟨hown, hsuit, hothers⟩ := hs
  have hopen : ∀ x b, (s.discarding q a c).context x = .opened b → x ≠ q ∧ s.context x = .opened b := by
    intro x b hx
    by_cases e : x = q
    · subst e; rw [discarding_context_self] at hx; cases hx
    · rw [discarding_context_other e] at hx; exact ⟨e, hx⟩
  rcases hf : s.rx.fragment with _ | f
  · have hnone : (s.discarding q a c).rx.fragment = none := by rw [discarding_fragment, hf]; rfl
    rw [fragmentOk_none hnone]
    intro x b hx
    obtain ⟨e, hb⟩ := hopen x b hx
    exact hothers x b e hb fun f h => by rw [hf] at h; cases h
  · by_cases e : f.tier = q
    · have hm := hown f hf e
      have hsome : (s.discarding q a c).rx.fragment = some { f with mode := .tracking } := by
        rw [discarding_fragment, hf, Option.map_some, if_pos ⟨e, hm⟩]
      rw [fragmentOk_some hsome]
      refine ⟨(suits_tracking rfl).2 ?_, fun x b hx hxb => ?_⟩
      · rw [show ({ f with mode := RxMode.tracking } : RxFragment).tier = q from e, discarding_context_self]
        rfl
      · obtain ⟨e', hb⟩ := hopen x b hxb
        exact hothers x b e' hb fun g hg => by
          obtain rfl := Option.some.inj (hf.symm.trans hg)
          rw [e]
          exact Ne.symm e'
    · have hsome : (s.discarding q a c).rx.fragment = some f := by
        rw [discarding_fragment, hf, Option.map_some, if_neg fun h => e h.1]
      rw [fragmentOk_some hsome]
      refine ⟨?_, fun x b hx hxb => ?_⟩
      · have := hsuit f hf e
        unfold Suits at this ⊢
        rwa [discarding_context_other e]
      · obtain ⟨e', hb⟩ := hopen x b hxb
        exact hothers x b e' hb fun g hg => by
          obtain rfl := Option.some.inj (hf.symm.trans hg)
          exact Ne.symm hx

theorem lawful_discarding (q : Tier) (a : Assembly) (c : Cause) : Lawful [.rx] s (s.discarding q a c) :=
  (lawful_setContext _ _).trans (lawful_trackFragment q)

/-- The context of a frame goes DISCARDING, its handle between two collections. -/
theorem keeps_discarding {q : Tier} {a : Assembly} (c : Cause) (ha : s.context q = .opened a)
    (hs : ∀ {Z}, Orderly Z s → s.FragmentOk → (s.discarding q a c).FragmentOk) :
    Keeps [] ((Context.opened a).members q) s (s.discarding q a c) := by
  have hclose := moves_closeContext (s := s) (q := q) (c := .discarding
    { tag := a.tag, declared := a.declared, expected := a.expected, mgmt := a.mgmt, cause := c }) fun _ => nofun
  rw [ha] at hclose
  refine Moves.keeps_rx ?_ (lawful_discarding q a c) (by decide) hs
  refine hclose.trans ⟨fun ho => (moves_trackFragment q).orderly (Z := _ ++ _) ho, fun ho x hx =>
    (moves_trackFragment q).aside (Z := _ ++ _) ho x (List.mem_append_right _ hx),
    fun ho => (moves_trackFragment q).fits (Z := _ ++ _) ho, fun ho => (moves_trackFragment q).core (Z := _ ++ _) ho⟩

theorem FragmentOk.orderedBut {q : Tier} {a : Assembly} (hs : s.FragmentOk) (ha : s.context q = .opened a) :
    s.OrderedBut q :=
  ⟨fun _ hf e => mode_of_opened ((fragmentOk_some hf).1 hs).1 (e ▸ ha), fun _ hf _ => ((fragmentOk_some hf).1 hs).1,
    fun x b _ hb hx => hs.2 x b hb hx⟩

/-- While a STORING fragment's header arrives, the other tiers are in order. -/
theorem orderedBut_of_some {f : RxFragment} (hf : s.rx.fragment = some f) (hm : f.mode = .storing)
    (ho : s.OthersComplete f.tier) : s.OrderedBut f.tier :=
  ⟨fun g hg _ => (by obtain rfl := Option.some.inj (hf.symm.trans hg); exact hm),
    fun g hg hne => (by obtain rfl := Option.some.inj (hf.symm.trans hg); exact absurd rfl hne),
    fun x b hx hb _ => ho x b hx hb⟩

/-- A giving up puts the receiver in order. -/
theorem moves_giveUp {q : Tier} {a : Assembly} (c : Cause) (ha : s.context q = .opened a) (hs : s.OrderedBut q) :
    Moves [] [] s (s.giveUp q c) ∧ (s.giveUp q c).FragmentOk := by
  have hok := fragmentOk_discarding (a := a) c hs
  rw [giveUp_opened ha]
  exact ⟨((keeps_discarding c ha fun _ _ => hok).trans (keeps_discardAssembly c q a)).moves,
    fragmentOk_of ((lawful_discardAssembly c a).frame.rx (by decide)) hok⟩

theorem keeps_giveUp (q : Tier) (c : Cause) : Keeps [] [] s (s.giveUp q c) := by
  rcases hc : s.context q with _ | a | g
  · rw [giveUp_of_not_opened fun a => by rw [hc]; exact nofun]
    exact .refl [] s
  · rw [giveUp_opened hc]
    exact (keeps_discarding c hc fun _ hs => fragmentOk_discarding c (hs.orderedBut hc)).trans
      (keeps_discardAssembly c q a)
  · rw [giveUp_of_not_opened fun a => by rw [hc]; exact nofun]
    exact .refl [] s

theorem giveUp_not_open (q : Tier) (c : Cause) (a : Assembly) : (s.giveUp q c).context q ≠ .opened a := by
  rcases hc : s.context q with _ | b | g
  · rw [giveUp_of_not_opened fun a => by rw [hc]; exact nofun, hc]; exact nofun
  · rw [giveUp_opened hc, context_of_rx ((lawful_discardAssembly c b).frame.rx (by decide)), discarding_context_self]
    exact nofun
  · rw [giveUp_of_not_opened fun a => by rw [hc]; exact nofun, hc]; exact nofun

/-! ## Abandoning (R141, R142) and slips (R130) -/

theorem moves_abandon (c : Cause) (q : Tier) : Moves [] [] s (s.abandon c q) := by
  have hclose := moves_closeContext (s := s) (q := q) (c := .closed) fun _ => nofun
  unfold abandon
  split
  · rename_i a ha
    rw [ha] at hclose
    exact hclose.trans (keeps_discardAssembly c q a).moves
  · rename_i g hg
    rw [hg] at hclose
    exact hclose
  · exact (Keeps.refl [] s).moves

theorem abandon_fragment (c : Cause) (q : Tier) : (s.abandon c q).rx.fragment = s.rx.fragment := by
  unfold abandon
  split
  · rw [(lawful_discardAssembly c _).frame.rx (by decide)]; rfl
  · rfl
  · rfl

theorem abandon_context_self (c : Cause) (q : Tier) : (s.abandon c q).context q = .closed := by
  unfold abandon
  split
  · rw [context_of_rx ((lawful_discardAssembly c _).frame.rx (by decide)), setContext_context_self]
  · exact setContext_context_self ..
  · assumption

theorem abandon_context_other (c : Cause) {q x : Tier} (h : x ≠ q) : (s.abandon c q).context x = s.context x := by
  unfold abandon
  split
  · rw [context_of_rx ((lawful_discardAssembly c _).frame.rx (by decide)), setContext_context_other _ _ h]
  · exact setContext_context_other _ _ h
  · rfl

/-- With no fragment open, an abandoned context leaves the receiver in order. -/
theorem keeps_abandon (c : Cause) (q : Tier) (hf : s.rx.fragment = none) : Keeps [] [] s (s.abandon c q) := by
  refine (moves_abandon c q).keeps_rx (lawful_abandon c q) (by decide) fun _ hs => ?_
  rw [fragmentOk_none hf] at hs
  rw [fragmentOk_none ((abandon_fragment c q).trans hf)]
  intro x a hx
  by_cases e : x = q
  · subst e; rw [abandon_context_self] at hx; cases hx
  · rw [abandon_context_other c e] at hx; exact hs x a hx

theorem keeps_abandonAll (c : Cause) : Keeps [] [] s (s.abandonAll c) :=
  ((moves_foldl (fun _ q => moves_abandon c q) Tier.all s).trans (moves_setFragment none)).keeps_rx
    (lawful_abandonAll c) (by decide) fun _ _ =>
      fragmentOk_of_closed (abandonAll_closes c s).1 (abandonAll_closes c s).2

/-- The fragment record is cleared where every OPEN context has had its header. -/
theorem keeps_clear (hf : ∀ f, s.rx.fragment = some f → f.mode = .storing → f.kind = .next ∨ f.header.length = 4) :
    Keeps [] [] s (s.setFragment none) :=
  (moves_setFragment none).keeps_rx lawful_clearFragment (by decide) fun _ hs => fragmentOk_clear hs hf

/-- A fragment of a context that has been given up. -/
theorem giveUp_fragment {q : Tier} (c : Cause) : (s.giveUp q c).rx.fragment = s.rx.fragment ∨
    (s.giveUp q c).rx.fragment = s.rx.fragment.map fun f =>
      if f.tier = q ∧ f.mode = .storing then { f with mode := .tracking } else f := by
  rcases hc : s.context q with _ | a | g
  · rw [giveUp_of_not_opened fun a => by rw [hc]; exact nofun]; exact .inl rfl
  · rw [giveUp_opened hc, (lawful_discardAssembly c a).frame.rx (by decide), discarding_fragment]; exact .inr rfl
  · rw [giveUp_of_not_opened fun a => by rw [hc]; exact nofun]; exact .inl rfl

/-- A STORING fragment is given up with its context, and the record cleared. -/
theorem keeps_giveUpClear {f : RxFragment} (hf : s.rx.fragment = some f) (c : Cause) :
    Keeps [] [] s ((s.giveUp f.tier c).setFragment none) := by
  refine ((keeps_giveUp f.tier c).moves.trans (moves_setFragment none)).keeps_rx
    ((lawful_giveUp f.tier c).seq lawful_clearFragment (by decide) (ds := contextBlocks)) (by decide) fun ho hs => ?_
  have hok := (keeps_giveUp f.tier c).fragment (Z := _) ho hs
  rw [fragmentOk_none (s := (s.giveUp f.tier c).setFragment none) rfl]
  intro q a hq
  have hne : q ≠ f.tier := by
    rintro rfl
    exact giveUp_not_open f.tier c a hq
  refine hok.2 q a hq fun g hg => ?_
  have htier : g.tier = f.tier := by
    rcases giveUp_fragment (s := s) (q := f.tier) c with e | e <;> rw [e, hf] at hg
    · cases hg; rfl
    · rw [Option.map_some] at hg
      cases hg
      split <;> rfl
  rw [htier]
  exact Ne.symm hne

theorem slip_fragment : s.slip.rx.fragment = none := by
  unfold slip
  split
  · assumption
  · split <;> rfl

theorem keeps_slip : Keeps [] [] s s.slip := by
  unfold slip
  split
  · exact .refl [] s
  · rename_i f hf
    split
    · exact keeps_giveUpClear hf _
    · rename_i hm
      exact keeps_clear fun g hg hst => by
        obtain rfl := Option.some.inj (hf.symm.trans hg)
        exact absurd hst hm

/-! ## Opening markers (R131, R133, R134) -/

theorem foldl_abandon_fragment (c : Cause) (l : List Tier) (s : State) :
    (l.foldl (fun s q => s.abandon c q) s).rx.fragment = s.rx.fragment := by
  induction l generalizing s with
  | nil => rfl
  | cons q l ih => exact (ih _).trans (abandon_fragment c q)

theorem foldl_abandon_context (c : Cause) (l : List Tier) {x : Tier} (hx : x ∉ l) (s : State) :
    (l.foldl (fun s q => s.abandon c q) s).context x = s.context x := by
  induction l generalizing s with
  | nil => rfl
  | cons q l ih =>
    simp only [List.mem_cons, not_or] at hx
    exact (ih hx.2 _).trans (abandon_context_other c hx.1)

theorem keeps_foldl_abandon (c : Cause) (l : List Tier) (s : State) (hf : s.rx.fragment = none) :
    Keeps [] [] s (l.foldl (fun s q => s.abandon c q) s) := by
  induction l generalizing s with
  | nil => exact .refl [] s
  | cons q l ih => exact (keeps_abandon c q hf).trans (ih _ ((abandon_fragment c q).trans hf))

theorem nestingCheck_fragment (q : Tier) : (s.nestingCheck q).rx.fragment = s.rx.fragment := by
  unfold nestingCheck
  dsimp only
  split
  · rw [raiseNotice_rx, foldl_abandon_fragment]
  · exact foldl_abandon_fragment ..

theorem not_mem_moreUrgentThan (q : Tier) : q ∉ moreUrgentThan q := by
  simp [moreUrgentThan, Tier.moreUrgent]

theorem nestingCheck_context (q : Tier) : (s.nestingCheck q).context q = s.context q := by
  unfold nestingCheck
  dsimp only
  split
  · rw [context_of_rx (raiseNotice_rx _ _), foldl_abandon_context _ _ (not_mem_moreUrgentThan q)]
  · exact foldl_abandon_context _ _ (not_mem_moreUrgentThan q) s

theorem keeps_nestingCheck (q : Tier) (hf : s.rx.fragment = none) : Keeps [] [] s (s.nestingCheck q) := by
  have hfold := keeps_foldl_abandon .sequence (moreUrgentThan q) s hf
  unfold nestingCheck
  dsimp only
  split
  · exact hfold.trans (keeps_raiseNotice _)
  · exact hfold

theorem keeps_reopenCheck (q : Tier) (hf : s.rx.fragment = none) : Keeps [] [] s (s.reopenCheck q) := by
  unfold reopenCheck
  dsimp only
  split
  · exact (keeps_abandon .sequence q hf).trans (keeps_raiseNotice _)
  · exact keeps_abandon .sequence q hf

theorem reopenCheck_rx (q : Tier) : (s.reopenCheck q).rx = (s.abandon .sequence q).rx := by
  unfold reopenCheck
  dsimp only
  split
  · rw [raiseNotice_rx]
  · rfl

/-- A context opens for a new frame (R131 step 4). -/
theorem keeps_openContext {q : Tier} (hf : s.rx.fragment = none) (hc : s.context q = .closed) :
    Keeps [] [] s (s.openContext q) := by
  refine ((moves_setContext (fun _ a e => ?_) fun a => ?_).trans (moves_setFragment _)).keeps_rx (lawful_openContext q)
    (by decide) fun _ hs => ?_
  · obtain rfl := Context.opened.inj e
    exact ⟨nofun, fun _ => rfl, nofun⟩
  · rw [hc]
    rfl
  · rw [fragmentOk_none hf] at hs
    refine (fragmentOk_some (s := s.openContext q) (f := newFragment q .first .storing) rfl).2
      ⟨(suits_storing rfl).2 ⟨_, setContext_context_self .., fun _ _ => rfl, fun _ h => absurd h (Nat.not_succ_le_zero 1), ?_⟩,
        fun x a hx hxa => ?_⟩
    · rintro (h | h) <;> cases h
    · refine hs x a ?_
      rw [← hxa]
      exact (setContext_context_other s _ hx).symm

theorem keeps_receiveOpenFirst (q : Tier) : Keeps [] [] s (s.receiveOpenFirst q) := by
  have h1 : (s.slip.nestingCheck q).rx.fragment = none := (nestingCheck_fragment q).trans slip_fragment
  refine ((keeps_slip.trans (keeps_nestingCheck q slip_fragment)).trans (keeps_reopenCheck q h1)).trans
    (keeps_openContext ?_ ?_)
  · rw [reopenCheck_rx, abandon_fragment, h1]
  · rw [context_of_rx (reopenCheck_rx q), abandon_context_self]

/-- A DISCARDING context takes other values. -/
theorem keeps_setDiscarding {q : Tier} {g g' : GivenUp} (hc : s.context q = .discarding g) :
    Keeps [] [] s (s.setContext q (.discarding g')) :=
  (moves_setContext (fun _ _ e => Context.noConfusion e) fun a => (by rw [hc]; rfl)).keeps_rx (lawful_setContext ..) (by decide)
    fun _ => fragmentOk_setDiscarding hc

/-- An OPEN context changes but for its handle, its declared length, its received length and its tag. -/
theorem keeps_setOpened {q : Tier} {a b : Assembly} (hc : s.context q = .opened a) (hh : b.handle = a.handle)
    (hd : b.declared = a.declared) (hr : b.received = a.received) (ht : b.tag = a.tag) :
    Keeps [] [] s (s.setContext q (.opened b)) := by
  refine (moves_setContext (fun ho c e => ?_) fun a => ?_).keeps_rx (lawful_setContext ..) (by decide)
    fun _ => fragmentOk_setOpened hc hh hd ht
  · cases e
    obtain ⟨h1, h2, h3⟩ := ho.rx q a hc
    refine ⟨by rw [hd, hr]; exact h1, by rw [hh, hr]; exact h2, ?_⟩
    rw [hh, hr, ht]
    exact h3
  · rw [hc, Context.members_opened, Context.members_opened, hh]

theorem keeps_indexCheck (q : Tier) (i : FragIx) : Keeps [] [] s (s.indexCheck q i) := by
  unfold indexCheck
  split
  · split
    · exact .refl [] s
    · dsimp only
      refine .trans ?_ (keeps_raiseNotice _)
      split
      · rename_i hg
        exact (keeps_giveUp q .sequence).trans (keeps_setDiscarding hg)
      · exact keeps_giveUp q .sequence
  · rename_i hg
    exact keeps_setDiscarding hg
  · exact .refl [] s

theorem giveUp_not_closed {q : Tier} {c : Cause} (h : s.context q ≠ .closed) : (s.giveUp q c).context q ≠ .closed := by
  rcases hc : s.context q with _ | b | g
  · exact absurd hc h
  · rw [giveUp_opened hc, context_of_rx ((lawful_discardAssembly c b).frame.rx (by decide)), discarding_context_self]
    exact nofun
  · rw [giveUp_of_not_opened fun a => by rw [hc]; exact nofun, hc]; exact nofun

theorem indexCheck_not_closed {q : Tier} {i : FragIx} (h : s.context q ≠ .closed) : (s.indexCheck q i).context q ≠ .closed := by
  unfold indexCheck
  split
  · split
    · exact h
    · dsimp only
      rw [context_of_rx (raiseNotice_rx _ _)]
      split
      · rw [setContext_context_self]; exact nofun
      · exact giveUp_not_closed h
  · rw [setContext_context_self]; exact nofun
  · exact h

theorem indexCheck_fragment {q : Tier} {i : FragIx} (hf : s.rx.fragment = none) :
    (s.indexCheck q i).rx.fragment = none := by
  have hgive : (s.giveUp q .sequence).rx.fragment = none := by
    rcases giveUp_fragment (s := s) (q := q) .sequence with e | e <;> rw [e, hf]
    rfl
  unfold indexCheck
  split
  · split
    · exact hf
    · dsimp only
      rw [raiseNotice_rx]
      split <;> exact hgive
  · exact hf
  · exact hf

/-- A continuation fragment opens beside its context (R134 step 4). -/
theorem keeps_openNext {q : Tier} (hf : s.rx.fragment = none) (hc : s.context q ≠ .closed) :
    Keeps [] [] s (s.setFragment (some (newFragment q .next (s.nextMode q)))) := by
  refine (moves_setFragment _).keeps_rx (lawful_openFragment q .next _) (by decide) fun _ hs => ?_
  rw [fragmentOk_none hf] at hs
  refine (fragmentOk_some (s := s.setFragment _) (f := newFragment q .next (s.nextMode q)) rfl).2 ⟨?_, fun x a _ => hs x a⟩
  rcases hx : s.context q with _ | a | g
  · exact absurd hx hc
  · have hm : s.nextMode q = .storing := by simp [nextMode, hx, Context.isOpen]
    exact (suits_storing hm).2 ⟨a, hx, nofun, nofun, fun _ => hs q a hx⟩
  · have hm : s.nextMode q = .tracking := by simp [nextMode, hx, Context.isOpen]
    refine (suits_tracking hm).2 ?_
    show (s.context q).isDiscarding = true
    rw [hx]
    rfl

theorem keeps_receiveOpenNext (q : Tier) (i : FragIx) : Keeps [] [] s (s.receiveOpenNext q i) := by
  unfold receiveOpenNext
  dsimp only
  have hf := slip_fragment (s := s)
  split
  · rename_i hc
    have hraise : Keeps [] [] s (s.slip.raiseNotice (.sequenceFault q .orphan)) := keeps_slip.trans (keeps_raiseNotice _)
    have hf' : (s.slip.raiseNotice (.sequenceFault q .orphan)).rx.fragment = none := by rw [raiseNotice_rx, hf]
    have hc' : (s.slip.raiseNotice (.sequenceFault q .orphan)).context q = .closed := by
      rw [context_of_rx (raiseNotice_rx _ _), hc]
    refine hraise.trans ?_
    generalize s.slip.raiseNotice (.sequenceFault q .orphan) = v at hf' hc'
    refine (moves_setFragment _).keeps_rx (lawful_openFragment q .next _) (by decide) fun _ hs => ?_
    rw [fragmentOk_none hf'] at hs
    exact (fragmentOk_some (s := v.setFragment _) (f := newFragment q .next .ignored) rfl).2
      ⟨(suits_ignored rfl).2 hc', fun x a _ => hs x a⟩
  · rename_i hc
    have hn : (s.slip.nestingCheck q).rx.fragment = none := (nestingCheck_fragment q).trans hf
    have hnc : (s.slip.nestingCheck q).context q ≠ .closed := by rw [nestingCheck_context]; exact hc
    exact ((keeps_slip.trans (keeps_nestingCheck q hf)).trans (keeps_indexCheck q i)).trans
      (keeps_openNext (indexCheck_fragment hn) (indexCheck_not_closed hnc))

end State

end Sys2Proof.Machine
end

section
/-! PROOFS. The orderly moves of a fragment's octets and of its close (chapter 7), of the link (chapter 6), and of every
command; and the invariants they keep. -/

namespace Sys2Proof.Machine.State

variable {s t u : State} {Y Y' Z : List (Nat × Holder)}

/-! ## Data of a fragment (R135) -/

/-- The record of an open fragment keeps its tier, its kind and its header. -/
def SameHeader (s t : State) : Prop :=
  ∀ g, t.rx.fragment = some g → ∃ f, s.rx.fragment = some f ∧ g.tier = f.tier ∧ g.kind = f.kind ∧ g.header = f.header

theorem SameHeader.refl (s : State) : SameHeader s s := fun g hg => ⟨g, hg, rfl, rfl, rfl⟩

theorem SameHeader.trans (h : SameHeader s t) (g : SameHeader t u) : SameHeader s u := fun x hx => by
  obtain ⟨y, hy, a1, a2, a3⟩ := g x hx
  obtain ⟨z, hz, b1, b2, b3⟩ := h y hy
  exact ⟨z, hz, a1.trans b1, a2.trans b2, a3.trans b3⟩

theorem SameHeader.of_rx (h : t.rx.fragment = s.rx.fragment) : SameHeader s t := fun g hg =>
  ⟨g, h ▸ hg, rfl, rfl, rfl⟩

theorem sameHeader_giveUp (q : Tier) (c : Cause) : SameHeader s (s.giveUp q c) := by
  rcases giveUp_fragment (s := s) (q := q) c with e | e
  · exact .of_rx e
  · intro g hg
    rw [e, Option.map_eq_some_iff] at hg
    obtain ⟨f, hf, rfl⟩ := hg
    refine ⟨f, hf, ?_⟩
    split <;> exact ⟨rfl, rfl, rfl⟩

/-- A frame of a context is on the trunk nowhere. -/
theorem Accounted.not_onTrunk (hs : s.Accounted Z) {h : Nat} {q : Tier} (hk : s.holderOf h = some (.reassembly q)) :
    ¬ s.OnTrunk h := by
  have hne : ∀ k, (h, k) ∈ s.members → k = .reassembly q := fun k hm =>
    Option.some.inj ((hs.holderOf_of_member hm).symm.trans hk)
  rintro (hm | ⟨x, hm⟩)
  · rcases List.mem_append.1 hm with ha | hst
    · cases hne _ (mem_members_active (by simpa using ha))
    · cases hne _ (mem_members_stack hst)
  · cases hne _ (mem_members_queue hm)

theorem handle?_setContext (q : Tier) (c : Context) (j : Nat) : (s.setContext q c).handle? j = s.handle? j := rfl

/-- An octet is stored in the OPEN context of its fragment. -/
theorem keeps_storeInContext {q : Tier} {a : Assembly} {h d : Nat} {mgmt : Bool} {b : Byte} {s1 : State}
    (hc : s.context q = .opened a) (hh : a.handle = some h) (hd : a.declared = some d) (hne : a.received ≠ d)
    (hs1 : s.appendOctet mgmt h b = some s1) :
    Keeps [] [] s (s1.setContext q (.opened { a with received := a.received + 1 })) := by
  refine Keeps.of_orderly fun {Z} ho => ?_
  have hmem := mem_members_context hc hh
  have hk := ho.accounted.holderOf_of_member hmem
  obtain ⟨r, hr, hrk⟩ := handle?_of_holderOf hk
  obtain ⟨chain, -, -, hr', hother, -⟩ := appendOctet_spec hr hs1
  have hl := lawful_appendOctet hs1
  have hctx : ∀ x, s1.context x = s.context x := context_of_rx (hl.frame.rx (by decide))
  have htx : s1.tx = s.tx := hl.frame.tx (by decide)
  have hq : ∀ x, s1.queue x = s.queue x := queue_of_queues (hl.frame.queues (by decide))
  refine Moves.keeps_rx ⟨fun ho' => ⟨storesOk_of_buf (hl.stores ho'.stores) rfl, ?_, ?_, ?_⟩, fun ho' x hx => ?_,
    fun ho' hf j r1 hr1 hk1 => ?_, fun ho' hcore => ?_⟩ (hl.seq (lawful_setContext q _) (by decide) (ds := [.buf, .rx]))
    (by decide) fun _ hf => ?_
  · exact rested_of htx ho'.rested
  · intro x c hx
    by_cases e : x = q
    · subst e
      rw [setContext_context_self] at hx
      obtain rfl := Context.opened.inj hx
      obtain ⟨h1, h2, h3⟩ := ho'.rx x a hc
      refine ⟨fun d' hd' => ?_, fun hn => ?_, fun j r1 hj hr1 => ?_⟩
      · obtain ⟨d1, d2, d3⟩ := h1 d' hd'
        obtain rfl := Option.some.inj (hd.symm.trans hd')
        exact ⟨d1, d2, Nat.lt_of_le_of_ne d3 hne⟩
      · rw [hh] at hn; cases hn
      · obtain rfl := Option.some.inj (hh.symm.trans hj)
        rw [handle?_setContext, hr'] at hr1
        cases hr1
        obtain ⟨g1, g2, g3, g4⟩ := h3 h r hh hr
        exact ⟨g1, g2, congrArg (· + 1) g3, g4⟩
    · rw [setContext_context_other _ _ e, hctx] at hx
      obtain ⟨h1, h2, h3⟩ := ho'.rx x c hx
      refine ⟨h1, h2, fun j r1 hj hr1 => h3 j r1 hj ?_⟩
      have hjh : j ≠ h := by
        rintro rfl
        have := (ho'.accounted.holderOf_of_member (mem_members_context hx hj)).symm.trans hk
        exact e (Holder.reassembly.inj (Option.some.inj this))
      rw [handle?_setContext, hother j hjh] at hr1
      exact hr1
  · refine ho'.accounted.congr (fun j => ?_) fun x => ?_
    · by_cases e : j = h
      · subst e
        rw [hk, ← hrk]
        exact (holderOf_congr (s := s1) rfl).trans ((holderOf_of_handle? hr').trans rfl)
      · exact holderOf_congr (hother j e)
    · have h1 := memberCount_setContext (s := s1) q (.opened { a with received := a.received + 1 }) x
      rw [hctx, hc, memberCount_of_frame hl.frame (by decide) x] at h1
      exact Nat.add_right_cancel h1
  · refine hother _ fun e => ?_
    exact ho'.accounted.not_mem_of_member (k' := x.2) hmem (by rw [← e]; exact hx)
  · by_cases e : j = h
    · subst e
      obtain rfl : r1 = _ := Option.some.inj (hr1.symm.trans hr')
      exact (fits_appendOctet hr hs1 hr').2 (hf j r hr (by rw [hrk]; exact nofun))
    · exact hf j r1 ((hother j e).symm.trans hr1) hk1
  · refine txCore_of hcore htx (fun x => by rw [show State.queue (s1.setContext q _) x = s1.queue x from rfl, hq x])
      (fun j hj => hother j ?_) fun j r1 hr1 => ?_
    · rintro rfl
      exact ho'.accounted.not_onTrunk hk hj
    · by_cases e : j = h
      · subst e
        obtain rfl : r1 = _ := Option.some.inj (hr1.symm.trans hr')
        obtain ⟨g1, g2, g3⟩ := hcore.ready j r hr
        exact ⟨Nat.le_succ_of_le g1, g2, g3⟩
      · exact hcore.ready j r1 ((hother j e).symm.trans hr1)
  · exact fragmentOk_setOpened ((hctx q).trans hc) rfl rfl rfl (fragmentOk_of (hl.frame.rx (by decide)) hf)

theorem keeps_storeData (q : Tier) (b : Byte) : Keeps [] [] s (s.storeData q b) := by
  unfold storeData
  split
  · rename_i a hc
    split
    · rename_i h d hh hd
      split
      · exact keeps_giveUp q _
      · rename_i hne
        split
        · exact keeps_giveUp q _
        · rename_i s1 hs1
          exact keeps_storeInContext hc hh hd hne hs1
    · exact .refl [] s
  · exact .refl [] s

theorem sameHeader_storeData (q : Tier) (b : Byte) : SameHeader s (s.storeData q b) := by
  unfold storeData
  split
  · split
    · split
      · exact sameHeader_giveUp q _
      · split
        · exact sameHeader_giveUp q _
        · rename_i s1 hs1
          have hrx := (lawful_appendOctet hs1).frame.rx (by decide)
          exact .of_rx (show s1.rx.fragment = s.rx.fragment by rw [hrx])
    · exact .refl s
  · exact .refl s

theorem keeps_storeHeld (q : Tier) (l : List Byte) : Keeps [] [] s (s.storeHeld q l) := by
  induction l generalizing s with
  | nil => exact .refl [] s
  | cons b l ih => exact (keeps_storeData q b).trans ih

theorem sameHeader_storeHeld (q : Tier) (l : List Byte) : SameHeader s (s.storeHeld q l) := by
  induction l generalizing s with
  | nil => exact .refl s
  | cons b l ih => exact (sameHeader_storeData q b).trans ih

/-! ## The header of a first fragment (R132) -/

/-- The tag's two octets stored in a granted handle (R132, R6): both, or none for want of the first cell. -/
theorem appendTag_cases {mgmt ok : Bool} {h : Nat} {r : Handle} {tag : Tag} (hr : s.handle? h = some r)
    (hlen : r.bodyLength = 0) (ht : s.appendOctets mgmt h (octets2 tag) = (ok, t)) :
    (ok = false → t = s ∧ s.cellGranted mgmt = false) ∧
    (ok = true → s.cellGranted mgmt = true ∧ ∃ chain, t.handle? h = some { r with bodyLength := 2, chain := chain }) := by
  have hpair : octets2 tag = [tag.extractLsb' 8 8, tag.extractLsb' 0 8] := rfl
  rw [hpair] at ht
  simp only [appendOctets] at ht
  split at ht
  · rename_i hnone
    cases ht
    exact ⟨fun _ => ⟨rfl, ((appendOctet_none hr).1 hnone).2⟩, nofun⟩
  · rename_i s1 hs1
    obtain ⟨chain1, -, hg, hr1, -⟩ := appendOctet_spec hr hs1
    split at ht
    · rename_i hnone
      have := ((appendOctet_none hr1).1 hnone).1
      rw [hlen] at this
      cases this
    · rename_i s2 hs2
      obtain ⟨chain2, -, -, hr2, -⟩ := appendOctet_spec hr1 hs2
      cases ht
      refine ⟨nofun, fun _ => ⟨hg (by rw [hlen]; rfl), chain2, hr2.trans ?_⟩⟩
      rw [hlen]

/-- The declared length of a first fragment (R132, second octet). -/
theorem moves_headerLength {g : RxFragment} {a : Assembly} (hf : s.rx.fragment = some g)
    (hg : g.kind = .first ∧ g.mode = .storing ∧ g.header.length = 2) (hs : s.OthersComplete g.tier)
    (hc : s.context g.tier = .opened a) (hh : a.handle = none) (d : Nat) :
    Moves [] [] s (s.headerLength g.tier d) ∧ (s.headerLength g.tier d).FragmentOk := by
  obtain ⟨hkind, hmode, hlen⟩ := hg
  unfold headerLength
  split
  · exact moves_giveUp .frameCheck hc (orderedBut_of_some hf hmode hs)
  · rename_i hd
    simp only [hc]
    refine ⟨moves_setContext (fun ho c e => ?_) fun x => ?_, ?_⟩
    · obtain rfl := Context.opened.inj e
      obtain ⟨-, h2, h3⟩ := ho.rx g.tier a hc
      refine ⟨fun d' hd' => ?_, h2, h3⟩
      obtain rfl := Option.some.inj hd'
      simp only [Config.minBody, Config.maxBody] at hd
      exact ⟨by omega, by omega, by rw [show a.received = 0 from h2 hh]; exact Nat.zero_le _⟩
    · rw [hc]
      rfl
    · refine (fragmentOk_some (s := s.setContext g.tier _) hf).2 ⟨(suits_storing hmode).2 ⟨_, setContext_context_self ..,
        fun _ _ => hh, fun _ _ => nofun, fun h => ?_⟩, fun x c hx hxc => ?_⟩
      · rcases h with h | h
        · rw [hkind] at h; cases h
        · rw [hlen] at h; cases h
      · rw [setContext_context_other _ _ hx] at hxc
        exact hs x c hx hxc

/-- The handle of a first fragment joins its context. -/
theorem moves_takeHandle {q : Tier} {a b : Assembly} {h : Nat} {r : Handle} (hc : s.context q = .opened a)
    (hh : a.handle = none) (hb : b.handle = some h ∧ b.declared = a.declared ∧ b.tag = some r.tag)
    (hr : s.handle? h = some r) (hk : r.holder = .reassembly q ∧ r.stream = none ∧ r.bodyLength = b.received)
    (hd : b.received ≤ 8) : Moves [(h, .reassembly q)] [] s (s.setContext q (.opened b)) := by
  refine moves_setContext (fun ho c e => ?_) fun x => ?_
  · obtain rfl := Context.opened.inj e
    obtain ⟨h1, -, -⟩ := ho.rx q a hc
    refine ⟨fun d hd' => ?_, fun hn => ?_, fun j r' hj hr' => ?_⟩
    · rw [hb.2.1] at hd'
      obtain ⟨d1, d2, -⟩ := h1 d hd'
      exact ⟨d1, d2, hd.trans d1⟩
    · rw [hb.1] at hn; cases hn
    · rw [hb.1] at hj
      cases hj
      obtain rfl := Option.some.inj (hr.symm.trans hr')
      exact ⟨hk.1, hk.2.1, hk.2.2, hb.2.2⟩
  · rw [hc]
    simp [hh, hb.1]

theorem OthersComplete.of_rx {q : Tier} (hs : s.OthersComplete q) (h : t.rx = s.rx) : t.OthersComplete q :=
  fun x b hx hb => hs x b hx (by rwa [context_of_rx h] at hb)

theorem OthersComplete.setContext {q : Tier} (hs : s.OthersComplete q) (c : Context) :
    (s.setContext q c).OthersComplete q := fun x b hx hb => hs x b hx (by rwa [setContext_context_other _ _ hx] at hb)

/-- The tag of a first fragment, and the claims of its kind (R132, fourth octet). -/
theorem moves_headerTag {g : RxFragment} {a : Assembly} (hf : s.rx.fragment = some g)
    (hg : g.kind = .first ∧ g.mode = .storing ∧ g.header.length = 4) (hs : s.OthersComplete g.tier)
    (hc : s.context g.tier = .opened a) (hh : a.handle = none) (hd : a.declared ≠ none)
    (hrec : a.received = 0) (tag : Tag) :
    Moves [] [] s (s.headerTag g.tier tag) ∧ (s.headerTag g.tier tag).FragmentOk := by
  obtain ⟨hkind, hmode, hlen⟩ := hg
  have hstep : Moves [] [] s (s.setContext g.tier
      (.opened { a with tag := some tag, mgmt := addressesPart s.part.node tag })) := by
    refine moves_setContext (fun ho c e => ?_) fun x => ?_
    · obtain rfl := Context.opened.inj e
      obtain ⟨h1, h2, -⟩ := ho.rx g.tier a hc
      exact ⟨h1, h2, fun j r' hj => by rw [show a.handle = some j from hj] at hh; cases hh⟩
    · rw [hc]
      rfl
  unfold headerTag
  simp only [hc]
  generalize addressesPart s.part.node tag = m at hstep ⊢
  generalize hu : s.setContext g.tier (.opened { a with tag := some tag, mgmt := m }) = u at hstep ⊢
  have hc0 : u.context g.tier = .opened { a with tag := some tag, mgmt := m } := by
    rw [← hu]
    exact setContext_context_self ..
  have hf0 : u.rx.fragment = some g := by
    rw [← hu]
    exact hf
  have hs0 : u.OthersComplete g.tier := by
    rw [← hu]
    exact hs.setContext _
  split
  · obtain ⟨h1, h2⟩ := moves_giveUp .noHandle hc0 (orderedBut_of_some hf0 hmode hs0)
    exact ⟨hstep.trans h1, h2⟩
  · rename_i h s1 hclaim
    obtain ⟨-, -, hs1, -⟩ := claimHandle_spec hclaim
    have hr1 : s1.handle? h = some (Handle.granted (.reassembly g.tier) tag g.tier none) := by
      rw [hs1]
      exact setHandle_handle?_self ..
    have hmoves := (hstep.trans (keeps_claimHandle hclaim).moves).trans
      (keeps_appendOctets (s := s1) (h := h) (k := .reassembly g.tier) m (octets2 tag)).moves
    have hrx2 : (s1.appendOctets m h (octets2 tag)).2.rx = u.rx :=
      ((lawful_claimHandle hclaim).trans (lawful_appendOctets m h _)).frame.rx (by decide)
    split
    · rename_i s2 hs2
      obtain ⟨rfl, -⟩ := (appendTag_cases hr1 rfl hs2).1 rfl
      rw [hs2] at hmoves hrx2
      obtain ⟨h1, h2⟩ := moves_giveUp .noCell (setContext_context_self s2 g.tier
        (.opened { a with tag := some tag, mgmt := m, handle := some h }))
        (orderedBut_of_some (f := g) ((congrArg Receiver.fragment hrx2).trans hf0) hmode ((hs0.of_rx hrx2).setContext _))
      have htake := moves_takeHandle (b := { a with tag := some tag, mgmt := m, handle := some h })
        ((context_of_rx hrx2 _).trans hc0) hh ⟨rfl, rfl, rfl⟩ hr1 ⟨rfl, rfl, hrec.symm⟩ (hrec.trans_le (Nat.zero_le 8))
      exact ⟨(hmoves.trans htake).trans h1, h2⟩
    · rename_i s2 hs2
      obtain ⟨-, chain, hr2⟩ := (appendTag_cases hr1 rfl hs2).2 rfl
      rw [hs2] at hmoves hrx2
      have htake := moves_takeHandle (b := { a with tag := some tag, mgmt := m, handle := some h, received := 2 })
        ((context_of_rx hrx2 _).trans hc0) hh ⟨rfl, rfl, rfl⟩ hr2 ⟨rfl, rfl, rfl⟩ (Nat.le_of_ble_eq_true rfl)
      have hcomplete : (Assembly.mk (some h) (some tag) a.declared 2 a.expected m).Complete := ⟨nofun, hd, nofun⟩
      refine ⟨hmoves.trans htake, (fragmentOk_some (s := s2.setContext g.tier _) (f := g)
        ((congrArg Receiver.fragment hrx2).trans hf0)).2 ⟨(suits_storing hmode).2 ⟨_, setContext_context_self s2 g.tier _,
          fun _ hl => ?_, fun _ _ => hd, fun _ => hcomplete⟩, (hs0.of_rx hrx2).setContext _⟩⟩
      rw [hlen] at hl
      exact absurd hl (Nat.lt_irrefl 4)

/-- A header octet of a first fragment (R132). -/
theorem keeps_headerOctet {f : RxFragment} (hs : ReceiverOk s) (hf : s.rx.fragment = some f) (hkind : f.kind = .first)
    (hlen : f.header.length < 4) (b : Byte) : Keeps [] [] s (s.headerOctet f b) := by
  obtain ⟨hfr, hctx⟩ := receiverOk_iff.1 hs
  obtain ⟨hsuit, hothers⟩ := (fragmentOk_some hf).1 hfr
  have hmain : Moves [] [] s (s.headerOctet f b) ∧ (s.headerOctet f b).FragmentOk := by
    unfold headerOctet
    dsimp only
    generalize hg : ({ f with header := f.header ++ [b], check := checkOctet fragmentGenerator f.check b } : RxFragment) = g
    have hgf : g.tier = f.tier ∧ g.kind = .first ∧ g.mode = f.mode ∧ g.header = f.header ++ [b] := by
      rw [← hg]
      exact ⟨rfl, hkind, rfl, rfl⟩
    obtain ⟨htier, hgkind, hgmode, hheader⟩ := hgf
    have hset := moves_setFragment (s := s) (some g)
    have hothers' : (s.setFragment (some g)).OthersComplete g.tier := by
      rw [htier]
      exact hothers
    have hglen : g.header.length = f.header.length + 1 := by rw [hheader, List.length_append]; rfl
    split
    · rename_i hm
      obtain ⟨a, hc, h1, h2, -⟩ := (suits_storing hm).1 hsuit
      have hh := h1 hkind hlen
      have hrec := (hctx f.tier a hc).2.1 hh
      rw [← htier] at hc ⊢
      split
      · rename_i x y he
        obtain ⟨hmove, hok⟩ := moves_headerLength (s := s.setFragment (some g)) rfl
          ⟨hgkind, hgmode.trans hm, by rw [hheader, he]; rfl⟩ hothers' hc hh (word16 x y).toNat
        exact ⟨hset.trans hmove, hok⟩
      · rename_i x y z w he
        have hd := h2 hkind (by rw [hheader, he] at hglen; simp only [List.length_cons, List.length_nil] at hglen; omega)
        obtain ⟨hmove, hok⟩ := moves_headerTag (s := s.setFragment (some g)) rfl
          ⟨hgkind, hgmode.trans hm, by rw [hheader, he]; rfl⟩ hothers' hc hh hd hrec (word16 z w)
        exact ⟨hset.trans hmove, hok⟩
      · rename_i hne2 hne4
        have hodd : g.header.length = 1 ∨ g.header.length = 3 := by
          have hle : g.header.length ≤ 4 := by omega
          match hx : g.header with
          | [] => rw [hx] at hglen; cases hglen
          | [_] => exact .inl rfl
          | [x, y] => exact absurd (hheader.symm.trans hx) (hne2 x y)
          | [_, _, _] => exact .inr rfl
          | [x, y, z, w] => exact absurd (hheader.symm.trans hx) (hne4 x y z w)
          | _ :: _ :: _ :: _ :: _ :: _ => rw [hx] at hle; simp only [List.length_cons] at hle; omega
        refine ⟨hset, (fragmentOk_some (s := s.setFragment (some g)) rfl).2 ⟨(suits_storing (hgmode.trans hm)).2
          ⟨a, hc, fun _ _ => hh, fun _ _ => h2 hkind (by omega), fun h => ?_⟩, hothers'⟩⟩
        rcases h with h | h
        · rw [hgkind] at h; cases h
        · omega
    · rename_i hm
      refine ⟨hset, (fragmentOk_some (s := s.setFragment (some g)) rfl).2 ⟨?_, hothers'⟩⟩
      unfold Suits at hsuit ⊢
      rw [hgmode, htier]
      rcases hmode : f.mode with _ | _ | _
      · exact absurd hmode hm
      · rw [hmode] at hsuit; exact hsuit
      · rw [hmode] at hsuit; exact hsuit
  exact hmain.1.keeps_rx (lawful_headerOctet hf hlen b) (by decide) fun _ _ => hmain.2

/-! ## Data and closes at the receiver (R135 to R138) -/

theorem keeps_hold {f g : RxFragment} (hf : s.rx.fragment = some f) (htier : g.tier = f.tier)
    (hkind : g.kind = f.kind) (hmode : g.mode = f.mode) (hheader : g.header = f.header) :
    Keeps [] [] s (s.setFragment (some g)) :=
  (moves_setFragment (some g)).keeps (fun _ _ => idleOk_of rfl fun _ => rfl) (fun _ _ => busyOk_of rfl)
    fun _ => fragmentOk_hold hf htier hkind hmode hheader

theorem keeps_receiveData (hs : ReceiverOk s) (b : Byte) : Keeps [] [] s (s.receiveData b) := by
  unfold receiveData
  split
  · exact .refl [] s
  · rename_i f hf
    split
    · rename_i hk
      exact keeps_headerOctet hs hf hk.1 hk.2 b
    · split
      · exact keeps_hold hf rfl rfl rfl rfl
      · rename_i oldest rest _
        split
        · exact keeps_hold hf rfl rfl rfl rfl
        · have hset : Keeps [] [] s (s.setFragment (some { f with
              hold := rest ++ [b], check := checkOctet fragmentGenerator f.check oldest })) :=
            keeps_hold hf rfl rfl rfl rfl
          dsimp only
          split
          · exact hset.trans (keeps_storeData _ _)
          · exact hset

theorem keeps_advanceIndex (q : Tier) : Keeps [] [] s (s.advanceIndex q) := by
  unfold advanceIndex
  split
  · rename_i hc
    exact keeps_setOpened hc rfl rfl rfl rfl
  · rename_i hc
    exact keeps_setDiscarding hc
  · exact .refl [] s

theorem advanceIndex_fragment (q : Tier) : (s.advanceIndex q).rx.fragment = s.rx.fragment := by
  unfold advanceIndex
  split <;> rfl

theorem header_of_checks {f : RxFragment} {n : Nat} (h : f.checks n = true) : f.kind = .next ∨ f.header.length = 4 := by
  simp only [RxFragment.checks, Bool.and_eq_true, Bool.or_eq_true, decide_eq_true_eq] at h
  exact h.1.2

theorem keeps_receiveCloseMore : Keeps [] [] s s.receiveCloseMore := by
  unfold receiveCloseMore
  split
  · exact .refl [] s
  · rename_i f hf
    have hown : ∀ {u : State}, SameHeader s u → (f.kind = .next ∨ f.header.length = 4) →
        ∀ g, u.rx.fragment = some g → g.mode = .storing → g.kind = .next ∨ g.header.length = 4 := by
      intro u hu h g hg _
      obtain ⟨f', hf', -, hk, hh⟩ := hu g hg
      obtain rfl := Option.some.inj (hf.symm.trans hf')
      rwa [hk, hh]
    have hclear : f.mode ≠ .storing → ∀ {u : State}, u.rx.fragment = s.rx.fragment →
        ∀ g, u.rx.fragment = some g → g.mode = .storing → g.kind = .next ∨ g.header.length = 4 := by
      intro hm u hu g hg hst
      obtain rfl := Option.some.inj (hf.symm.trans (hu.symm.trans hg))
      exact absurd hst hm
    split
    · rename_i hm hc
      refine ((keeps_storeHeld _ _).trans (keeps_advanceIndex _)).trans (keeps_clear (hown ?_ (header_of_checks hc)))
      exact (sameHeader_storeHeld _ _).trans (.of_rx (advanceIndex_fragment _))
    · exact keeps_giveUpClear hf _
    · rename_i hm hc
      exact (keeps_advanceIndex _).trans (keeps_clear (hclear (by rw [hm]; exact nofun) (advanceIndex_fragment _)))
    · rename_i hm hc
      exact keeps_clear (hclear (by rw [hm]; exact nofun) rfl)
    · rename_i hm
      exact keeps_clear (hclear (by rw [hm]; exact nofun) rfl)

theorem keeps_completeFrame (q : Tier) (a : Assembly) (check : List Byte) :
    Keeps ((Context.opened a).members q) [] s (s.completeFrame a check) := by
  unfold completeFrame
  rw [Context.members_opened]
  split
  · rename_i hh
    rw [hh]
    exact keeps_countDiscard ..
  · rename_i h hh
    rw [hh]
    show Keeps [(h, .reassembly q)] [] s _
    split
    · split
      · exact keeps_offerInbox (k := .reassembly q) ⟨nofun, nofun, nofun⟩
      · exact keeps_routeStream (k := .reassembly q) ⟨nofun, nofun, nofun⟩ _
    · exact keeps_discard _

/-- The fragment's context is closed, its frame between two collections (R138 step 3). -/
theorem keeps_closeFragment {f : RxFragment} (hf : s.rx.fragment = some f) :
    Keeps [] ((s.context f.tier).members f.tier) s ((s.setContext f.tier .closed).setFragment none) := by
  have hclose := moves_closeContext (s := s) (q := f.tier) (c := .closed) fun _ => nofun
  have hset := moves_setFragment (s := s.setContext f.tier .closed) none
  refine Moves.keeps_rx (hclose.trans ⟨fun ho => hset.orderly (Z := _ ++ _) ho, fun ho x hx =>
    hset.aside (Z := _ ++ _) ho x (List.mem_append_right _ hx), fun ho => hset.fits (Z := _ ++ _) ho,
    fun ho => hset.core (Z := _ ++ _) ho⟩) ((lawful_setContext f.tier .closed).trans lawful_clearFragment) (by decide)
    fun _ hs => ?_
  obtain ⟨-, hothers⟩ := (fragmentOk_some hf).1 hs
  rw [fragmentOk_none (s := (s.setContext f.tier .closed).setFragment none) rfl]
  intro x b hx
  by_cases e : x = f.tier
  · subst e
    rw [show ((s.setContext f.tier .closed).setFragment none).context f.tier = _ from setContext_context_self ..] at hx
    cases hx
  · exact (hothers.setContext .closed) x b e hx

theorem keeps_receiveCloseLast : Keeps [] [] s s.receiveCloseLast := by
  unfold receiveCloseLast
  split
  · exact .refl [] s
  · rename_i f hf
    split
    · rename_i hm
      exact keeps_clear fun g hg hst => by
        obtain rfl := Option.some.inj (hf.symm.trans hg)
        rw [hm] at hst
        cases hst
    · dsimp only
      have hfirst : Keeps [] [] s (if f.mode = .storing ∧ f.checks 6 = false then s.giveUp f.tier .fragmentCheck else s) ∧
          ∃ g, (if f.mode = .storing ∧ f.checks 6 = false then s.giveUp f.tier .fragmentCheck else s).rx.fragment =
            some g ∧ g.tier = f.tier := by
        split
        · refine ⟨keeps_giveUp _ _, ?_⟩
          rcases giveUp_fragment (s := s) (q := f.tier) .fragmentCheck with e | e
          · exact ⟨f, e.trans hf, rfl⟩
          · rw [e, hf, Option.map_some]
            exact ⟨_, rfl, by split <;> rfl⟩
        · exact ⟨.refl [] s, f, hf, rfl⟩
      generalize (if f.mode = .storing ∧ f.checks 6 = false then s.giveUp f.tier .fragmentCheck else s) = s1 at hfirst ⊢
      obtain ⟨hgive, g, hg, htier⟩ := hfirst
      have hclose := hgive.trans (keeps_closeFragment hg)
      rw [htier] at hclose
      split
      · rename_i a ha
        rw [ha] at hclose
        exact hclose.trans (keeps_completeFrame f.tier a _)
      · rename_i hno
        rcases hc : s1.context f.tier with _ | a | d
        · rw [hc] at hclose; exact hclose
        · exact absurd hc (hno a)
        · rw [hc] at hclose; exact hclose

end Sys2Proof.Machine.State
end

section
/-! PROOFS. Every command and every tick is an orderly move; and the invariants of the handles, the chains and the
transmitter that follow (O12, O13, O17). -/

namespace Sys2Proof.Machine

namespace State

variable {s t : State}

/-! ## The link (chapter 6) -/

theorem keeps_withLine (v : TrunkLine) : Keeps [] [] s (s.withLine v) := keeps_of_frame (lawful_withLine v) (by decide)

/-- Leaving UP (R120). -/
theorem keeps_leaveUp : Keeps [] [] s s.leaveUp := by
  have hmoves : Moves [] [] s s.leaveUp :=
    ((((keeps_withLine _).moves.trans moves_transmitterLoss).trans (keeps_abandonAll .trunkDown).moves).trans
      (keeps_withLine _).moves).trans (keeps_syncTimer.trans keeps_trunkIdle).moves
  obtain ⟨u, v, he, -, htx, ⟨hfrag, hctx⟩, -⟩ := leaveUp_eq s
  have htail : Lawful [.notices, .line] (u.withLine v) s.leaveUp := by
    rw [he]
    exact lawful_syncTimer.seq lawful_trunkIdle (by decide)
  have hoff : s.leaveUp.tx.mode = .offline := by
    rw [htail.frame.tx (by decide), withLine_tx, htx]
  have hrx : s.leaveUp.rx = u.rx := htail.frame.rx (by decide)
  exact hmoves.keeps (fun _ _ _ h => absurd (hoff.symm.trans h) nofun) (fun _ _ _ h => absurd (hoff.symm.trans h) nofun)
    fun _ _ => fragmentOk_of_closed ((congrArg Receiver.fragment hrx).trans hfrag) fun q =>
      (context_of_rx hrx q).trans (hctx q)

/-- Reaching UP (R122). -/
theorem keeps_reachUp (hoff : s.tx.mode = .offline) : Keeps [] [] s s.reachUp := by
  refine Keeps.of_orderly fun ho => ?_
  obtain ⟨ha, hf, hst⟩ := ho.rested (by rw [hoff]; exact nofun)
  have hclearing : Keeps [] [] s ((s.withLine { s.line with
      link := .up, idleRun := 0, invalidRun := 0, beenUp := true }).withTx { s.tx with mode := .clearing }) := by
    refine (keeps_withLine _).trans (Moves.keeps (moves_withTx (fun _ _ => ⟨ha, hf, hst⟩) (fun _ => rfl) fun _ hc => ?_)
      (fun _ _ _ h => absurd h nofun) (fun _ _ _ h => absurd h nofun) fun _ => id)
    exact ⟨hc.fragment, hc.rising, hc.current, hc.cut, hc.queued, hc.ready⟩
  unfold reachUp
  dsimp only
  refine Keeps.trans ?_ (keeps_syncTimer.trans keeps_noticeResume)
  split
  · exact hclearing.trans (keeps_raiseNotice _)
  · exact hclearing

theorem keeps_trunkSymbol {f : State → State} (hs : ReceiverOk s) (hf : ∀ u, ReceiverOk u → Keeps [] [] u (f u)) :
    Keeps [] [] s (s.trunkSymbol f) := by
  unfold trunkSymbol
  split
  · exact .refl [] s
  · split
    · exact keeps_withLine _
    · exact keeps_withLine _
    · exact ((keeps_withLine _).trans (hf s.validSymbol hs)).trans keeps_settle

theorem keeps_trunkIdleSymbol (hl : LinkOk s) : Keeps [] [] s s.trunkIdleSymbol := by
  unfold trunkIdleSymbol
  split
  · exact .refl [] s
  · split
    · exact keeps_withLine _
    · rename_i hlink
      split
      · exact keeps_withLine _
      · refine keeps_reachUp ?_
        by_contra hoff
        have := hl.2.2.2.2.2.2.1.2 hoff
        rw [hlink] at this
        cases this
    · exact keeps_withLine _

theorem keeps_trunkInvalid : Keeps [] [] s s.trunkInvalid := by
  unfold trunkInvalid
  split
  · exact .refl [] s
  · split
    · exact keeps_withLine _
    · exact keeps_withLine _
    · split
      · exact ((keeps_withLine _).trans keeps_slip).trans keeps_settle
      · exact keeps_leaveUp.trans keeps_settle

theorem keeps_losAsserted : Keeps [] [] s s.losAsserted := by
  unfold losAsserted
  dsimp only
  split
  · exact keeps_withLine _
  · exact (keeps_withLine _).trans (keeps_withLine _)
  · exact ((keeps_withLine _).trans keeps_leaveUp).trans keeps_settle

theorem keeps_losDeasserted : Keeps [] [] s s.losDeasserted := by
  unfold losDeasserted
  dsimp only
  split
  · exact (keeps_withLine _).trans (keeps_withLine _)
  · exact keeps_withLine _

theorem keeps_request (h : ReqHeader) (kind : Byte) (args : List Byte) : Keeps [] [] s (s.request h kind args) :=
  (keeps_deliverRequest _ _).trans keeps_settle

/-- CLOSE LAST sent, with the release event and the selection (R100). -/
theorem keeps_closeLastSent {u : State} (hc : s.completeActive = some u) :
    Keeps [] [] s u.settle.selectAfterClose := by
  obtain ⟨h, f, r, ha, -, -, -, rfl⟩ := completeActive_some hc
  have hmoves := moves_completed (f := f) (r := r) ha
  have hsettle := keeps_settle (s := s.completed h f r)
  have hframe := (lawful_completeActive hc).frame
  have hmode : (s.completed h f r).tx = { s.tx with active := none, fragment := none } := rfl
  refine keeps_selectAfterClose (hmoves.trans hsettle.moves) (fun {Z} ho hcore hi => ?_) fun {Z} ho hfr => ?_
  · refine hsettle.idle (Z := Z) (hmoves.orderly (Z := Z) ho) (hmoves.core (Z := Z) ho hcore) fun hm => ?_
    rw [hmode] at hm ⊢
    exact ⟨fun q => by rw [queue_of_queues (hframe.queues (by decide))]; exact (hi hm).1 q, (hi hm).2⟩
  · exact hsettle.fragment (Z := Z) (hmoves.orderly (Z := Z) ho) (fragmentOk_of (hframe.rx (by decide)) hfr)

end State

/-- Every command but power-on reset is an orderly move. -/
theorem keeps_exec {x : Instr} (hx : ∀ straps los, x ≠ .powerOnReset straps los) {s t : State} (hl : LinkOk s)
    (hs : ReceiverOk s) (h : exec x s = .next t) : Keeps [] [] s t := by
  cases x with
  | powerOnReset straps los => exact absurd rfl (hx straps los)
  | tributaryOpen p => cases h; exact (State.keeps_ingressOpen p).trans State.keeps_settle
  | tributaryDataOctet p b => cases h; exact (State.keeps_ingressData p b).trans State.keeps_settle
  | closeEnd p => cases h; exact (State.keeps_ingressEnd p).trans State.keeps_settle
  | closeAbort p => cases h; exact (State.keeps_ingressAbort p).trans State.keeps_settle
  | tributaryInvalidSymbol p => cases h; exact (State.keeps_endIngress p _ rfl).trans State.keeps_settle
  | tributaryIdle p => cases h; exact .refl [] s
  | egressCloseEndSent p => cases h; exact (State.keeps_egressSent p).trans State.keeps_settle
  | trkLosAsserted => cases h; exact State.keeps_losAsserted
  | trkLosDeasserted => cases h; exact State.keeps_losDeasserted
  | trunkIdleReceived => cases h; exact State.keeps_trunkIdleSymbol hl
  | openFirst q => cases h; exact State.keeps_trunkSymbol hs fun _ _ => State.keeps_receiveOpenFirst q
  | openNext q i => cases h; exact State.keeps_trunkSymbol hs fun _ _ => State.keeps_receiveOpenNext q i
  | trunkDataOctet b => cases h; exact State.keeps_trunkSymbol hs fun _ hu => State.keeps_receiveData hu b
  | closeMore => cases h; exact State.keeps_trunkSymbol hs fun _ _ => State.keeps_receiveCloseMore
  | closeLast => cases h; exact State.keeps_trunkSymbol hs fun _ _ => State.keeps_receiveCloseLast
  | clearReceived => cases h; exact State.keeps_trunkSymbol hs fun _ _ => State.keeps_abandonAll .cleared
  | trunkInvalidSymbol => cases h; exact State.keeps_trunkInvalid
  | blockSent => cases h; exact State.keeps_blockSent
  | closeMoreSent => cases h; exact State.keeps_closeMoreSent
  | closeLastSent =>
    rcases hc : s.completeActive with _ | u <;> simp only [exec, execCloseLastSent, hc] at h <;> cases h
    · exact .refl [] s
    · exact State.keeps_closeLastSent hc
  | clearSent => cases h; exact State.keeps_clearSent
  | epochExpiry => cases h; exact State.keeps_of_frame State.lawful_epochExpiry (by decide)
  | windowIdleTimeout => cases h; exact State.keeps_agentFields rfl
  | resendTimerExpiry => cases h; exact State.keeps_resendExpiry
  | agentAttemptEvent =>
    cases h
    split
    · exact State.keeps_attempt
    · exact .refl [] s
  | agentRetry =>
    cases h
    split
    · exact State.keeps_attempt
    · exact .refl [] s
  | noticeClaimRetry => cases h; exact State.keeps_noticeRetry
  | malformedRequest q b rest => cases h; exact (State.keeps_deliverRequest _ _).trans State.keeps_settle
  | select r table base => cases h; exact State.keeps_request ..
  | release r => cases h; exact State.keeps_request ..
  | read r offset count => cases h; exact State.keeps_request ..
  | writeStream r offset count es => cases h; exact State.keeps_request ..
  | writeAllot r offset count es => cases h; exact State.keeps_request ..
  | writeStreamTally r offset count es => cases h; exact State.keeps_request ..
  | writeTier r offset count es => cases h; exact State.keeps_request ..
  | writePort r offset count es => cases h; exact State.keeps_request ..
  | writePart r offset count es => cases h; exact State.keeps_request ..
  | writeDiscard r offset count es => cases h; exact State.keeps_request ..
  | writeNotices r offset count es => cases h; exact State.keeps_request ..
  | append r tail new => cases h; exact State.keeps_request ..
  | acknowledge r sequence => cases h; exact State.keeps_request ..
  | status r => cases h; exact State.keeps_request ..
  | restart r => cases h; exact State.keeps_request ..
  | portReset r port => cases h; exact State.keeps_request ..

/-- A step is a power-on reset or an orderly move. -/
theorem keeps_step {s t : State} (hl : LinkOk s) (hs : ReceiverOk s) (h : step s = .next t) :
    (∃ (u : State) (straps : BitVec 6) (los : Bool), u.buf = s.buf ∧ t = u.powerOn straps los) ∨ Keeps [] [] s t := by
  rcases hp : s.pending with _ | ⟨x, rest⟩
  · rw [step_of_pending_nil hp] at h
    cases h
    exact .inr State.keeps_tick
  · rw [step_of_pending hp] at h
    by_cases hx : ∃ straps los, x = .powerOnReset straps los
    · obtain ⟨straps, los, rfl⟩ := hx
      cases h
      exact .inl ⟨s.withPending rest, straps, los, rfl, rfl⟩
    · exact .inr ((State.keeps_of_frame (State.lawful_withPending rest) (by decide)).trans
        (keeps_exec (s := s.withPending rest) (fun straps los he => hx ⟨straps, los, he⟩) hl hs h))

/-! ## The invariants -/

theorem orderly_of {s : State} (hs : StoresOk s) (hl : LinkOk s) (hr : ReceiverOk s) (hh : HoldersOk s) : Orderly [] s :=
  ⟨hs, hl.2.2.2.2.2.2.2.1, (receiverOk_iff.1 hr).2, (State.holdersOk_iff hs).1 hh⟩

/-- A frame being built is in no collection (R3). -/
theorem not_agentBuild_mem {s : State} (h : Nat) : (h, Holder.agentBuild) ∉ s.members := by
  intro hm
  simp only [State.members, List.mem_append, List.mem_flatMap, List.mem_map, Prod.mk.injEq] at hm
  rcases hm with ((((⟨p, -, hi | ⟨_, -, -, e⟩⟩ | ⟨_, -, _, -, -, e⟩) | ⟨_, -, -, e⟩) | ⟨_, -, -, e⟩) | ⟨q, -, hc⟩) |
    ⟨_, -, -, e⟩
  · rcases hx : (s.port p).ingress with _ | _ | _ | _ <;> rw [hx] at hi <;> simp at hi
  · cases e
  · cases e
  · cases e
  · cases e
  · rcases hx : s.context q with _ | a | _ <;> rw [hx] at hc <;> simp at hc
  · cases e

/-- At rest no frame is being built, so every chain fits. -/
theorem chainsFit_iff {s : State} (ho : Orderly [] s) : ChainsFit s ↔ s.FitsBuilt := by
  have hnone : ∀ h r, s.handle? h = some r → r.holder ≠ .agentBuild := by
    intro h r hr hk
    have := ho.accounted h .agentBuild
    rw [State.holderOf_of_handle? hr, hk, if_pos rfl, List.count_nil, Nat.add_zero] at this
    have hpos : 0 < s.members.count (h, Holder.agentBuild) := by
      show 0 < s.memberCount _
      omega
    exact not_agentBuild_mem h (List.count_pos_iff.1 hpos)
  exact ⟨fun h j r hr _ => h (j, r) (State.mem_of_handle? hr), fun h e he =>
    h e.1 e.2 (Table.handle?_of_mem ho.stores he) (hnone _ _ (Table.handle?_of_mem ho.stores he))⟩

/-- Strictly rising tiers leave room for four frames (R85). -/
theorem length_le_of_rising {s : State} {l : List Nat}
    (h : l.Pairwise fun a b => (s.tierOf a).moreUrgent (s.tierOf b) = true) : l.length ≤ 4 := by
  have hn : (l.map fun a => (s.tierOf a).ix).Nodup := by
    refine List.pairwise_map.2 (h.imp fun {a b} hab e => ?_)
    simp only [Tier.moreUrgent, decide_eq_true_eq] at hab
    exact absurd (e ▸ hab) (lt_irrefl _)
  have := hn.length_le_card
  rwa [List.length_map, Fintype.card_fin] at this

/-- Settles O12: a step is a power-on reset or an orderly move. -/
theorem holdersStayAccounted : Obligations.HoldersStayAccounted := by
  intro s t hs hl hr hh hstep
  rcases keeps_step hl hr hstep with ⟨u, straps, los, -, rfl⟩ | hk
  · exact ⟨State.powerOn_receiverOk straps los, State.powerOn_holdersOk straps los⟩
  · have ho := hk.orderly (Z := []) (orderly_of hs hl hr hh)
    exact ⟨receiverOk_iff.2 ⟨hk.fragment (Z := []) (orderly_of hs hl hr hh) (receiverOk_iff.1 hr).1, ho.rx⟩,
      (State.holdersOk_iff ho.stores).2 ho.accounted⟩

/-- Settles O13: an orderly move keeps every chain fit but those of frames being built, and at rest none is. -/
theorem chainsStayFit : Obligations.ChainsStayFit := by
  intro s t hs hl hr hh hf hstep
  rcases keeps_step hl hr hstep with ⟨u, straps, los, -, rfl⟩ | hk
  · exact State.powerOn_chainsFit straps los
  · have ho := orderly_of hs hl hr hh
    exact (chainsFit_iff (hk.orderly (Z := []) ho)).2 (hk.fits (Z := []) ho ((chainsFit_iff ho).1 hf))

/-- Settles O17: an orderly move keeps the transmitter in order, and four strictly rising tiers bound the stack. -/
theorem transmitterStaysInOrder : Obligations.TransmitterStaysInOrder := by
  intro s t hs hl hr hh ht hstep
  have hgood : TransmitterOk t ∧ t.Rested := by
    rcases keeps_step hl hr hstep with ⟨u, straps, los, -, rfl⟩ | hk
    · exact ⟨State.powerOn_transmitterOk straps los, fun _ => ⟨rfl, rfl, rfl⟩⟩
    · have ho := orderly_of hs hl hr hh
      have ho' := hk.orderly (Z := []) ho
      obtain ⟨hcore, hidle, hbusy⟩ := (transmitterOk_iff hs ho.rested).1 ht
      exact ⟨(transmitterOk_iff ho'.stores ho'.rested).2 ⟨hk.core (Z := []) ho hcore, hk.idle (Z := []) ho hcore hidle,
        hk.busy (Z := []) ho hcore hbusy⟩, ho'.rested⟩
  obtain ⟨hok, hrest⟩ := hgood
  refine ⟨hok, ?_⟩
  by_cases hm : t.tx.mode = .sending
  · have hactive : t.tx.active.isSome = true := by rw [hok.1, hm]; rfl
    obtain ⟨h, ha⟩ := Option.isSome_iff_exists.1 hactive
    have := length_le_of_rising hok.2.2.2.1
    rw [ha, Option.toList_some, List.singleton_append, List.length_cons] at this
    omega
  · rw [(hrest hm).2.2]
    exact Nat.zero_le 3

end Sys2Proof.Machine
end

section
/-! PROOFS. The buffer manager: what the claims grant (O18), where a body octet goes (O19), what a release returns and
what its release event does (O20). -/

namespace Sys2Proof.Machine

/-- The search passes over used numbers alone. -/
theorem lowestFrom_below {used : List Nat} {n fuel k : Nat} (hn : n ≤ k) (hk : k < lowestFrom used n fuel) :
    k ∈ used := by
  induction fuel generalizing n with
  | zero => exact absurd hk (by simp [lowestFrom]; omega)
  | succ f ih =>
    simp only [lowestFrom] at hk
    split at hk
    case isTrue hused =>
      rcases Nat.eq_or_lt_of_le hn with rfl | hlt
      · simpa using hused
      · exact ih hlt hk
    case isFalse => omega

namespace State

variable {s t : State}

/-! ## The lowest-numbered handle and cell -/

theorem handle?_of_lt_lowestHandle (hs : StoresOk s) {k : Nat} (hk : k < s.lowestHandle) : s.handle? k ≠ none := by
  obtain ⟨e, he, rfl⟩ := List.mem_map.1 (lowestFrom_below (Nat.zero_le k) hk)
  rw [Table.handle?_of_mem hs he]
  exact nofun

theorem mem_heldCells_of_lt_lowestCell {y : Nat} (hy : y < s.lowestCell) : y ∈ s.heldCells :=
  lowestFrom_below (Nat.zero_le y) hy

theorem handleGranted_iff {mgmt : Bool} :
    s.handleGranted mgmt = true ↔ if mgmt then 1 ≤ s.freeHandles else 16 < s.freeHandles := by
  cases mgmt
  · exact decide_eq_true_iff
  · exact decide_eq_true_iff

theorem cellGranted_iff {mgmt : Bool} :
    s.cellGranted mgmt = true ↔ if mgmt then 1 ≤ s.freeCells else 128 < s.freeCells := by
  cases mgmt
  · exact decide_eq_true_iff
  · exact decide_eq_true_iff

theorem freeHandles_pos_of_granted {mgmt : Bool} (hg : s.handleGranted mgmt = true) : 1 ≤ s.freeHandles := by
  have := handleGranted_iff.1 hg
  split at this <;> omega

theorem freeCells_pos_of_granted {mgmt : Bool} (hg : s.cellGranted mgmt = true) : 1 ≤ s.freeCells := by
  have := cellGranted_iff.1 hg
  split at this <;> omega

/-- A held cell is a cell of a held handle's chain. -/
theorem exists_chain_of_mem_heldCells (hs : StoresOk s) {x : Nat} (hx : x ∈ s.heldCells) :
    ∃ h r, s.handle? h = some r ∧ x ∈ r.chain := by
  obtain ⟨e, he, hxe⟩ := List.mem_flatMap.1 hx
  exact ⟨e.1, e.2, Table.handle?_of_mem hs he, hxe⟩

/-- Every octet of every chain but a handle's own lies off that handle's cells. -/
theorem not_mem_heldCells_of_new (hs : StoresOk s) (ht : StoresOk t) {h : Nat} {r : Handle} (hr : t.handle? h = some r)
    (hfree : s.handle? h = none) (hother : ∀ k, k ≠ h → t.handle? k = s.handle? k) :
    ∀ x ∈ r.chain, x ∉ s.heldCells := by
  intro x hx hheld
  obtain ⟨k, q, hq, hxq⟩ := exists_chain_of_mem_heldCells hs hheld
  have hkh : k ≠ h := by
    rintro rfl
    rw [hfree] at hq
    cases hq
  exact chains_disjoint ht hr ((hother k hkh).trans hq) hkh x hx hxq

theorem keepsHandles_of_other {h : Nat} (hother : ∀ k, k ≠ h → t.handle? k = s.handle? k) : KeepsHandles [h] s t :=
  fun k hk => hother k fun e => hk (List.mem_singleton.2 e)

/-! ## Claims (R4, R8, R9, R10) -/

theorem claimHandle_refused {mgmt : Bool} {holder : Holder} {tag : Tag} {tier : Tier} {stream : Option StreamIx}
    (hg : ¬ s.handleGranted mgmt = true) : s.claimHandle mgmt holder tag tier stream = none := by
  simp [claimHandle, hg]

theorem claimHandle_granted {mgmt : Bool} (holder : Holder) (tag : Tag) (tier : Tier) (stream : Option StreamIx)
    (hg : s.handleGranted mgmt = true) :
    s.claimHandle mgmt holder tag tier stream =
      some (s.lowestHandle, s.setHandle s.lowestHandle (Handle.granted holder tag tier stream)) := by
  simp [claimHandle, hg]

end State

open State in
/-- Settles O18: the grant is the lowest number that the stores do not list, and its cells, being in a chain beside
those of every other handle, were in none before. -/
theorem claimsTakeTheLowest : Obligations.ClaimsTakeTheLowest := by
  refine ⟨fun s mgmt holder tag tier stream hs => ⟨fun hg => ?_, fun hg => ?_⟩,
    fun s tag n hs => ⟨fun hh hc => ?_, fun hn => ?_⟩⟩
  · have hgrant := handleGranted_iff.2 hg
    have hclaim := claimHandle_granted holder tag tier stream hgrant
    have hpos := freeHandles_pos_of_granted hgrant
    obtain ⟨-, hfree, -, hcells, hlen⟩ := claimHandle_spec hclaim
    have hl := lawful_claimHandle hclaim
    have hmax := handles_length_le (hl.stores hs)
    refine ⟨_, _, hclaim, lowestHandle_lt hpos, hfree, fun k hk => handle?_of_lt_lowestHandle hs hk,
      setHandle_handle?_self .., keepsHandles_of_other fun k hk => setHandle_handle?_other _ _ hk, rfl, ?_, ?_,
      hl.frame⟩
    · simp only [freeHandles, Config.handleCount]; omega
    · simp only [freeCells, hcells]
  · exact claimHandle_refused fun h => hg (handleGranted_iff.1 h)
  · obtain ⟨u, cells, hclaim, hu, hcells, hfree, hr, hother, hoct, hlen, hheld⟩ := claimCompound_granted hs tag hh hc
    have hfit : cellsFor n = (n + 63) / 64 := rfl
    refine ⟨_, u, cells, hclaim, hfree, fun k hk => handle?_of_lt_lowestHandle hs hk, hr, hcells,
      not_mem_heldCells_of_new hs hu hr hfree hother, hu, keepsHandles_of_other hother, hoct, ?_, ?_,
      (lawful_claimCompound hclaim).frame⟩
    · simp only [freeHandles, Config.handleCount] at hh ⊢; omega
    · have hmax := heldCells_length_le hu
      simp only [freeCells, Config.cellCount]; omega
  · exact claimCompound_refused (by have hfit : cellsFor n = (n + 63) / 64 := rfl; omega)

namespace State

variable {s t : State}

/-! ## Storing a body octet (R1, R6) -/

/-- A body octet whose claim, if it needs one, is granted: its cell, its place and what stands (R6). -/
theorem appendOctet_stores (hs : StoresOk s) {mgmt : Bool} {h : Nat} {r : Handle} (b : Byte) (hr : s.handle? h = some r)
    (hfit : r.chain.length = cellsFor r.bodyLength) (hg : r.bodyLength % 64 = 0 → s.cellGranted mgmt = true) :
    ∃ u v, s.appendOctet mgmt h b = some u ∧ StoresOk u ∧
      u.handle? h = some { r with bodyLength := r.bodyLength + 1, chain := v } ∧
      v = (if r.bodyLength % 64 = 0 then r.chain ++ [s.lowestCell] else r.chain) ∧
      v.length = cellsFor (r.bodyLength + 1) ∧ u.bodyOf h = s.bodyOf h ++ [b] ∧ KeepsHandles [h] s u ∧
      ChangesOnly [.buf] s u ∧ KeepsOctetsBut (64 * v.getD (r.bodyLength / 64) 0 + r.bodyLength % 64) s u := by
  have hsome : s.appendOctet mgmt h b ≠ none := by
    rw [Ne, appendOctet_none hr]
    rintro ⟨hz, hng⟩
    rw [hg hz] at hng
    cases hng
  obtain ⟨u, hu⟩ := Option.ne_none_iff_exists'.1 hsome
  obtain ⟨v, hv, -, hr', hother, -, hoct⟩ := appendOctet_spec hr hu
  obtain ⟨r', -, hr'', -, -, hlen, hbody, -⟩ := appendOctet_body hs hr hfit hu
  obtain rfl : { r with chain := v, bodyLength := r.bodyLength + 1 } = r' := Option.some.inj (hr'.symm.trans hr'')
  exact ⟨u, v, hu, (lawful_appendOctet hu).stores hs, hr', hv, hlen, hbody, keepsHandles_of_other hother,
    (lawful_appendOctet hu).frame, hoct⟩

end State

open State in
/-- Settles O19: the claim decides whether the octet is stored, and the chain with its new cell, if it took one, says
where. -/
theorem octetsAreStoredInOrder : Obligations.OctetsAreStoredInOrder := by
  intro s mgmt h b r hs hr hfit
  refine ⟨fun hz hng => (appendOctet_none hr).2 ⟨hz, ?_⟩, fun hg => ?_⟩
  · exact Bool.eq_false_iff.2 fun hgrant => hng (cellGranted_iff.1 hgrant)
  · have hgrant : r.bodyLength % 64 = 0 → s.cellGranted mgmt = true := fun hz => cellGranted_iff.2 (hg hz)
    obtain ⟨u, v, hu, -, hr', hv, -, hbody, hkeep, hframe, hoct⟩ := appendOctet_stores hs b hr hfit hgrant
    refine ⟨u, v, hu, hr', fun hz => by rw [hv, if_neg hz], fun hz => ?_, hbody, hkeep, hframe, hoct⟩
    have hpos := freeCells_pos_of_granted (hgrant hz)
    exact ⟨s.lowestCell, by rw [hv, if_pos hz], lowestCell_lt hpos, lowestCell_free hpos,
      fun y hy => mem_heldCells_of_lt_lowestCell hy⟩

namespace State

variable {s t : State}

/-! ## Releases and their events (R12, R13, R14) -/

@[simp] theorem release_buf (h : Nat) : (s.release h).buf = (s.freeHandle h).buf := by simp [release]

@[simp] theorem discard_buf (c : Cause) (h : Nat) : (s.discard c h).buf = (s.freeHandle h).buf := by
  simp [discard, discardQuiet]

@[simp] theorem release_releaseEvents (h : Nat) : (s.release h).releaseEvents = s.releaseEvents + 1 := rfl

theorem release_heldCells (h : Nat) : (s.release h).heldCells = (s.freeHandle h).heldCells := by simp [heldCells]

/-- A release frees the handle alone. -/
theorem release_handles (h : Nat) : (s.release h).handle? h = none ∧ KeepsHandles [h] s (s.release h) :=
  ⟨(handle?_of_buf (release_buf h) h).trans (freeHandle_handle?_self s h), keepsHandles_of_other fun k hk =>
    (handle?_of_buf (release_buf h) k).trans (freeHandle_handle?_other s hk)⟩

theorem changesOnly_release (h : Nat) : ChangesOnly [.buf, .releaseEvents] s (s.release h) := by simp [ChangesOnly]

theorem withReleaseEvents_of_eq {n : Nat} (h : s.releaseEvents = n) : s.withReleaseEvents n = s := by
  rw [← h, withReleaseEvents_self]

/-- Taking the release events one by one: the first, then the rest. -/
theorem settle_succ {n : Nat} (hn : s.releaseEvents = n + 1) :
    s.settle = ((s.withReleaseEvents 0).releaseEvent.withReleaseEvents n).settle := by
  have hzero : (s.withReleaseEvents 0).releaseEvent.releaseEvents = 0 :=
    lawful_releaseEvent.frame.releaseEvents (by decide)
  rw [settle, settle, hn, withReleaseEvents_withReleaseEvents, withReleaseEvents_releaseEvents,
    withReleaseEvents_of_eq hzero, releaseEventsTaken]

theorem releaseEvent_of_waiting (hw : s.agent.state = .waiting) :
    s.releaseEvent = if s.attempt.agent.state = .waiting then s.attempt else s.attempt.noticeRetry := by
  simp [releaseEvent, hw]

theorem releaseEvent_of_idle (hi : s.agent.state = .idle) : s.releaseEvent = s.noticeRetry := by
  simp [releaseEvent, hi]

end State

open State in
/-- Settles O20: a discard releases as a release does and counts besides; a release event is the agent's attempt and
then, with the agent IDLE, the notice queue's retry. -/
theorem releasesAndTheirEvents : Obligations.ReleasesAndTheirEvents := by
  refine ⟨fun s h r hs hr => ?_, fun s => ⟨settle_idle, settle_none, fun hi => ?_, fun hw => ?_, fun n => settle_succ⟩⟩
  · obtain ⟨hstores, hfreed⟩ := storesOk_freeHandle hs h
    obtain ⟨hcells, hhandles⟩ := hfreed r hr
    have hmaxh := handles_length_le hs
    have hmaxc := heldCells_length_le hs
    refine ⟨(release_handles h).1, (release_handles h).2, ?_, ?_, ?_, by rw [release_buf]; rfl, release_releaseEvents h,
      changesOnly_release h, fun k => ⟨discarded_discard k h, by rw [release_buf, discard_buf],
      changesOnly_discard k h⟩⟩
    · rw [release_heldCells]
      exact freeHandle_frees_chain hs hr
    · simp only [freeHandles, release_buf, Config.handleCount]; omega
    · simp only [freeCells, release_heldCells, Config.cellCount]; omega
  · rw [releaseEvent_of_idle hi]
    rfl
  · refine ⟨s.attempt, by simp [exec, execAgentRetry, hw], fun h => ?_, fun h => ?_⟩
    · rw [releaseEvent_of_waiting hw, if_pos h]
    · rw [releaseEvent_of_waiting hw, if_neg (by rw [h]; exact nofun)]
      rfl

end Sys2Proof.Machine
end

section
/-! PROOFS. The tributaries: OPEN (O21), the data octets (O22), CLOSE END of a good frame (O23) and of a bad one (O24),
and the end of an egress transmission (O27). -/

namespace Sys2Proof.Machine

variable {s t u : State} {p : Port}

/-- A count of discards says the same of a state with the same tallies after it. -/
theorem Counted.congr_right {c : Cause} {o : Option StreamIx} (h : Counted s t c o) (ht : u.tallies = t.tallies) :
    Counted s u c o := by
  have hd : ∀ d, u.discardCount d = t.discardCount d := fun d => State.discardCount_of_tallies ht d
  have hi : ∀ i, u.tally i = t.tally i := fun i => State.tally_of_tallies ht i
  simpa only [Counted, hd, hi] using h

/-- A discard says the same of a state with the same stores, tallies and release events after it. -/
theorem Discarded.congr_right {c : Cause} {h : Nat} (hd : Discarded s t c h) (hb : u.buf = t.buf)
    (ht : u.tallies = t.tallies) (hr : u.releaseEvents = t.releaseEvents) : Discarded s u c h := by
  obtain ⟨hfree, hkeep, hoct, hcount, hev⟩ := hd
  exact ⟨(State.handle?_of_buf hb h).trans hfree, fun k hk => (State.handle?_of_buf hb k).trans (hkeep k hk),
    fun a => by rw [hb]; exact hoct a, hcount.congr_right ht, hr.trans hev⟩

/-- An ingress that is set again holds the last value. -/
theorem SetsIngress.setIngress {v : Ingress} (h : SetsIngress p v s t) (w : Ingress) :
    SetsIngress p w s (t.setIngress p w) := by
  obtain ⟨hport, hkeep⟩ := h
  refine ⟨?_, fun q hq => (State.setIngress_port_other t w hq).trans (hkeep q hq)⟩
  rw [State.setIngress_port_self, hport]

namespace State

/-! ## OPEN (R41, R47) -/

/-- The end of a frame in progress changes no other field of its port. -/
theorem endIngress_setsIngress (s : State) (p : Port) (c : Cause) (next : Ingress) :
    ∃ v, SetsIngress p v s (s.endIngress p c next) := by
  cases hi : (s.port p).ingress with
  | idle =>
    rw [endIngress_of_idle c next hi]
    exact ⟨_, .refl rfl⟩
  | skipping =>
    rw [endIngress_of_skipping c next hi]
    exact ⟨_, .refl rfl⟩
  | tagWait first => exact ⟨_, endIngress_of_tagWait c next hi ▸ (setIngress_countDiscard_spec ..).1⟩
  | receiving h hold => exact ⟨_, endIngress_of_receiving c next hi ▸ (setIngress_discard_spec ..).1⟩

/-- After the abort of a frame in progress the enabled field decides, as it stood. -/
theorem ingressOpen_eq (s : State) (p : Port) : s.ingressOpen p =
    (s.endIngress p .ingressAborted .idle).setIngress p (if (s.port p).enabled then .tagWait none else .idle) := by
  obtain ⟨v, hport, -⟩ := endIngress_setsIngress s p .ingressAborted .idle
  have henabled : ((s.endIngress p .ingressAborted .idle).port p).enabled = (s.port p).enabled := by rw [hport]
  rw [ingressOpen, henabled, apply_ite (setIngress _ p)]

end State

open State in
/-- Settles O21: the end of the frame in progress leaves the enabled field as it was, and OPEN then sets the ingress by
that field. -/
theorem tributaryOpenFollowsEnabled : Obligations.TributaryOpenFollowsEnabled := by
  intro p s
  obtain ⟨v, hv⟩ := endIngress_setsIngress s p .ingressAborted .idle
  refine ⟨s.ingressOpen p, exec_tributaryOpen p s, ingressOpen_eq s p ▸ hv.setIngress _, ?_⟩
  have honly {bs : List Block} {w : Ingress} {u : State} (hu : ChangesOnly bs s u) (hb : Block.ports ∈ bs) :
      ChangesOnly bs s (u.setIngress p w) := hu.trans ((changesOnly_setIngress p w).mono (by simpa using hb))
  rw [ingressOpen_eq]
  cases hi : (s.port p).ingress with
  | idle =>
    rw [endIngress_of_idle _ _ hi]
    exact changesOnly_setIngress ..
  | skipping =>
    rw [endIngress_of_skipping _ _ hi]
    exact changesOnly_setIngress ..
  | tagWait first =>
    rw [endIngress_of_tagWait _ _ hi]
    obtain ⟨-, hframe, hcount⟩ := setIngress_countDiscard_spec s p .idle .ingressAborted none
    exact ⟨honly hframe (by decide), hcount.congr_right rfl⟩
  | receiving h hold =>
    rw [endIngress_of_receiving _ _ hi]
    obtain ⟨-, hframe, hdisc⟩ := setIngress_discard_spec s p .idle .ingressAborted h
    exact ⟨honly hframe (by decide), hdisc.congr_right rfl rfl rfl⟩

/-! ## The tag octets of a frame (R42, R132) -/

/-- A handle listed and dropped again leaves the table as it was. -/
theorem Table.drop_put_new {α : Type} {m : List (Nat × α)} {k : Nat} (a : α) (h : k ∉ m.map fun e => e.1) :
    Table.drop (Table.put m k a) k = m := by
  have hdrop : Table.drop m k = m :=
    List.filter_eq_self.2 fun e he => decide_eq_true fun hk => h (List.mem_map.2 ⟨e, he, hk⟩)
  induction m with
  | nil => simp [Table.put, Table.drop]
  | cons e m ih =>
    obtain ⟨j, b⟩ := e
    have hj : ¬ k = j := fun hk => h (by simp [hk])
    have hm : k ∉ m.map fun e => e.1 := fun hk => h (by simp [hk])
    simp only [Table.put, if_neg hj]
    split
    · simpa [Table.drop] using hdrop
    · have htail : Table.drop (Table.put m k a) k = m :=
        ih hm (List.filter_eq_self.2 fun e he => decide_eq_true fun hk => hm (List.mem_map.2 ⟨e, he, hk⟩))
      simpa [Table.drop, Ne.symm hj] using htail

namespace State

theorem freeHandle_setHandle_new {r : Handle} (hf : 1 ≤ s.freeHandles) :
    ((s.setHandle s.lowestHandle r).freeHandle s.lowestHandle).buf = s.buf := by
  simp only [setHandle, freeHandle, withBuf_buf, Table.drop_put_new r (lowestHandle_not_mem hf)]

theorem freeCells_of_heldCells (h : t.heldCells = s.heldCells) : t.freeCells = s.freeCells := by simp [freeCells, h]

theorem cellGranted_of_heldCells (h : t.heldCells = s.heldCells) (mgmt : Bool) :
    t.cellGranted mgmt = s.cellGranted mgmt := by simp [cellGranted, freeCells_of_heldCells h]

/-- The two tag octets of a frame whose handle was granted, without a cell: neither is stored. -/
theorem appendPair_refused {mgmt : Bool} {h : Nat} {r : Handle} (a b : Byte) (hr : s.handle? h = some r)
    (hlen : r.bodyLength = 0) (hg : s.cellGranted mgmt = false) : s.appendOctets mgmt h [a, b] = (false, s) := by
  have hnone : s.appendOctet mgmt h a = none := (appendOctet_none hr).2 ⟨by rw [hlen]; rfl, hg⟩
  simp [appendOctets, hnone]

/-- The two tag octets with a cell: they are the first two octets of the lowest-numbered free cell (R6). -/
theorem appendPair_granted (hs : StoresOk s) {mgmt : Bool} {h : Nat} {r : Handle} (a b : Byte)
    (hr : s.handle? h = some r) (hlen : r.bodyLength = 0) (hchain : r.chain = []) (hg : s.cellGranted mgmt = true) :
    ∃ u, s.appendOctets mgmt h [a, b] = (true, u) ∧ StoresOk u ∧
      u.handle? h = some { r with bodyLength := 2, chain := [s.lowestCell] } ∧ u.bodyOf h = [a, b] ∧
      KeepsHandles [h] s u ∧ ChangesOnly [.buf] s u ∧
      ∀ z, z ≠ 64 * s.lowestCell → z ≠ 64 * s.lowestCell + 1 →
        Memory.read u.buf.octets z = Memory.read s.buf.octets z := by
  have hbody : s.bodyOf h = [] := by rw [bodyOf_eq hr, hlen]; rfl
  obtain ⟨u1, v1, hu1, hs1, hr1, hv1, -, hb1, hk1, hf1, ho1⟩ := appendOctet_stores hs a hr (by rw [hchain, hlen]; rfl)
    fun _ => hg
  rw [hlen, hchain, if_pos rfl, List.nil_append] at hv1
  subst hv1
  rw [hlen] at hr1 ho1
  simp only [Nat.zero_add] at hr1
  obtain ⟨u2, v2, hu2, hs2, hr2, hv2, -, hb2, hk2, hf2, ho2⟩ :=
    appendOctet_stores (mgmt := mgmt) hs1 b hr1 (show 1 = cellsFor 1 by decide) nofun
  obtain rfl : v2 = [s.lowestCell] := hv2
  refine ⟨u2, by simp [appendOctets, hu1, hu2], hs2, hr2, by rw [hb2, hb1, hbody]; rfl,
    fun k hk => (hk2 k hk).trans (hk1 k hk), hf1.trans hf2, fun z hz hz1 => ?_⟩
  exact (ho2 z (by simpa using hz1)).trans (ho1 z (by simpa using hz))

/-! ## The second tag octet (R27, R42) -/

theorem setsIngress_countDiscard (p : Port) (v : Ingress) (c : Cause) (o : Option StreamIx) :
    SetsIngress p v s ((s.setIngress p v).countDiscard c o) := (setIngress_countDiscard_spec s p v c o).1

theorem ingressTag_of_unknown {tag : Tag} (h : s.lookup tag = none) :
    s.ingressTag p tag = (s.setIngress p .skipping).countDiscard .unknownTag none := by
  simp [ingressTag, h]

section KnownTag

variable {tag : Tag} {i : StreamIx}

theorem ingressTag_of_wrongPort (h : s.lookup tag = some i) (hp : (s.stream i.val).port ≠ p) :
    s.ingressTag p tag = (s.setIngress p .skipping).countDiscard .wrongPort (some i) := by
  simp [ingressTag, h, hp]

theorem ingressTag_of_noHandle (h : s.lookup tag = some i) (hp : (s.stream i.val).port = p) (hf : s.freeHandles ≤ 16) :
    s.ingressTag p tag = (s.setIngress p .skipping).countDiscard .noHandle (some i) := by
  have hnone : s.claimHandle false (.ingress p) tag (s.stream i.val).baseTier (some i) = none :=
    claimHandle_refused fun hg => absurd (handleGranted_iff.1 hg) (by simpa using hf)
  simp [ingressTag, h, hp, hnone]

/-- The record of a frame whose tag was known and whose handle was granted (R42). -/
def taggedHandle (s : State) (p : Port) (tag : Tag) (i : StreamIx) : Handle :=
  Handle.granted (.ingress p) tag (s.stream i.val).baseTier (some i)

/-- The state in which the first cell of a frame is claimed. -/
def tagged (s : State) (p : Port) (tag : Tag) (i : StreamIx) : State :=
  s.setHandle s.lowestHandle (s.taggedHandle p tag i)

section Handle

variable {s2 : State}

theorem ingressTag_of_refused (h : s.lookup tag = some i) (hp : (s.stream i.val).port = p) (hf : 16 < s.freeHandles)
    (ha : (s.tagged p tag i).appendOctets false s.lowestHandle (octets2 tag) = (false, s2)) :
    s.ingressTag p tag = (s2.setIngress p .skipping).discard .noCell s.lowestHandle := by
  have hclaim : s.claimHandle false (.ingress p) tag (s.stream i.val).baseTier (some i) =
      some (s.lowestHandle, s.tagged p tag i) := claimHandle_granted _ _ _ _ (handleGranted_iff.2 hf)
  simp only [ingressTag, h, ne_eq, hp, not_true_eq_false, if_false, hclaim, ha]

theorem ingressTag_of_stored (h : s.lookup tag = some i) (hp : (s.stream i.val).port = p) (hf : 16 < s.freeHandles)
    (ha : (s.tagged p tag i).appendOctets false s.lowestHandle (octets2 tag) = (true, s2)) :
    s.ingressTag p tag = s2.setIngress p (.receiving s.lowestHandle []) := by
  have hclaim : s.claimHandle false (.ingress p) tag (s.stream i.val).baseTier (some i) =
      some (s.lowestHandle, s.tagged p tag i) := claimHandle_granted _ _ _ _ (handleGranted_iff.2 hf)
  simp only [ingressTag, h, ne_eq, hp, not_true_eq_false, if_false, hclaim, ha]

end Handle

end KnownTag

theorem octets2_append (a b : Byte) : octets2 (a ++ b) = [a, b] := by
  simp only [octets2, List.cons.injEq, and_true]
  constructor
  · exact BitVec.extractLsb'_append_eq_left
  · exact BitVec.extractLsb'_append_eq_right

/-- Without a cell for the tag the frame's handle is discarded again, and the stores are as they were. -/
theorem ingressTag_of_noCell {tag : Tag} {i : StreamIx} (h : s.lookup tag = some i) (hp : (s.stream i.val).port = p)
    (hf : 16 < s.freeHandles) (hc : s.freeCells ≤ 128) :
    SetsIngress p .skipping s (s.ingressTag p tag) ∧
      ChangesOnly [.ports, .tallies, .releaseEvents] s (s.ingressTag p tag) ∧
      Counted s (s.ingressTag p tag) .noCell (some i) ∧ (s.ingressTag p tag).releaseEvents = s.releaseEvents + 1 := by
  have hpos : 1 ≤ s.freeHandles := by omega
  have hcells : (s.tagged p tag i).heldCells = s.heldCells := flatMap_put_new rfl (lowestHandle_not_mem hpos)
  have hng : (s.tagged p tag i).cellGranted false = false := by
    rw [cellGranted_of_heldCells hcells]
    exact Bool.eq_false_iff.2 fun hg => absurd (cellGranted_iff.1 hg) (by simpa using hc)
  have hr : (s.tagged p tag i).handle? s.lowestHandle = some (s.taggedHandle p tag i) := setHandle_handle?_self ..
  have href := appendPair_refused (tag.extractLsb' 8 8) (tag.extractLsb' 0 8) hr rfl hng
  have heq : s.ingressTag p tag = ((s.tagged p tag i).setIngress p .skipping).discard .noCell s.lowestHandle :=
    ingressTag_of_refused h hp hf href
  obtain ⟨hset, hframe, hdisc⟩ :=
    setIngress_discard_spec (s.tagged p tag i) p .skipping .noCell s.lowestHandle
  rw [← heq] at hset hframe hdisc
  obtain ⟨-, -, -, hcount, hev⟩ := hdisc
  have hbuf : (s.ingressTag p tag).buf = s.buf := by
    rw [heq, discard_buf]
    exact freeHandle_setHandle_new hpos
  have hstream : (s.tagged p tag i).streamOf s.lowestHandle = some i := by
    simp [streamOf, hr, taggedHandle, Handle.granted]
  rw [hstream] at hcount
  have htagged : ChangesOnly [.buf] s (s.tagged p tag i) := by simp [ChangesOnly, tagged]
  have hwhole : ChangesOnly [.buf, .ports, .tallies, .releaseEvents] s (s.ingressTag p tag) :=
    (htagged.mono (by decide)).trans hframe
  refine ⟨hset, ?_, hcount.of_eq rfl, hev⟩
  obtain ⟨-, hrest⟩ := hwhole
  refine ⟨.inr hbuf, ?_⟩
  simpa using hrest

/-- With its claims granted a frame is in RECEIVING, with its tag the first two octets of its first cell. -/
theorem ingressTag_granted (hs : StoresOk s) (a b : Byte) {i : StreamIx} (h : s.lookup (a ++ b) = some i)
    (hp : (s.stream i.val).port = p) (hf : 16 < s.freeHandles) (hc : 128 < s.freeCells) :
    ∃ u, s.ingressTag p (a ++ b) = u.setIngress p (.receiving s.lowestHandle []) ∧ StoresOk u ∧
      u.handle? s.lowestHandle =
        some { s.taggedHandle p (a ++ b) i with bodyLength := 2, chain := [s.lowestCell] } ∧
      u.bodyOf s.lowestHandle = [a, b] ∧ KeepsHandles [s.lowestHandle] s u ∧ ChangesOnly [.buf] s u ∧
      ∀ z, z ≠ 64 * s.lowestCell → z ≠ 64 * s.lowestCell + 1 →
        Memory.read u.buf.octets z = Memory.read s.buf.octets z := by
  have hpos : 1 ≤ s.freeHandles := by omega
  obtain ⟨hs1, hcells, -⟩ := storesOk_newHandle hs (r := s.taggedHandle p (a ++ b) i) rfl hpos
  have hlow : (s.tagged p (a ++ b) i).lowestCell = s.lowestCell := by
    rw [lowestCell, show (s.tagged p (a ++ b) i).heldCells = s.heldCells from hcells, ← lowestCell]
  have hg : (s.tagged p (a ++ b) i).cellGranted false = true :=
    (cellGranted_of_heldCells hcells false).trans (cellGranted_iff.2 hc)
  obtain ⟨u, hu, hsu, hr, hbody, hkeep, hframe, hoct⟩ := appendPair_granted (s := s.tagged p (a ++ b) i) hs1 a b
    (setHandle_handle?_self ..) rfl rfl hg
  rw [hlow] at hr hoct
  have htagged : ChangesOnly [.buf] s (s.tagged p (a ++ b) i) := by simp [ChangesOnly, tagged]
  refine ⟨u, ?_, hsu, hr, hbody, fun k hk => (hkeep k hk).trans ?_, htagged.trans hframe, hoct⟩
  · exact ingressTag_of_stored h hp hf (by rw [octets2_append, hu])
  · exact setHandle_handle?_other _ _ fun hk' => hk (List.mem_singleton.2 hk')

/-! ## A data octet in RECEIVING (R43) -/

theorem ingressData_of_receiving {h : Nat} {hold : List Byte} (hi : (s.port p).ingress = .receiving h hold) (b : Byte) :
    s.ingressData p b = s.ingressOctet p h hold b := by
  simp [ingressData, hi]

theorem ingressOctet_of_short {h : Nat} {hold : List Byte} (hh : hold.length < 4) (b : Byte) :
    s.ingressOctet p h hold b = s.setIngress p (.receiving h (hold ++ [b])) := by
  cases hold with
  | nil => rfl
  | cons x rest => exact if_pos hh

/-! A full hold-back gives its oldest octet up to the body, which stops at 2048 octets. -/

section Full

variable {h : Nat} {x : Byte} {rest : List Byte} {r : Handle}

theorem ingressOctet_of_length (hh : rest.length = 3) (hr : s.handle? h = some r) (hl : r.bodyLength = 2048)
    (b : Byte) : s.ingressOctet p h (x :: rest) b = (s.setIngress p .skipping).discard .ingressLength h := by
  simp [ingressOctet, hr, hh, hl, Config.ingressHold, Config.maxBody]

theorem ingressOctet_of_refused (hh : rest.length = 3) (hr : s.handle? h = some r) (hl : r.bodyLength ≠ 2048) (b : Byte)
    (ha : s.appendOctet false h x = none) :
    s.ingressOctet p h (x :: rest) b = (s.setIngress p .skipping).discard .noCell h := by
  simp [ingressOctet, hr, hh, hl, ha, Config.ingressHold, Config.maxBody]

theorem ingressOctet_of_stored (hh : rest.length = 3) (hr : s.handle? h = some r) (hl : r.bodyLength ≠ 2048) (b : Byte)
    (ha : s.appendOctet false h x = some t) :
    s.ingressOctet p h (x :: rest) b = t.setIngress p (.receiving h (rest ++ [b])) := by
  simp [ingressOctet, hr, hh, hl, ha, Config.ingressHold, Config.maxBody]

end Full

end State

open State in
/-- Settles O22: the claims in their order decide a frame's start, and the hold-back and the body's length what a later
octet does. -/
theorem tributaryDataIsTaken : Obligations.TributaryDataIsTaken := by
  refine ⟨fun p b s hs => ?_, fun p b s h hold r hs hi hr hfit hmax hlen => ?_⟩
  · have hexec := exec_tributaryDataOctet p s b
    cases hi : (s.port p).ingress with
    | idle =>
      rw [hexec]
      simp [ingressData, hi]
    | skipping => rw [hexec, ingressData_of_skipping hi]
    | receiving h hold => trivial
    | tagWait first =>
      cases first with
      | none =>
        refine ⟨s.setIngress p (.tagWait (some b)), ?_, setsIngress_setIngress .., changesOnly_setIngress ..⟩
        rw [hexec]
        simp [ingressData, hi]
      | some a =>
        have hdata : s.ingressData p b = s.ingressTag p (a ++ b) := by
          simp only [ingressData, hi]
          rfl
        rw [hdata] at hexec
        refine ⟨_, hexec, ?_⟩
        cases hlook : s.lookup (a ++ b) with
        | none =>
          rw [ingressTag_of_unknown hlook]
          obtain ⟨hset, hframe, hcount⟩ := setIngress_countDiscard_spec s p .skipping .unknownTag none
          exact ⟨hset.2, hset, hframe, hcount⟩
        | some i =>
          dsimp only
          split
          case isTrue hport =>
            rw [ingressTag_of_wrongPort hlook hport]
            obtain ⟨hset, hframe, hcount⟩ := setIngress_countDiscard_spec s p .skipping .wrongPort (some i)
            exact ⟨hset.2, hset, hframe, hcount⟩
          case isFalse hport =>
          have hport := not_not.1 hport
          split
          case isTrue hfree =>
            rw [ingressTag_of_noHandle hlook hport hfree]
            obtain ⟨hset, hframe, hcount⟩ := setIngress_countDiscard_spec s p .skipping .noHandle (some i)
            exact ⟨hset.2, hset, hframe, hcount⟩
          case isFalse hfree =>
          have hfree := Nat.not_le.1 hfree
          split
          case isTrue hcells =>
            have hno := ingressTag_of_noCell hlook hport hfree hcells
            exact ⟨hno.1.2, hno⟩
          case isFalse hcells =>
            obtain ⟨u, hu, -, hr, hbody, hkeep, hframe, hoct⟩ :=
              ingressTag_granted hs a b hlook hport hfree (Nat.not_le.1 hcells)
            have hset : SetsIngress p (.receiving s.lowestHandle []) s
                (u.setIngress p (.receiving s.lowestHandle [])) :=
              have hports (q : Port) : u.port q = s.port q := port_of_ports (hframe.ports (by decide)) q
              SetsIngress.setIngress (v := (s.port p).ingress) ⟨hports p, fun q _ => hports q⟩ _
            rw [hu]
            exact ⟨hset.2, s.lowestHandle, s.lowestCell, hset,
              (hframe.mono (by decide)).trans ((changesOnly_setIngress ..).mono (by decide)),
              lowestHandle_free (by omega), fun k hk => handle?_of_lt_lowestHandle hs hk, lowestCell_free (by omega),
              fun y hy => mem_heldCells_of_lt_lowestCell hy, hr, hbody, hkeep, hoct⟩
  · have hexec := exec_tributaryDataOctet p s b
    rw [ingressData_of_receiving hi] at hexec
    refine ⟨_, hexec, fun hshort => ?_, fun hfull hend => ?_, fun hfull hlt hz hcells => ?_,
      fun x rest hhold hrest hlt hcells => ?_⟩
    · rw [ingressOctet_of_short hshort]
      exact ⟨setsIngress_setIngress .., changesOnly_setIngress ..⟩
    · obtain ⟨x, rest, rfl⟩ := List.exists_cons_of_length_eq_add_one hfull
      rw [ingressOctet_of_length (by simpa using hfull) hr hend]
      exact setIngress_discard_spec ..
    · obtain ⟨x, rest, rfl⟩ := List.exists_cons_of_length_eq_add_one hfull
      have hng : s.cellGranted false = false :=
        Bool.eq_false_iff.2 fun hg => absurd (cellGranted_iff.1 hg) (by simpa using hcells)
      rw [ingressOctet_of_refused (by simpa using hfull) hr (by omega) b ((appendOctet_none hr).2 ⟨hz, hng⟩)]
      exact setIngress_discard_spec ..
    · subst hhold
      obtain ⟨u, v, hu, -, hr', hv, hvlen, hbody, hkeep, hframe, hoct⟩ :=
        appendOctet_stores (mgmt := false) hs x hr hfit fun hz => cellGranted_iff.2 (hcells hz)
      have hports (q : Port) : u.port q = s.port q := port_of_ports (hframe.ports (by decide)) q
      rw [ingressOctet_of_stored hrest hr (by omega) b hu]
      refine ⟨SetsIngress.setIngress (v := (s.port p).ingress) ⟨hports p, fun q _ => hports q⟩ _,
        (hframe.mono (by decide)).trans ((changesOnly_setIngress ..).mono (by decide)), v, hr', hvlen, ?_, hbody, hkeep,
        hoct⟩
      rw [hv]
      split
      · exact List.prefix_append ..
      · exact List.prefix_refl _

namespace State

/-! ## CLOSE END (R44, R45) -/

theorem ingressEnd_of_receiving {h : Nat} {hold : List Byte} (hi : (s.port p).ingress = .receiving h hold) :
    s.ingressEnd p = s.ingressClose p h hold := by
  simp [ingressEnd, hi]

section Close

variable {h : Nat} {hold : List Byte} {r : Handle}

theorem ingressClose_of_short (hr : s.handle? h = some r) (hshort : hold.length ≠ 4 ∨ r.bodyLength < 8) :
    s.ingressClose p h hold = (s.setIngress p .idle).discard .ingressLength h := by
  have : hold.length ≠ Config.ingressHold ∨ r.bodyLength < Config.minBody := hshort
  simp [ingressClose, hr, this]

theorem ingressClose_of_wrong (hr : s.handle? h = some r) (hshort : ¬ (hold.length ≠ 4 ∨ r.bodyLength < 8))
    (hwrong : hold ≠ octets4 (frameCheck (s.bodyOf h))) :
    s.ingressClose p h hold = (s.setIngress p .idle).discard .ingressCheck h := by
  have hs' : ¬ (hold.length ≠ Config.ingressHold ∨ r.bodyLength < Config.minBody) := hshort
  simp only [ingressClose, hr, if_neg hs', if_pos hwrong]

section Checked

variable (hr : s.handle? h = some r) (hshort : ¬ (hold.length ≠ 4 ∨ r.bodyLength < 8))
  (hright : hold = octets4 (frameCheck (s.bodyOf h)))
include hr hshort hright

theorem ingressClose_of_stale (hn : s.recheck r = none) : s.ingressClose p h hold =
    ((s.setIngress p .idle).modHandle h fun r => { r with stream := none }).discard .unknownTag h := by
  have hs' : ¬ (hold.length ≠ Config.ingressHold ∨ r.bodyLength < Config.minBody) := hshort
  simp only [ingressClose, hr, if_neg hs', if_neg (not_not.2 hright), hn]

theorem ingressClose_of_good {i : StreamIx} (hi : s.recheck r = some i) :
    s.ingressClose p h hold = (s.setIngress p .idle).handOver h i r.bodyLength := by
  have hs' : ¬ (hold.length ≠ Config.ingressHold ∨ r.bodyLength < Config.minBody) := hshort
  simp only [ingressClose, hr, if_neg hs', if_neg (not_not.2 hright), hi]

end Checked

theorem recheck_none (hstale : ∀ i, r.stream = some i → (s.stream i.val).valid = false ∨ (s.stream i.val).tag ≠ r.tag) :
    s.recheck r = none := by
  rw [recheck, Option.filter_eq_none_iff]
  intro i hi hok
  simp only [Bool.and_eq_true, decide_eq_true_eq] at hok
  rcases hstale i hi with hv | ht
  · rw [hv] at hok
    exact absurd hok.1 nofun
  · exact ht hok.2

theorem recheck_some {i : StreamIx} (hi : r.stream = some i) (hv : (s.stream i.val).valid = true)
    (ht : (s.stream i.val).tag = r.tag) : s.recheck r = some i := by
  rw [recheck, hi, Option.filter_some_pos]
  simp [hv, ht]

/-- A frame whose stream entry is stale is discarded against no stream (R44, R190). -/
theorem discard_unstreamed (hr : s.handle? h = some r) (c : Cause) :
    let t := (s.modHandle h fun r => { r with stream := none }).discard c h
    t.handle? h = none ∧ KeepsHandles [h] s t ∧ KeepsOctets s t ∧ Counted s t c none ∧
      t.releaseEvents = s.releaseEvents + 1 ∧ ChangesOnly [.buf, .tallies, .releaseEvents] s t := by
  intro t
  obtain ⟨hfree, hkeep, hoct, hcount, hev⟩ :=
    discarded_discard (s := s.modHandle h fun r => { r with stream := none }) c h
  have hstream : (s.modHandle h fun r => { r with stream := none }).streamOf h = none := by
    simp [streamOf, modHandle_handle?_self s _ hr]
  rw [hstream] at hcount
  refine ⟨hfree, fun k hk => (hkeep k hk).trans ?_, fun a => (hoct a).trans (by rw [modHandle_octets]), hcount.of_eq ?_,
    hev.trans ?_, ?_⟩
  · exact modHandle_handle?_other s _ fun hk' => hk (List.mem_singleton.2 hk')
  · exact modHandle_tallies ..
  · rw [modHandle_releaseEvents]
  · simp [ChangesOnly, t]

end Close
end State

open State in
/-- Settles O24: the tests stand in that order in the close. -/
theorem badFrameIsDiscarded : Obligations.BadFrameIsDiscarded := by
  intro p s
  have hexec := exec_closeEnd p s
  cases hi : (s.port p).ingress with
  | idle =>
    rw [hexec]
    simp [ingressEnd, hi]
  | skipping =>
    rw [ingressEnd_of_skipping hi] at hexec
    exact ⟨_, hexec, setsIngress_setIngress .., changesOnly_setIngress ..⟩
  | tagWait first =>
    have hend : s.ingressEnd p = (s.setIngress p .idle).countDiscard .ingressLength none := by simp [ingressEnd, hi]
    rw [hend] at hexec
    exact ⟨_, hexec, setIngress_countDiscard_spec ..⟩
  | receiving h hold =>
    intro r hr short wrong stale hbad
    rw [ingressEnd_of_receiving hi] at hexec
    refine ⟨_, hexec, ?_⟩
    by_cases hshort : short
    · rw [ingressClose_of_short hr hshort]
      obtain ⟨hset, hframe, hdisc⟩ := setIngress_discard_spec s p .idle .ingressLength h
      exact ⟨hset, hframe, fun _ => hdisc, fun hns => absurd hshort hns, fun hns => absurd hshort hns⟩
    by_cases hwrong : wrong
    · rw [ingressClose_of_wrong hr hshort hwrong]
      obtain ⟨hset, hframe, hdisc⟩ := setIngress_discard_spec s p .idle .ingressCheck h
      exact ⟨hset, hframe, fun hs => absurd hs hshort, fun _ _ => hdisc, fun _ hnw => absurd hwrong hnw⟩
    have hstale : stale := (hbad.resolve_left hshort).resolve_left hwrong
    rw [ingressClose_of_stale hr hshort (not_not.1 hwrong) (recheck_none hstale)]
    obtain ⟨hfree, hkeep, hoct, hcount, hev, hframe⟩ :=
      discard_unstreamed (s := s.setIngress p .idle) (h := h) (r := r) (hr := hr) .unknownTag
    refine ⟨(setsIngress_setIngress p .idle).of_ports (hframe.ports (by decide)), ?_, fun hs => absurd hs hshort,
      fun _ hw => absurd hw hwrong, fun _ _ _ => ⟨hfree, hkeep, hoct, hcount.of_eq rfl, hev⟩⟩
    exact ((changesOnly_setIngress p .idle).mono (by decide)).trans (hframe.mono (by decide))

open State in
/-- Settles O23: the charge's outcome, and for a fixed tier the limit of its queue, decide what becomes of the frame. -/
theorem goodFrameIsHandedOver : Obligations.GoodFrameIsHandedOver := by
  intro p s h hold r i hi hr hlen hcheck hstream hvalid htag
  have hexec := exec_closeEnd p s
  have hshort : ¬ (hold.length ≠ 4 ∨ r.bodyLength < 8) := by
    rw [hcheck, octets4_length]
    omega
  rw [ingressEnd_of_receiving hi, ingressClose_of_good hr hshort hcheck (recheck_some hstream hvalid htag)] at hexec
  refine ⟨s.setIngress p .idle, _, _, setsIngress_setIngress .., changesOnly_setIngress .., rfl, hexec, fun q hq => ?_⟩
  unfold handOver
  dsimp only
  generalize (s.setIngress p .idle).charge i r.bodyLength = v at hq ⊢
  obtain ⟨outcome, c⟩ := v
  dsimp only at hq ⊢
  cases outcome with
  | overbudget => exact ⟨discarded_discard .overbudget h, changesOnly_discard .overbudget h⟩
  | chainEnd => exact ⟨discarded_discard .chainEnd h, changesOnly_discard .chainEnd h⟩
  | fixed t =>
    dsimp only
    have hfix : (c.fixTier h i t).handle? h = some { q with tier := t, whole := (c.stream i.val).whole } :=
      modHandle_handle?_self c _ hq
    have hother (k : Nat) (hk : k ≠ h) : (c.fixTier h i t).handle? k = c.handle? k := modHandle_handle?_other c _ hk
    have hframe : ChangesOnly [.buf] c (c.fixTier h i t) := (lawful_fixTier h i t).frame
    have hqueue (x : Tier) : (c.fixTier h i t).queue x = c.queue x := queue_of_queues (hframe.queues (by decide)) x
    have hoct : KeepsOctets c (c.fixTier h i t) := fun a => by rw [fixTier, modHandle_octets]
    simp only [offerQueue, hqueue t]
    split
    case isTrue hroom =>
      refine ⟨((c.fixTier h i t).setMembers t ((c.queue t).members ++ [h])).setHolder h (.tierQueue t), ?_,
        fun x hx => ?_, fun x => ?_, ?_, ?_, ?_, ?_, ?_⟩
      · rw [queue_of_queues (setHolder_queues ..), setMembers_queue_self]
      · rw [queue_of_queues (setHolder_queues ..), setMembers_queue_other _ _ hx, hqueue]
      · rw [queue_of_queues (setHolder_queues ..)]
        by_cases hx : x = t
        · rw [hx, setMembers_queue_self, hqueue]
        · rw [setMembers_queue_other _ _ hx, hqueue]
      · exact modHandle_handle?_self ((c.fixTier h i t).setMembers t _)
          (fun r => { r with holder := .tierQueue t }) hfix
      · exact keepsHandles_of_other fun k hk => (modHandle_handle?_other _ _ hk).trans (hother k hk)
      · exact fun a => by rw [setHolder_octets]; exact hoct a
      · exact (hframe.mono (by decide)).trans (by simp [ChangesOnly])
      · rw [if_pos rfl, joinQueue, hqueue t]
        have htx :
            (((c.fixTier h i t).setMembers t ((c.queue t).members ++ [h])).setHolder h (.tierQueue t)).tx = c.tx := by
          rw [setHolder_tx, setMembers_tx, hframe.tx (by decide)]
        simp only [htx]
    case isFalse hroom =>
      rw [if_neg nofun]
      obtain ⟨hfree, hkeep, hoct', hcount, hev⟩ := discarded_discard (s := c.fixTier h i t) .tierFull h
      have hso : (c.fixTier h i t).streamOf h = q.stream := by simp [streamOf, hfix]
      rw [hso] at hcount
      refine ⟨hfree, fun k hk => (hkeep k hk).trans (hother k fun hk' => hk (List.mem_singleton.2 hk')),
        fun a => (hoct' a).trans (hoct a), hcount.of_eq (hframe.tallies (by decide)),
        hev.trans (by rw [hframe.releaseEvents (by decide)]), ?_⟩
      exact (hframe.mono (by decide)).trans (changesOnly_discard .tierFull h)

namespace State

/-! ## The egress (R52) -/

theorem egressFrame_eq {h : Nat} {r : Handle} (hr : s.handle? h = some r) : s.egressFrame r =
    (s.bodyOf h).map TribSymbol.data ++ (octets4 (frameCheck (s.bodyOf h))).map TribSymbol.data ++ [.closeEnd] := by
  rw [bodyOf_eq hr]
  simp [egressFrame, tribData]

@[simp] theorem sendTrib_port_self (l : List TribSymbol) :
    (s.sendTrib p l).port p = { s.port p with sent := (s.port p).sent ++ l } := setPort_port_self ..

theorem sendTrib_port_other {q : Port} (l : List TribSymbol) (hq : q ≠ p) : (s.sendTrib p l).port q = s.port q :=
  setPort_port_other _ _ hq

theorem egressSent_of_frame {h : Nat} {rest : List Nat} {r : Handle} (he : (s.port p).egress = h :: rest)
    (hr : s.handle? h = some r) : s.egressSent p = ((s.setPort p { s.port p with egress := rest }).sendTrib p
      (s.egressFrame r ++ [if rest = [] then .idle else .opened])).release h := by
  simp only [egressSent, he, hr]

end State

open State in
/-- Settles O27: the head leaves the queue, its frame is sent, and its handle is released. -/
theorem egressFrameCompletes : Obligations.EgressFrameCompletes := by
  intro p s
  cases he : (s.port p).egress with
  | nil =>
    show Host.Outcome.next (s.egressSent p).settle = _
    rw [egressSent, he]
  | cons h rest =>
    intro r hr
    refine ⟨s.egressSent p, rfl, ?_⟩
    rw [egressSent_of_frame he hr, egressFrame_eq hr]
    generalize hu : (s.setPort p { s.port p with egress := rest }).sendTrib p _ = u
    have hbuf : u.buf = s.buf := by rw [← hu]; rfl
    have hport : ∀ q, (u.release h).port q = u.port q := fun q => port_of_ports (release_ports ..) q
    obtain ⟨hfree, hkeep⟩ := release_handles (s := u) h
    refine ⟨?_, fun q hq => ?_, hfree, fun k hk => (hkeep k hk).trans (handle?_of_buf hbuf k),
      fun a => by rw [release_buf, freeHandle_octets, hbuf], by rw [release_releaseEvents, ← hu]; rfl, ?_⟩
    · rw [hport, ← hu, sendTrib_port_self, setPort_port_self]
      simp
    · rw [hport, ← hu, sendTrib_port_other _ hq, setPort_port_other _ _ hq]
    · have hset : ChangesOnly [.ports] s u := by rw [← hu]; simp [ChangesOnly]
      exact (hset.mono (by decide)).trans ((changesOnly_release h).mono (by decide))

end Sys2Proof.Machine
end

section
/-! PROOFS. The allotment unit and the timers: a charge beyond the budget (O29), the expiries of the epoch and of the
window (O30), and the tick of an empty queue (O3). -/

namespace Sys2Proof.Machine

namespace State

variable {s : State}

/-! ## The charge that needs an advance (R65, R66, R67) -/

section Charge

variable {i : StreamIx} {c n : RecordIx} {left len : Nat}

theorem loaded_of_zero (hb : (s.record n).budget = 0) : s.loaded n = .metered n .unbounded := by
  rw [loaded, if_pos hb]

theorem loaded_of_ne_zero (hb : (s.record n).budget ≠ 0) :
    s.loaded n = .metered n (.octets (s.record n).budget.toNat) := by
  rw [loaded, if_neg hb]

theorem charge_of_exhausted (len : Nat) (hrt : s.runtime i.val = .exhausted c) :
    s.charge i len = (endOutcome (s.stream i.val), s) := by
  simp [charge, hrt]

section Beyond

variable (hrt : s.runtime i.val = .metered c (.octets left)) (hlt : left < len)
include hrt hlt

theorem charge_at_end (hnext : (s.record c).next = none) : s.charge i len =
    (endOutcome (s.stream i.val), (s.setRuntime i.val (.exhausted c)).raiseNotice (.chainEnd i c)) := by
  simp [charge, hrt, Nat.not_le.2 hlt, hnext]

theorem charge_to_unbounded (hnext : (s.record c).next = some n) (hb : (s.record n).budget = 0) : s.charge i len =
    (.fixed (recordTier (s.stream i.val) (s.record n)), s.setRuntime i.val (.metered n .unbounded)) := by
  simp [charge, hrt, Nat.not_le.2 hlt, hnext, loaded_of_zero hb]

theorem charge_to_fitting (hnext : (s.record c).next = some n) (hb : (s.record n).budget ≠ 0)
    (hfit : len ≤ (s.record n).budget.toNat) : s.charge i len =
    (.fixed (recordTier (s.stream i.val) (s.record n)),
      s.setRuntime i.val (.metered n (.octets ((s.record n).budget.toNat - len)))) := by
  simp [charge, hrt, Nat.not_le.2 hlt, hnext, loaded_of_ne_zero hb, hfit]

theorem charge_to_small (hnext : (s.record c).next = some n) (hb : (s.record n).budget ≠ 0)
    (hfit : ¬ len ≤ (s.record n).budget.toNat) : s.charge i len =
    (.overbudget, s.setRuntime i.val (.metered n (.octets (s.record n).budget.toNat))) := by
  simp [charge, hrt, Nat.not_le.2 hlt, hnext, loaded_of_ne_zero hb, hfit]

end Beyond
end Charge

/-- A runtime that is written: it alone, in the metering alone. -/
theorem setRuntime_others (i : Nat) (rt : Runtime) :
    (∀ j, j ≠ i → (s.setRuntime i rt).runtime j = s.runtime j) ∧ (∀ x, (s.setRuntime i rt).record x = s.record x) ∧
      (s.setRuntime i rt).metering.epochElapsed = s.metering.epochElapsed ∧
      ChangesOnly [.metering] s (s.setRuntime i rt) :=
  ⟨fun _ => setRuntime_runtime_other _ _, setRuntime_record _ _ _, setRuntime_epochElapsed ..,
    changesOnly_setRuntime ..⟩

end State

open State in
/-- Settles O29, by the next record of the one the stream stands at and by the budget found there. -/
theorem chargeBeyondBudget : Obligations.ChargeBeyondBudget := by
  intro s i len ended
  have hended : endOutcome (s.stream i.val) = ended := rfl
  refine ⟨fun r hrt => by rw [charge_of_exhausted len hrt, hended], fun r left hrt hlt => ?_⟩
  have hwritten (rt : Runtime) := setRuntime_others (s := s) i.val rt
  cases hnext : (s.record r).next with
  | none =>
    obtain ⟨hruntimes, hrecords, hepoch, honly⟩ := hwritten (.exhausted r)
    exact ⟨_, hruntimes, hrecords, hepoch, honly, setRuntime_runtime_self ..,
      by rw [charge_at_end hrt hlt hnext, hended]⟩
  | some n =>
    by_cases hb : (s.record n).budget = 0
    · obtain ⟨hruntimes, hrecords, hepoch, honly⟩ := hwritten (.metered n .unbounded)
      refine ⟨_, hruntimes, hrecords, hepoch, honly, ?_⟩
      dsimp only
      rw [if_pos hb]
      exact ⟨setRuntime_runtime_self .., charge_to_unbounded hrt hlt hnext hb⟩
    · by_cases hfit : len ≤ (s.record n).budget.toNat
      · obtain ⟨hruntimes, hrecords, hepoch, honly⟩ :=
          hwritten (.metered n (.octets ((s.record n).budget.toNat - len)))
        refine ⟨_, hruntimes, hrecords, hepoch, honly, ?_⟩
        dsimp only
        rw [if_neg hb, if_pos hfit]
        exact ⟨setRuntime_runtime_self .., charge_to_fitting hrt hlt hnext hb hfit⟩
      · obtain ⟨hruntimes, hrecords, hepoch, honly⟩ := hwritten (.metered n (.octets (s.record n).budget.toNat))
        refine ⟨_, hruntimes, hrecords, hepoch, honly, ?_⟩
        dsimp only
        rw [if_neg hb, if_neg hfit]
        exact ⟨setRuntime_runtime_self .., charge_to_small hrt hlt hnext hb hfit⟩

namespace State

variable {s : State}

/-! ## Expiries (R73, R158) -/

theorem epochExpiry_of_stopped (h : s.part.epochPeriod = 0) : s.epochExpiry = s := by simp [epochExpiry, h]

theorem epochExpiry_of_running (h : s.part.epochPeriod ≠ 0) : s.epochExpiry =
    (s.loadHeads s.streams).withMetering { (s.loadHeads s.streams).metering with epochElapsed := 0 } := by
  simp only [epochExpiry, if_neg h, loadHeads]

theorem changesOnly_epochExpiry : ChangesOnly [.metering] s s.epochExpiry := lawful_epochExpiry.frame

end State

open State in
/-- Settles O30: the loads of the chain heads reach every listed entry once, and an unlisted one has no head. -/
theorem timersExpire : Obligations.TimersExpire := by
  refine ⟨fun s ht => ⟨s.epochExpiry, rfl, changesOnly_epochExpiry, epochExpiry_of_stopped, fun hp => ?_⟩,
    fun s => ⟨s.windowExpiry, rfl, rfl, lawful_windowExpiry.frame⟩⟩
  rw [epochExpiry_of_running hp]
  refine ⟨rfl, (loadHeads_frame s.streams).2.1, fun i => ?_⟩
  have hload : (s.loadHeads s.streams).runtime i.val = s.reloaded (s.stream i.val) (s.runtime i.val) :=
    loadHeads_runtime (Table.risingFrom_zero_of_wf ht.1.1) i.val
  refine Eq.trans hload ?_
  unfold reloaded loaded
  cases (s.stream i.val).valid <;> cases (s.stream i.val).chainHead <;> rfl

namespace State

variable {s : State}

/-! ## The ticks (notes/assumptions/5.md) -/

theorem tickEpoch_of_stopped (h : s.part.epochPeriod = 0) : s.tickEpoch = s := by simp [tickEpoch, h]

theorem tickEpoch_of_counting (h : s.part.epochPeriod ≠ 0)
    (hlt : s.metering.epochElapsed + 1 < s.part.epochPeriod.toNat) :
    s.tickEpoch = s.withMetering { s.metering with epochElapsed := s.metering.epochElapsed + 1 } := by
  rw [tickEpoch, if_neg h, if_pos hlt]

theorem tickEpoch_of_expiring (h : s.part.epochPeriod ≠ 0)
    (hle : s.part.epochPeriod.toNat ≤ s.metering.epochElapsed + 1) : s.tickEpoch = s.epochExpiry := by
  rw [tickEpoch, if_neg h, if_neg (Nat.not_lt.2 hle)]

/-- The window idle timer counts, and frees the window at its end. -/
theorem tickWindow_agent (s : State) : s.tickWindow.agent = { s.agent with
    window := s.agent.window.bind fun w =>
      if w.idle + 1 < 2500 then some { w with idle := w.idle + 1 } else none } := by
  unfold tickWindow
  cases hw : s.agent.window with
  | none =>
    dsimp only
    rw [Option.bind_none, ← hw]
  | some w =>
    rw [Option.bind_some]
    dsimp only
    by_cases h : w.idle + 1 < 2500
    · rw [if_pos h, if_pos (show w.idle + 1 < Config.windowTicks from h)]
      rfl
    · rw [if_neg h, if_neg (show ¬ w.idle + 1 < Config.windowTicks from h)]
      rfl

theorem tickResend_of_counting {e : Nat} (ht : s.notices.timer = .running e) (he : e + 1 < 200) :
    s.tickResend = s.withNotices { s.notices with timer := .running (e + 1) } := by
  simp [tickResend, ht, show e + 1 < Config.resendTicks from he]

theorem tickResend_of_expiring {e : Nat} (ht : s.notices.timer = .running e) (he : 200 ≤ e + 1) :
    s.tickResend = s.resendExpiry := by
  simp [tickResend, ht, show ¬ e + 1 < Config.resendTicks from Nat.not_lt.2 he]

end State

open State in
/-- Settles O3: the tick is the three timers' ticks in order, each of which writes its own block. -/
theorem emptyQueueStepIsATick : Obligations.EmptyQueueStepIsATick := by
  intro s hp
  have hepoch : ChangesOnly [.metering] s s.tickEpoch := lawful_tickEpoch.frame
  have hwindow : ChangesOnly [.agent] s.tickEpoch s.tickEpoch.tickWindow := lawful_tickWindow.frame
  have hmetering : s.tickEpoch.tickWindow.metering = s.tickEpoch.metering := hwindow.metering (by decide)
  have hnotices : s.tickEpoch.tickWindow.notices = s.notices :=
    (hwindow.notices (by decide)).trans (hepoch.notices (by decide))
  refine ⟨s.tickEpoch.tickWindow, s.tick, step_of_pending_nil hp,
    (hepoch.mono (by decide)).trans (hwindow.mono (by decide)), fun h => by rw [hmetering, tickEpoch_of_stopped h],
    fun h hlt => by rw [hmetering, tickEpoch_of_counting h hlt]; rfl,
    fun h hle => ⟨s.epochExpiry, rfl, by rw [hmetering, tickEpoch_of_expiring h hle]⟩, ?_, ?_⟩
  · rw [tickWindow_agent, hepoch.agent (by decide)]
    cases s.agent.window <;> rfl
  · have htick : s.tick = s.tickEpoch.tickWindow.tickResend := rfl
    cases ht : s.notices.timer with
    | running e =>
      have hrun : s.tickEpoch.tickWindow.notices.timer = .running e := by rw [hnotices, ht]
      refine ⟨fun he => ?_, fun he => ?_⟩
      · rw [htick, tickResend_of_counting hrun he, hnotices]
      · rw [htick, tickResend_of_expiring hrun he]
        rfl
    | stopped => rw [htick, tickResend, hnotices, ht]
    | held e => rw [htick, tickResend, hnotices, ht]

end Sys2Proof.Machine
end

section
/-! PROOFS. The codes: of the two lines (O7), of the requests (O8), and of the table entries as they are read and
written (O9, O10). -/

namespace Sys2Proof.Machine

/-! ## Named values (R199) -/

@[simp] theorem Tier.ix_ofIx (i : Fin 4) : (Tier.ofIx i).ix = i := by
  revert i; decide

@[simp] theorem Tier.ofIx_ix (t : Tier) : Tier.ofIx t.ix = t := by cases t <;> rfl

theorem tierOfCode_none_iff {b : Byte} : tierOfCode b = none ↔ 3 < b.toNat := by
  unfold tierOfCode
  split <;> simp <;> omega

theorem tierCode_of_tierOfCode {b : Byte} {t : Tier} (h : tierOfCode b = some t) : tierCode t = b := by
  unfold tierOfCode at h
  split at h
  case isTrue hlt =>
    obtain rfl := Option.some.inj h
    simp [tierCode]
  case isFalse => cases h

theorem recordOfCode_none_iff {x : BitVec 16} : recordOfCode x = none ↔ 1024 ≤ x.toNat ∧ x ≠ 0xFFFF := by
  unfold recordOfCode
  split
  · simp; omega
  · split
    case isTrue hx => simp [hx]
    case isFalse hx => exact ⟨fun _ => ⟨by omega, hx⟩, fun _ => rfl⟩

theorem recordCode_of_recordOfCode {x : BitVec 16} {r : Option RecordIx} (h : recordOfCode x = some r) :
    recordCode r = x := by
  unfold recordOfCode at h
  split at h
  case isTrue hlt =>
    obtain rfl := Option.some.inj h
    simp [recordCode]
  case isFalse =>
    split at h
    case isTrue hx =>
      obtain rfl := Option.some.inj h
      exact hx.symm
    case isFalse => cases h

@[simp] theorem recordOfCode_recordCode (r : Option RecordIx) : recordOfCode (recordCode r) = some r := by
  cases r with
  | none => rfl
  | some r =>
    have hr : (BitVec.ofNat 16 r.val).toNat = r.val := by
      rw [BitVec.toNat_ofNat]
      omega
    simp only [recordCode, recordOfCode, hr, r.isLt, dif_pos, Fin.eta]

/-! ## The line codes (R196) -/

theorem decodeTrunkCode_encode (x : TrunkSymbol) : decodeTrunkCode (encodeTrunkSymbol x) = x := by
  cases x with
  | openFirst t => cases t <;> rfl
  | openNext t i =>
    cases t <;> revert i <;> decide
  | data | idle | clear | closeMore | closeLast | invalid => rfl

theorem decodeTribCode_encode (x : TribSymbol) : decodeTribCode (encodeTribSymbol x) = x := by
  cases x <;> rfl

theorem eq_of_toNat {v : Byte} {n : Nat} (h : v.toNat = n) : BitVec.ofNat 8 n = v := by simp [← h]

theorem decodeTrunkCode_invalid_iff (v : Byte) : decodeTrunkCode (.marker v) = .invalid ↔
    ¬ (v.toNat < 4 ∨ 16 ≤ v.toNat ∧ v.toNat < 20 ∨ 32 ≤ v.toNat ∧ v.toNat < 64) := by
  simp only [decodeTrunkCode]
  split_ifs <;> simp only [false_iff, true_iff, not_not] <;> omega

theorem decodeTribCode_invalid_iff (v : Byte) : decodeTribCode (.marker v) = .invalid ↔
    ¬ (v.toNat = 0 ∨ v.toNat = 0x40 ∨ v.toNat = 0x41 ∨ v.toNat = 0x42) := by
  simp only [decodeTribCode]
  split_ifs <;> simp only [false_iff, true_iff, not_not] <;> omega

/-- The tier and the index of an OPEN marker are the digits of its code. -/
theorem encode_decodeTrunkCode {v : Byte} (h : decodeTrunkCode (.marker v) ≠ .invalid) :
    encodeTrunkSymbol (decodeTrunkCode (.marker v)) = .marker v := by
  simp only [decodeTrunkCode] at h ⊢
  split_ifs at h ⊢ with h0 h1 h2 h3 hfirst hnext
  · exact congrArg LineCode.marker (eq_of_toNat h0)
  · exact congrArg LineCode.marker (eq_of_toNat h1)
  · exact congrArg LineCode.marker (eq_of_toNat h2)
  · exact congrArg LineCode.marker (eq_of_toNat h3)
  · refine congrArg LineCode.marker (eq_of_toNat ?_)
    simp only [Tier.ix_ofIx, Fin.val_ofNat]
    omega
  · refine congrArg LineCode.marker (eq_of_toNat ?_)
    simp only [Tier.ix_ofIx, Fin.val_ofNat, BitVec.toNat_ofNat]
    omega
  · exact absurd rfl h

theorem encode_decodeTribCode {v : Byte} (h : decodeTribCode (.marker v) ≠ .invalid) :
    encodeTribSymbol (decodeTribCode (.marker v)) = .marker v := by
  simp only [decodeTribCode] at h ⊢
  split_ifs at h ⊢ with h0 h1 h2 h3
  · exact congrArg LineCode.marker (eq_of_toNat h0)
  · exact congrArg LineCode.marker (eq_of_toNat h1)
  · exact congrArg LineCode.marker (eq_of_toNat h2)
  · exact congrArg LineCode.marker (eq_of_toNat h3)
  · exact absurd rfl h

/-- Settles O7: a marker's code is looked up by its value, and an OPEN marker's digits give it back. -/
theorem lineCodesRoundTrip : Obligations.LineCodesRoundTrip :=
  ⟨decodeTrunkCode_encode, decodeTribCode_encode, fun _ => ⟨rfl, rfl⟩, rfl, rfl, decodeTrunkCode_invalid_iff,
    decodeTribCode_invalid_iff, fun _ => encode_decodeTrunkCode, fun _ => encode_decodeTribCode⟩

/-! ## The request bodies (R200, R203) -/

section Body

variable (node : BitVec 6) (h : ReqHeader) (kind : Byte) (args : List Byte)

theorem requestBody_eq : requestBody node h kind args =
    [(requestTag node h.broadcast).extractLsb' 8 8, (requestTag node h.broadcast).extractLsb' 0 8,
      h.replyTag.extractLsb' 8 8, h.replyTag.extractLsb' 0 8, BitVec.ofNat 8 h.controller.val, h.number, kind] ++
      args :=
  rfl

@[simp] theorem requestBody_length : (requestBody node h kind args).length = 7 + args.length := by
  simp [requestBody_eq]; omega

theorem requestBody_tag : word16At (requestBody node h kind args) 0 = requestTag node h.broadcast := word16_octets2 _

theorem requestBody_replyTag : word16At (requestBody node h kind args) 2 = h.replyTag := word16_octets2 _

/-- The controller and the number stand before the kind, whatever it is. -/
theorem decodeRequest_requestBody : decodeRequest (requestBody node h kind args) =
    (decodeOp (requestBody node h kind args)).map fun op => ⟨h.controller, h.number, op⟩ := by
  have hc : (BitVec.ofNat 8 h.controller.val).toNat = h.controller.val := by
    rw [BitVec.toNat_ofNat]
    omega
  have hat : octetAt (requestBody node h kind args) 4 = BitVec.ofNat 8 h.controller.val := rfl
  have hlt : (octetAt (requestBody node h kind args) 4).toNat < 4 := by
    rw [hat, hc]
    exact h.controller.isLt
  have hctl : (⟨(octetAt (requestBody node h kind args) 4).toNat, hlt⟩ : Controller) = h.controller :=
    Fin.ext ((congrArg BitVec.toNat hat).trans hc)
  rw [decodeRequest, dif_pos hlt, hctl]
  rfl

end Body

section Kinds

variable (node : BitVec 6) (h : ReqHeader)

theorem decodeOp_select (table : TableName) (base : BitVec 16) :
    decodeOp (requestBody node h 0x01 ([tableCode table] ++ octets2 base)) = some (.select table base.toNat) := by
  have htable : octetAt (requestBody node h 0x01 ([tableCode table] ++ octets2 base)) 7 = tableCode table := rfl
  have hbase : word16At (requestBody node h 0x01 ([tableCode table] ++ octets2 base)) 8 = base := word16_octets2 _
  have hkind : (octetAt (requestBody node h 0x01 ([tableCode table] ++ octets2 base)) 6).toNat = 1 := rfl
  simp only [decodeOp, hkind]
  rw [if_neg (by simp), htable, hbase, tableOfCode_tableCode]
  rfl

theorem decodeOp_release : decodeOp (requestBody node h 0x02 [0x00]) = some .release := rfl

theorem decodeOp_read (offset count : Byte) :
    decodeOp (requestBody node h 0x03 [offset, count]) = some (.read offset.toNat count.toNat) := rfl

theorem decodeOp_write (offset count : Byte) (data : List Byte) :
    decodeOp (requestBody node h 0x04 ([offset, count] ++ data)) = some (.write offset.toNat count.toNat data) := by
  have hkind : (octetAt (requestBody node h 0x04 ([offset, count] ++ data)) 6).toNat = 4 := rfl
  simp only [decodeOp, hkind]
  rw [if_neg (by simp; omega)]
  rfl

theorem decodeOp_append (tail new : BitVec 16) :
    decodeOp (requestBody node h 0x05 (octets2 tail ++ octets2 new)) = some (.append tail.toNat new.toNat) := by
  have htail : word16At (requestBody node h 0x05 (octets2 tail ++ octets2 new)) 7 = tail := word16_octets2 _
  have hnew : word16At (requestBody node h 0x05 (octets2 tail ++ octets2 new)) 9 = new := word16_octets2 _
  have hkind : (octetAt (requestBody node h 0x05 (octets2 tail ++ octets2 new)) 6).toNat = 5 := rfl
  simp only [decodeOp, hkind]
  rw [if_neg (by simp), htail, hnew]

theorem decodeOp_acknowledge (sequence : Byte) :
    decodeOp (requestBody node h 0x06 [sequence]) = some (.acknowledge sequence) := rfl

theorem decodeOp_status : decodeOp (requestBody node h 0x07 [0x00]) = some .status := rfl

theorem decodeOp_restart : decodeOp (requestBody node h 0x08 [0x00]) = some .restart := rfl

theorem decodeOp_portReset (port : Byte) :
    decodeOp (requestBody node h 0x09 [port]) = some (.portReset port.toNat) := rfl

end Kinds

theorem State.bodyOfRequest_eq {s : State} {x : Instr} {h : ReqHeader} {kind : Byte} {args : List Byte}
    (hx : requestParts x = some (h, kind, args)) : s.bodyOfRequest x = requestBody s.part.node h kind args := by
  rw [State.bodyOfRequest, hx]

/-- The request that a command's parts spell, and its delivery. -/
theorem requestParts_spec {x : Instr} {h : ReqHeader} {kind : Byte} {args : List Byte}
    (hx : requestParts x = some (h, kind, args)) (s : State) :
    (∃ op, decodeOp (requestBody s.part.node h kind args) = some op ∧ requestOf x = some ⟨h.controller, h.number, op⟩) ∧
      1 ≤ args.length ∧ exec x s = .next (s.request h kind args) := by
  cases x with
  | select h table base => cases hx; exact ⟨⟨_, decodeOp_select .., rfl⟩, by simp, rfl⟩
  | release h => cases hx; exact ⟨⟨_, decodeOp_release .., rfl⟩, by simp, rfl⟩
  | read h offset count => cases hx; exact ⟨⟨_, decodeOp_read .., rfl⟩, by simp, rfl⟩
  | writeStream h offset count es => cases hx; exact ⟨⟨_, decodeOp_write .., rfl⟩, by simp, rfl⟩
  | writeAllot h offset count es => cases hx; exact ⟨⟨_, decodeOp_write .., rfl⟩, by simp, rfl⟩
  | writeStreamTally h offset count es => cases hx; exact ⟨⟨_, decodeOp_write .., rfl⟩, by simp, rfl⟩
  | writeTier h offset count es => cases hx; exact ⟨⟨_, decodeOp_write .., rfl⟩, by simp, rfl⟩
  | writePort h offset count es => cases hx; exact ⟨⟨_, decodeOp_write .., rfl⟩, by simp, rfl⟩
  | writePart h offset count es => cases hx; exact ⟨⟨_, decodeOp_write .., rfl⟩, by simp, rfl⟩
  | writeDiscard h offset count es => cases hx; exact ⟨⟨_, decodeOp_write .., rfl⟩, by simp, rfl⟩
  | writeNotices h offset count es => cases hx; exact ⟨⟨_, decodeOp_write .., rfl⟩, by simp, rfl⟩
  | append h tail new => cases hx; exact ⟨⟨_, decodeOp_append .., rfl⟩, by simp, rfl⟩
  | acknowledge h sequence => cases hx; exact ⟨⟨_, decodeOp_acknowledge .., rfl⟩, by simp, rfl⟩
  | status h => cases hx; exact ⟨⟨_, decodeOp_status .., rfl⟩, by simp, rfl⟩
  | restart h => cases hx; exact ⟨⟨_, decodeOp_restart .., rfl⟩, by simp, rfl⟩
  | portReset h port => cases hx; exact ⟨⟨_, decodeOp_portReset .., rfl⟩, by simp, rfl⟩
  | _ => cases hx

/-- Settles O8: the octets before the kind give the controller and the number, and the kind's arguments its operands. -/
theorem requestBodiesDecode : Obligations.RequestBodiesDecode := by
  intro x s h kind args hx
  obtain ⟨⟨op, hop, hreq⟩, hlen, hexec⟩ := requestParts_spec hx s
  rw [State.bodyOfRequest_eq hx, decodeRequest_requestBody, hop, hreq]
  exact ⟨rfl, rfl, requestBody_tag .., requestBody_replyTag .., by simp; omega, hexec⟩

/-! ## The STREAM entry (R205) -/

/-- The end action that a code names; absent for a code that names none (R199). -/
def endActionOfCode (b : Byte) : Option EndAction :=
  if b.toNat = 0 then some .drop else if b.toNat = 1 then some .demote else none

theorem endActionOfCode_none_iff {b : Byte} : endActionOfCode b = none ↔ 1 < b.toNat := by
  unfold endActionOfCode
  split_ifs <;> simp <;> omega

theorem endActionCode_of_endActionOfCode {b : Byte} {x : EndAction} (h : endActionOfCode b = some x) :
    endActionCode x = b := by
  unfold endActionOfCode at h
  split_ifs at h with h0 h1
  · obtain rfl := Option.some.inj h
    exact eq_of_toNat h0
  · obtain rfl := Option.some.inj h
    exact eq_of_toNat h1

@[simp] theorem endActionOfCode_endActionCode (x : EndAction) : endActionOfCode (endActionCode x) = some x := by
  cases x <;> rfl

section Stream

variable {l : List Byte} {flags port tier act a b c d : Byte} {rest : List Byte}

theorem parseStream_of_invalid (hv : flags.getLsbD 0 = false) :
    parseStream (flags :: rest) = some StreamEntry.invalid := by
  have hflags : octetAt (flags :: rest) 0 = flags := rfl
  simp only [parseStream, hflags, hv]
  rfl

/-- A valid entry is judged field by field. -/
theorem parseStream_of_valid (hv : flags.getLsbD 0 = true) :
    parseStream ([flags, a, b, port, tier, act, c, d] ++ rest) =
      if word16 a b = 0 then none
      else if hp : port.toNat < 8 then
        (tierOfCode tier).bind fun t => (recordOfCode (word16 c d)).bind fun head => (endActionOfCode act).map fun x =>
          { valid := true, tag := word16 a b, port := ⟨port.toNat, hp⟩, baseTier := t, whole := flags.getLsbD 1
            chainHead := head, endAction := x }
      else none := by
  generalize hl : [flags, a, b, port, tier, act, c, d] ++ rest = l
  have hflags : octetAt l 0 = flags := by rw [← hl]; rfl
  have hport : octetAt l 3 = port := by rw [← hl]; rfl
  have htier : octetAt l 4 = tier := by rw [← hl]; rfl
  have hact : octetAt l 5 = act := by rw [← hl]; rfl
  have htag : word16At l 1 = word16 a b := by rw [← hl]; rfl
  have hhead : word16At l 6 = word16 c d := by rw [← hl]; rfl
  simp only [parseStream, hflags, hport, htier, hact, htag, hhead, hv, if_true]
  split
  case isTrue => rfl
  case isFalse =>
    split
    case isFalse => rfl
    case isTrue =>
      cases tierOfCode tier with
      | none => rfl
      | some t =>
        cases recordOfCode (word16 c d) with
        | none => rfl
        | some head =>
          simp only [Option.bind_some, endActionOfCode]
          split <;> simp_all

end Stream

/-- The flags octet of an entry that is read. -/
theorem streamFlags_getLsbD (e : StreamEntry) (rt : Runtime) :
    (streamFlags e rt).getLsbD 0 = e.valid ∧ (streamFlags e rt).getLsbD 1 = e.whole ∧
      (streamFlags e rt).getLsbD 2 = rt.unboundedMark ∧ (streamFlags e rt).toNat < 8 := by
  unfold streamFlags
  cases e.valid <;> cases e.whole <;> cases rt.unboundedMark <;> decide

/-- The octets of an entry in the order of `parseStream_of_valid`. -/
theorem streamOctets_eq (e : StreamEntry) (rt : Runtime) : streamOctets e rt =
    [streamFlags e rt, e.tag.extractLsb' 8 8, e.tag.extractLsb' 0 8, BitVec.ofNat 8 e.port.val, tierCode e.baseTier,
      endActionCode e.endAction, (recordCode e.chainHead).extractLsb' 8 8, (recordCode e.chainHead).extractLsb' 0 8] ++
      runtimeOctets rt := rfl

theorem parseStream_streamOctets {e : StreamEntry} (rt : Runtime) (htag : e.valid = true → e.tag ≠ 0)
    (hinv : e.valid = false → e = StreamEntry.invalid) : parseStream (streamOctets e rt) = some e := by
  have hflags := streamFlags_getLsbD e rt
  cases hv : e.valid with
  | false =>
    have hnone : parseStream (streamOctets e rt) = some StreamEntry.invalid :=
      parseStream_of_invalid (hflags.1.trans hv)
    rw [hnone, hinv hv]
  | true =>
    have hp : (BitVec.ofNat 8 e.port.val).toNat = e.port.val := by
      rw [BitVec.toNat_ofNat]
      omega
    rw [streamOctets_eq, parseStream_of_valid (hflags.1.trans hv), word16_octets2, word16_octets2, if_neg (htag hv)]
    simp only [hp, e.port.isLt, dif_pos, tierOfCode_tierCode, recordOfCode_recordCode, endActionOfCode_endActionCode,
      Option.bind_some, Option.map_some, hflags.2.1, Fin.eta, ← hv]

/-! ## The other entries -/

section Others

variable (budget : BitVec 24) (tier : Byte) (next : BitVec 16)

theorem parseAllot_octets : parseAllot (octets3 budget ++ [tier] ++ octets2 next) =
    (recordOfCode next).bind fun n =>
      if tier = 0x04 then some { budget := budget, tier := none, next := n }
      else (tierOfCode tier).map fun t => { budget := budget, tier := some t, next := n } := by
  generalize hl : octets3 budget ++ [tier] ++ octets2 next = l
  have hbudget : word24At l 0 = budget := by rw [← hl]; exact word24_octets3 budget
  have htier : octetAt l 3 = tier := by rw [← hl]; rfl
  have hnext : word16At l 4 = next := by rw [← hl]; exact word16_octets2 next
  simp only [parseAllot, hbudget, htier, hnext]
  cases recordOfCode next <;> rfl

theorem parseAllot_allotOctets (r : AllotRecord) : parseAllot (allotOctets r) = some r := by
  obtain ⟨budget, tier, next⟩ := r
  rw [allotOctets, parseAllot_octets, recordOfCode_recordCode, Option.bind_some]
  cases tier with
  | none => rfl
  | some t =>
    have hne : tierCode t ≠ 0x04 := by cases t <;> decide
    simp only [if_neg hne, tierOfCode_tierCode, Option.map_some]

theorem parseTally_octets (w x y z : BitVec 32) (rest : List Byte) :
    parseTally (octets4 w ++ octets4 x ++ octets4 y ++ octets4 z ++ rest) =
      some { framesToTrunk := w, octetsToTrunk := x, framesDelivered := y, framesDiscarded := z } := by
  have h0 : word32At (octets4 w ++ octets4 x ++ octets4 y ++ octets4 z ++ rest) 0 = w := word32_octets4 w
  have h1 : word32At (octets4 w ++ octets4 x ++ octets4 y ++ octets4 z ++ rest) 4 = x := word32_octets4 x
  have h2 : word32At (octets4 w ++ octets4 x ++ octets4 y ++ octets4 z ++ rest) 8 = y := word32_octets4 y
  have h3 : word32At (octets4 w ++ octets4 x ++ octets4 y ++ octets4 z ++ rest) 12 = z := word32_octets4 z
  rw [parseTally, h0, h1, h2, h3]

theorem parseTier_octets (n : BitVec 16) (rest : List Byte) : parseTier (octets2 n ++ rest) =
    if 1 ≤ n.toNat ∧ n.toNat ≤ 511 then some n.toNat else none := by
  have h0 : word16At (octets2 n ++ rest) 0 = n := word16_octets2 n
  rw [parseTier, h0]
  rfl

theorem parsePort_octets (on : Byte) (rest : List Byte) : parsePort (on :: rest) =
    if on = 0 then some false else if on = 1 then some true else none := by
  have h0 : octetAt (on :: rest) 0 = on := rfl
  rw [parsePort, h0]
  split
  case h_1 h =>
    obtain rfl : on = 0 := (eq_of_toNat h).symm
    rfl
  case h_2 h =>
    obtain rfl : on = 1 := (eq_of_toNat h).symm
    rfl
  case h_3 hn0 hn1 => rw [if_neg (by rintro rfl; exact hn0 rfl), if_neg (by rintro rfl; exact hn1 rfl)]

theorem parsePart_octets (period tag : BitVec 16) (rest : List Byte) :
    parsePart (octets2 period ++ octets2 tag ++ rest) = some (period, tag) := by
  have h0 : word16At (octets2 period ++ octets2 tag ++ rest) 0 = period := word16_octets2 period
  have h2 : word16At (octets2 period ++ octets2 tag ++ rest) 2 = tag := word16_octets2 tag
  rw [parsePart, h0, h2]

theorem parseDiscard_octets (v : BitVec 32) : parseDiscard (octets4 v) = some v :=
  congrArg some (word32_octets4 v)

end Others

/-- Settles O9, table by table: every code that a READ gives is one that a WRITE takes for the same value. -/
theorem tableEntriesRoundTrip : Obligations.TableEntriesRoundTrip := by
  refine ⟨fun e rt htag hinv => ⟨State.streamOctets_length e rt, parseStream_streamOctets rt htag hinv⟩,
    fun r => ⟨by simp [allotOctets], parseAllot_allotOctets r⟩, fun v => ⟨by simp [tallyOctets], ?_⟩,
    fun s q hmin hmax => ⟨by simp [State.entryOctets], ?_⟩, fun s p => ⟨rfl, ?_⟩,
    fun s => ⟨rfl, parsePart_octets _ _ _⟩, fun s i => ⟨rfl, ?_⟩, fun s i => State.entryOctets_length .notices i⟩
  · simpa [tallyOctets] using parseTally_octets v.framesToTrunk v.octetsToTrunk v.framesDelivered v.framesDiscarded []
  · have hq : Tier.ofIx (Fin.ofNat 4 q.ix.val) = q := by rw [Fin.ofNat_val_eq_self, Tier.ofIx_ix]
    have hn : (BitVec.ofNat 16 (s.queue q).limit).toNat = (s.queue q).limit := by
      rw [BitVec.toNat_ofNat]
      omega
    simp only [State.entryOctets, hq, count2, parseTier_octets, hn, if_pos (And.intro hmin hmax)]
  · have hp : (Fin.ofNat 8 p.val : Port) = p := Fin.ofNat_val_eq_self p
    simp only [State.entryOctets, hp, parsePort_octets]
    cases (s.port p).enabled <;> rfl
  · have hi : Fin.ofNat 20 i.val = i := Fin.ofNat_val_eq_self i
    simp only [State.entryOctets, hi, parseDiscard_octets]

/-- A written STREAM entry with the valid bit set: the codes that fail, and the values of one that passes. -/
theorem parseStream_written (e : StreamWords) (hv : e.flags.getLsbD 0 = true) :
    ((e.tag = 0 ∨ 7 < e.port.toNat ∨ 3 < e.baseTier.toNat ∨ 1 < e.endAction.toNat ∨
        (1024 ≤ e.chainHead.toNat ∧ e.chainHead ≠ 0xFFFF)) ↔ parseStream (StreamWords.octets e) = none) ∧
      ∀ v, parseStream (StreamWords.octets e) = some v →
        v.valid = true ∧ v.tag = e.tag ∧ v.port.val = e.port.toNat ∧ tierCode v.baseTier = e.baseTier ∧
        v.whole = e.flags.getLsbD 1 ∧ recordCode v.chainHead = e.chainHead ∧
        endActionCode v.endAction = e.endAction := by
  have hshape : StreamWords.octets e = [e.flags, e.tag.extractLsb' 8 8, e.tag.extractLsb' 0 8, e.port, e.baseTier,
      e.endAction, e.chainHead.extractLsb' 8 8, e.chainHead.extractLsb' 0 8] ++ octets6 e.runtime := rfl
  rw [hshape, parseStream_of_valid hv, word16_octets2, word16_octets2, ← tierOfCode_none_iff, ← recordOfCode_none_iff,
    ← endActionOfCode_none_iff]
  split
  case isTrue htag => exact ⟨by simp [htag], nofun⟩
  case isFalse htag =>
  split
  case isFalse hport => exact ⟨by simp; omega, nofun⟩
  case isTrue hport =>
  cases ht : tierOfCode e.baseTier with
  | none => exact ⟨by simp, nofun⟩
  | some t =>
    cases hr : recordOfCode e.chainHead with
    | none => exact ⟨by simp, nofun⟩
    | some r =>
      cases ha : endActionOfCode e.endAction with
      | none => exact ⟨by simp, nofun⟩
      | some a =>
        refine ⟨?_, fun v hsome => ?_⟩
        · simp only [htag, reduceCtorEq, or_false, false_or, Option.bind_some, Option.map_some, iff_false]
          omega
        · obtain rfl := Option.some.inj hsome
          exact ⟨rfl, rfl, rfl, tierCode_of_tierOfCode ht, rfl, recordCode_of_recordOfCode hr,
            endActionCode_of_endActionOfCode ha⟩

/-- A written ALLOT entry: the codes that fail, and the values of one that passes. -/
theorem parseAllot_written (e : AllotWords) :
    ((4 < e.tier.toNat ∨ (1024 ≤ e.next.toNat ∧ e.next ≠ 0xFFFF)) ↔ parseAllot (AllotWords.octets e) = none) ∧
      ∀ v, parseAllot (AllotWords.octets e) = some v →
        v.budget = e.budget ∧ recordCode v.next = e.next ∧ (v.tier = none ↔ e.tier = 4) ∧
        ∀ q, v.tier = some q → tierCode q = e.tier := by
  rw [AllotWords.octets, parseAllot_octets, ← recordOfCode_none_iff]
  cases hr : recordOfCode e.next with
  | none => exact ⟨by simp, nofun⟩
  | some r =>
    rw [Option.bind_some]
    split
    case isTrue h4 =>
      refine ⟨by simp [h4], fun v hsome => ?_⟩
      obtain rfl := Option.some.inj hsome
      exact ⟨rfl, recordCode_of_recordOfCode hr, by simp [h4], nofun⟩
    case isFalse h4 =>
      have hne : e.tier.toNat ≠ 4 := fun h => h4 (eq_of_toNat h).symm
      cases ht : tierOfCode e.tier with
      | none =>
        have hlt := tierOfCode_none_iff.1 ht
        exact ⟨by simp; omega, nofun⟩
      | some t =>
        have hle : ¬ 3 < e.tier.toNat := fun h => absurd (tierOfCode_none_iff.2 h) (by simp [ht])
        refine ⟨by simp; omega, fun v hsome => ?_⟩
        obtain rfl := Option.some.inj hsome
        refine ⟨rfl, recordCode_of_recordOfCode hr, by simpa using h4, fun q hq => ?_⟩
        obtain rfl := Option.some.inj hq
        exact tierCode_of_tierOfCode ht

/-- Settles O10, table by table. -/
theorem writtenCodesThatFail : Obligations.WrittenCodesThatFail := by
  refine ⟨fun e => ⟨fun hv => parseStream_of_invalid hv, parseStream_written e⟩, parseAllot_written, fun e => ?_,
    fun e => parseTier_octets _ _, fun e => parsePort_octets _ _, fun e => parsePart_octets _ _ _, parseDiscard_octets⟩
  simpa [TallyWords.octets] using
    parseTally_octets e.framesToTrunk e.octetsToTrunk e.framesDelivered e.framesDiscarded []

end Sys2Proof.Machine
end

section
/-! PROOFS. What carries a frame through an event: its cells, its length and its octets stand; and what the joining of a
frame built by the part to the T0 queue does (R90, R151, R178). -/

namespace Sys2Proof.Machine

/-- One block of the state stands as it stood. -/
def State.Stands (s t : State) : Block → Prop
  | .buf => t.buf = s.buf
  | .streams => t.streams = s.streams
  | .metering => t.metering = s.metering
  | .ports => t.ports = s.ports
  | .queues => t.queues = s.queues
  | .tx => t.tx = s.tx
  | .line => t.line = s.line
  | .rx => t.rx = s.rx
  | .agent => t.agent = s.agent
  | .part => t.part = s.part
  | .notices => t.notices = s.notices
  | .tallies => t.tallies = s.tallies
  | .releaseEvents => t.releaseEvents = s.releaseEvents
  | .pending => t.pending = s.pending

theorem changesOnly_iff {bs : List Block} {s t : State} : ChangesOnly bs s t ↔ ∀ b, b ∈ bs ∨ s.Stands t b := by
  constructor
  · rintro ⟨h1, h2, h3, h4, h5, h6, h7, h8, h9, h10, h11, h12, h13, h14⟩ b
    cases b <;> assumption
  · intro h
    exact ⟨h _, h _, h _, h _, h _, h _, h _, h _, h _, h _, h _, h _, h _, h _⟩

/-- A block that stands need not be listed. -/
theorem ChangesOnly.erase {bs : List Block} {s t : State} (h : ChangesOnly bs s t) (b : Block) (hb : s.Stands t b) :
    ChangesOnly (bs.filter fun x => x ≠ b) s t := by
  rw [changesOnly_iff] at h ⊢
  intro x
  by_cases hx : x = b
  · exact .inr (hx ▸ hb)
  · exact (h x).imp_left fun hm => List.mem_filter.2 ⟨hm, decide_eq_true hx⟩

/-- Every held handle but those listed keeps its cells, its body length and the octets of its cells. -/
def Carries (gone : List Nat) (s t : State) : Prop :=
  ∀ k r, k ∉ gone → s.handle? k = some r → ∃ r', t.handle? k = some r' ∧ r'.chain = r.chain ∧
    r'.bodyLength = r.bodyLength ∧ ∀ x ∈ r.chain, ∀ i, i < 64 →
      Memory.read t.buf.octets (64 * x + i) = Memory.read s.buf.octets (64 * x + i)

namespace Carries

variable {s t u : State} {g g' : List Nat}

theorem refl (g : List Nat) (s : State) : Carries g s s := fun _ r _ hr => ⟨r, hr, rfl, rfl, fun _ _ _ _ => rfl⟩

theorem mono (h : Carries g s t) (hg : g ⊆ g') : Carries g' s t := fun k r hk => h k r fun hk' => hk (hg hk')

theorem trans (h : Carries g s t) (h' : Carries g t u) : Carries g s u := by
  intro k r hk hr
  obtain ⟨r', hr', hc, hl, ho⟩ := h k r hk hr
  obtain ⟨q, hq, hc', hl', ho'⟩ := h' k r' hk hr'
  exact ⟨q, hq, hc'.trans hc, hl'.trans hl, fun x hx i hi => (ho' x (hc ▸ hx) i hi).trans (ho x hx i hi)⟩

/-- What is gone of the second move was FREE before the first. -/
theorem trans_new {n : Nat} (h : Carries g s t) (hn : s.handle? n = none) (h' : Carries (n :: g) t u) :
    Carries g s u := by
  have hnew : Carries (n :: g) s u := (h.mono (List.subset_cons_self n g)).trans h'
  intro k r hk hr
  refine hnew k r (fun hk' => ?_) hr
  rcases List.mem_cons.1 hk' with rfl | hk'
  · rw [hn] at hr
    cases hr
  · exact hk hk'

theorem of_buf (h : t.buf = s.buf) : Carries g s t := by
  intro k r _ hr
  exact ⟨r, (State.handle?_of_buf h k).trans hr, rfl, rfl, fun _ _ _ _ => by rw [h]⟩

/-- A move that touches the records of some handles and no octet. -/
theorem of_octets (ho : t.buf.octets = s.buf.octets) (hk : ∀ k, k ∉ g → t.handle? k = s.handle? k) : Carries g s t :=
  fun k r hn hr => ⟨r, (hk k hn).trans hr, rfl, rfl, fun _ _ _ _ => by rw [ho]⟩

theorem body (h : Carries g s t) {k : Nat} {r : Handle} (hk : k ∉ g) (hr : s.handle? k = some r) (hf : State.Fits r) :
    t.bodyOf k = s.bodyOf k := by
  obtain ⟨r', hr', hc, hl, ho⟩ := h k r hk hr
  rw [State.bodyOf_eq hr, State.bodyOf_eq hr', hl, State.bodySlice, State.bodySlice, hc]
  refine List.map_congr_left fun j hj => ?_
  simp only [List.mem_range'_1] at hj
  have hcell : j / 64 < r.chain.length := by
    unfold State.Fits at hf
    omega
  have hmem : r.chain.getD (j / 64) 0 ∈ r.chain := by
    rw [List.getD_eq_getElem _ _ hcell]
    exact List.getElem_mem hcell
  exact ho _ hmem (j % 64) (Nat.mod_lt _ (by decide))

theorem fits (h : Carries g s t) {k : Nat} {r : Handle} (hk : k ∉ g) (hr : s.handle? k = some r) (hf : State.Fits r) :
    ∃ r', t.handle? k = some r' ∧ State.Fits r' := by
  obtain ⟨r', hr', hc, hl, -⟩ := h k r hk hr
  exact ⟨r', hr', by unfold State.Fits at hf ⊢; rwa [hc, hl]⟩

/-- The octets of the cells that frames held stand. -/
theorem keepsHeld (h : Carries [] s t) (hs : StoresOk s) : KeepsHeld s t := by
  intro a ha
  obtain ⟨k, r, hr, hx⟩ := State.exists_chain_of_mem_heldCells hs ha
  obtain ⟨-, -, -, -, ho⟩ := h k r nofun hr
  have haddr : 64 * (a / 64) + a % 64 = a := Nat.div_add_mod a 64
  simpa only [haddr] using ho (a / 64) hx (a % 64) (Nat.mod_lt _ (by decide))

end Carries

namespace State

variable {s t : State}

/-- A handle's record changed in fields that its body is not read from. -/
theorem carries_modHandle {g : List Nat} (h : Nat) (f : Handle → Handle) (hf : ∀ r, (f r).chain = r.chain ∧
    (f r).bodyLength = r.bodyLength) : Carries g s (s.modHandle h f) := by
  intro k r _ hr
  by_cases hk : k = h
  · subst hk
    exact ⟨f r, modHandle_handle?_self s f hr, (hf r).1, (hf r).2, fun _ _ _ _ => by rw [modHandle_octets]⟩
  · exact ⟨r, (modHandle_handle?_other s f hk).trans hr, rfl, rfl, fun _ _ _ _ => by rw [modHandle_octets]⟩

theorem carries_setHolder {g : List Nat} (h : Nat) (k : Holder) : Carries g s (s.setHolder h k) :=
  carries_modHandle h _ fun _ => ⟨rfl, rfl⟩

theorem modHandle_handle?_none {h k : Nat} (f : Handle → Handle) :
    (s.modHandle h f).handle? k = none ↔ s.handle? k = none := by
  by_cases hk : k = h
  · subst hk
    cases hr : s.handle? k with
    | none => simp [modHandle, hr]
    | some r => simp [modHandle_handle?_self s f hr]
  · rw [modHandle_handle?_other s f hk]

/-! ## Selection (R91) -/

/-- A frame that waits in the T0 queue, or has been selected from it. -/
def Queued (s : State) (h : Nat) : Prop :=
  h ∈ (s.queue .t0).members ∨ s.tx.active = some h ∧ s.tx.mode ≠ .idle

theorem Queued.or_active {h : Nat} (hq : s.Queued h) : h ∈ (s.queue .t0).members ∨ s.tx.active = some h :=
  hq.imp_right And.left

theorem Queued.congr {h : Nat} (hq : s.Queued h) (hm : (t.queue .t0).members = (s.queue .t0).members)
    (htx : t.tx = s.tx) : t.Queued h := by
  unfold Queued at hq ⊢
  rwa [hm, htx]

theorem openHead_of_free {q : Tier} {h : Nat} {rest : List Nat} (hm : (s.queue q).members = h :: rest)
    (hr : s.handle? h = none) : s.openHead q = s := by
  simp only [openHead, hm, hr]

theorem resumeTop_of_free {h : Nat} {rest : List Nat} (hr : s.handle? h = none) : s.resumeTop h rest = s := by
  simp only [resumeTop, hr]

/-- What any selection leaves: the bodies, the limits, the FREE handles and all of the line but what it has sent. -/
structure Selected (s t : State) : Prop where
  carries : Carries [] s t
  free : ∀ k, s.handle? k = none → t.handle? k = none
  limits : KeepsLimits s t
  line : t.line = { s.line with sent := t.line.sent }

theorem Selected.refl (s : State) : Selected s s := ⟨.refl [] s, fun _ => id, fun _ => rfl, rfl⟩

theorem selected_openHead (q : Tier) : Selected s (s.openHead q) := by
  cases hm : (s.queue q).members with
  | nil => simpa only [openHead, hm] using Selected.refl s
  | cons h rest =>
    cases hr : s.handle? h with
    | none =>
      rw [openHead_of_free hm hr]
      exact .refl s
    | some r =>
      obtain ⟨hself, hother, hoct, hq, hq', -, hline, -⟩ := openHead_spec hm hr
      refine ⟨fun k x _ hx => ?_, fun k hk => ?_, fun u => ?_, by rw [hline]⟩
      · by_cases hkh : k = h
        · subst hkh
          obtain rfl := Option.some.inj (hr.symm.trans hx)
          exact ⟨_, hself, rfl, rfl, fun _ _ _ _ => by rw [hoct]⟩
        · exact ⟨x, (hother k hkh).trans hx, rfl, rfl, fun _ _ _ _ => by rw [hoct]⟩
      · refine (hother k ?_).trans hk
        rintro rfl
        rw [hr] at hk
        cases hk
      · by_cases hu : u = q
        · rw [hu, hq]
        · rw [hq' u hu]

theorem selected_resumeTop (h : Nat) (rest : List Nat) : Selected s (s.resumeTop h rest) := by
  cases hr : s.handle? h with
  | none =>
    rw [resumeTop_of_free hr]
    exact .refl s
  | some r =>
    obtain ⟨hself, hother, hoct, hq, -, hline, -⟩ := resumeTop_spec (rest := rest) hr
    refine ⟨fun k x _ hx => ?_, fun k hk => ?_, fun u => by rw [queue_of_queues hq], by rw [hline]⟩
    · by_cases hkh : k = h
      · subst hkh
        obtain rfl := Option.some.inj (hr.symm.trans hx)
        exact ⟨_, hself, rfl, rfl, fun _ _ _ _ => by rw [hoct]⟩
      · exact ⟨x, (hother k hkh).trans hx, rfl, rfl, fun _ _ _ _ => by rw [hoct]⟩
    · refine (hother k ?_).trans hk
      rintro rfl
      rw [hr] at hk
      cases hk

theorem trunkIdle_line (s : State) : s.trunkIdle.line =
    { s.line with sent := if s.line.sent.getLast? = some .idle then s.line.sent else s.line.sent ++ [.idle] } := by
  unfold trunkIdle
  split
  · rfl
  · rfl

theorem selected_select : Selected s s.select := by
  obtain ⟨q, h, rest, -, -, -, he⟩ | ⟨top, below, -, he⟩ | ⟨-, -, he⟩ := select_cases s
  · exact he ▸ selected_openHead q
  · exact he ▸ selected_resumeTop top below
  · have hframe : ChangesOnly [.tx, .line] s s.goIdle :=
      (by simp [ChangesOnly] : ChangesOnly [.tx, .line] s (s.withTx _)).trans (lawful_trunkIdle.frame.mono (by decide))
    have hbuf : s.goIdle.buf = s.buf := hframe.buf (by decide)
    rw [he]
    refine ⟨.of_buf hbuf, fun k hk => (handle?_of_buf hbuf k).trans hk,
      fun u => by rw [queue_of_queues (hframe.queues (by decide))], ?_⟩
    rw [goIdle, trunkIdle_line]
    rfl

/-- With a frame in the T0 queue a selection takes its head, or resumes a suspended frame, or leaves the queue. -/
theorem select_of_t0 {h : Nat} {rest : List Nat} (hm : (s.queue .t0).members = h :: rest) :
    s.select = s.openHead .t0 ∧ (∀ top below, s.tx.stack = top :: below → Tier.t0.moreUrgent (s.tierOf top) = true) ∨
      ∃ top below, s.tx.stack = top :: below ∧ s.select = s.resumeTop top below := by
  obtain ⟨q, h', rest', -, hmore, htop, he⟩ | ⟨top, below, hst, he⟩ | ⟨hempty, -, -⟩ := select_cases s
  · have hq : q = .t0 := by
      by_contra hne
      have hmost : Tier.t0.moreUrgent q = true := by
        cases q with
        | t0 => exact absurd rfl hne
        | t1 => rfl
        | t2 => rfl
        | t3 => rfl
      have := hmore .t0 hmost
      rw [hm] at this
      cases this
    subst hq
    exact .inl ⟨he, htop⟩
  · exact .inr ⟨top, below, hst, he⟩
  · rw [hempty .t0] at hm
    cases hm

theorem select_queued {k : Nat} (hk : k ∈ (s.queue .t0).members) : s.select.Queued k := by
  obtain ⟨h, rest, hm⟩ := List.exists_cons_of_ne_nil (List.ne_nil_of_mem hk)
  obtain ⟨he, -⟩ | ⟨top, below, -, he⟩ := select_of_t0 hm
  · rw [he]
    cases hr : s.handle? h with
    | none =>
      rw [openHead_of_free hm hr]
      exact .inl hk
    | some r =>
      obtain ⟨-, -, -, hq, -, htx, -⟩ := openHead_spec hm hr
      rw [hm] at hk
      rcases List.mem_cons.1 hk with rfl | hk
      · exact .inr ⟨by rw [htx], by rw [htx]; exact nofun⟩
      · exact .inl (by rw [hq]; exact hk)
  · rw [he]
    cases hr : s.handle? top with
    | none =>
      rw [resumeTop_of_free hr]
      exact .inl hk
    | some r =>
      obtain ⟨-, -, -, hq, -⟩ := resumeTop_spec (rest := below) hr
      exact .inl (by rw [queue_of_queues hq]; exact hk)

/-! ## A frame built by the part joins the T0 queue -/

/-- What the storing and the joining of a frame being built do (R151, R178). -/
structure Joined (s t : State) (h : Nat) (l : List Byte) : Prop where
  queued : t.Queued h
  body : t.bodyOf h = l
  fits : ∃ r, t.handle? h = some r ∧ Fits r
  keepsQueued : ∀ k, s.Queued k → t.Queued k
  carries : Carries [h] s t
  free : ∀ k, s.handle? k = none → t.handle? k = none
  stores : StoresOk t
  limits : KeepsLimits s t
  line : t.line = { s.line with sent := t.line.sent }
  frame : ChangesOnly [.buf, .queues, .tx, .line] s t
  waits : s.tx.mode ≠ .idle → (t.queue .t0).members = (s.queue .t0).members ++ [h] ∧
    (∀ u, u ≠ .t0 → (t.queue u).members = (s.queue u).members) ∧ KeepsHandles [h] s t ∧ t.tx = s.tx ∧
    t.line = s.line ∧ ∀ r, s.handle? h = some r →
      t.handle? h = some { r with bodyLength := r.bodyLength + l.length, holder := .tierQueue .t0 }
  goes : s.tx.mode = .idle → (s.queue .t0).members = [] → s.tx.stack = [] →
    t.tx.active = some h ∧ (t.queue .t0).members = [] ∧ t.tx.mode ≠ .idle

/-- The storing of octets reaches the frame's own cells alone. -/
theorem carries_storeOctets (hs : StoresOk s) {h : Nat} {r : Handle} {l : List Byte} (hr : s.handle? h = some r)
    (hf : r.bodyLength + l.length ≤ 64 * r.chain.length) : Carries [h] s (s.storeOctets h l) := by
  induction l generalizing s r with
  | nil => exact .refl [h] s
  | cons b l ih =>
    simp only [List.length_cons] at hf
    obtain ⟨hself, hother, -, hoct⟩ := storeOctet_spec s b hr
    have hstep : Carries [h] s (s.storeOctet h b) := by
      intro k q hk hq
      have hkh : k ≠ h := fun e => hk (List.mem_singleton.2 e)
      refine ⟨q, (hother k hkh).trans hq, rfl, rfl, fun x hx i hi => hoct _ fun he => ?_⟩
      have hcell : r.bodyLength / 64 < r.chain.length := by omega
      have hx' : x = r.chain.getD (r.bodyLength / 64) 0 := by
        unfold cellAddress Config.cellSize at he
        omega
      rw [List.getD_eq_getElem _ _ hcell] at hx'
      exact chains_disjoint hs hr hq hkh _ (List.getElem_mem hcell) (hx' ▸ hx)
    exact hstep.trans (ih (storesOk_storeOctet hs h b).1 hself (by simp only; omega))

/-- What a joining does, apart from the selection it may cause. -/
theorem joinQueue_eq (q : Tier) (h : Nat) : s.joinQueue q h =
    if s.tx.mode = .idle then ((s.setMembers q ((s.queue q).members ++ [h])).setHolder h (.tierQueue q)).select
    else (s.setMembers q ((s.queue q).members ++ [h])).setHolder h (.tierQueue q) := by
  simp only [joinQueue, setHolder_tx, setMembers_tx]

theorem joined_joinBuilt (hs : StoresOk s) {h : Nat} {l : List Byte} (hb : s.Building h l.length) :
    Joined s ((s.storeOctets h l).joinQueue .t0 h) h l := by
  obtain ⟨r, hr, -, hlen, hchain⟩ := hb
  have hfit : r.bodyLength + l.length ≤ 64 * r.chain.length := by
    have := cellsFor_mul l.length
    rw [hchain]
    omega
  obtain ⟨hs1, -, -, hr1, hbody1, hother1, -⟩ := storeOctets_body l hs hr hfit
  have hcar1 := carries_storeOctets hs hr hfit
  have hframe1 : ChangesOnly [.buf] s (s.storeOctets h l) := (lawful_storeOctets h l).frame
  have hempty : s.bodyOf h = [] := by rw [bodyOf_eq hr, hlen]; rfl
  rw [hempty, List.nil_append] at hbody1
  have hq1 : ∀ u, (s.storeOctets h l).queue u = s.queue u := queue_of_queues (hframe1.queues (by decide))
  have htx1 : (s.storeOctets h l).tx = s.tx := hframe1.tx (by decide)
  have hline1 : (s.storeOctets h l).line = s.line := hframe1.line (by decide)
  rw [joinQueue_eq, htx1]
  generalize hu : s.storeOctets h l = u at *
  have hstores : StoresOk (u.joinQueue .t0 h) := (lawful_joinQueue (s := u) .t0 h).stores hs1
  have hframe : ChangesOnly [.buf, .queues, .tx, .line] s (u.joinQueue .t0 h) :=
    (hframe1.mono (by decide)).trans (lawful_joinQueue .t0 h).frame
  rw [joinQueue_eq, htx1] at hstores hframe
  generalize hw : (u.setMembers .t0 ((u.queue .t0).members ++ [h])).setHolder h (.tierQueue .t0) = w at *
  have hwq : w.queue .t0 = { s.queue .t0 with members := (s.queue .t0).members ++ [h] } := by
    rw [← hw, queue_of_queues (setHolder_queues ..), setMembers_queue_self, hq1]
  have hwq' : ∀ x, x ≠ .t0 → w.queue x = s.queue x := fun x hx => by
    rw [← hw, queue_of_queues (setHolder_queues ..), setMembers_queue_other _ _ hx, hq1]
  have hwtx : w.tx = s.tx := by rw [← hw, setHolder_tx, setMembers_tx, htx1]
  have hwline : w.line = s.line := by rw [← hw, setHolder_line, setMembers_line, hline1]
  have hwcar : Carries [] u w := by
    rw [← hw]
    exact (Carries.of_buf (setMembers_buf ..)).trans (carries_setHolder h _)
  have hwh : w.handle? h = some { r with bodyLength := r.bodyLength + l.length, holder := .tierQueue .t0 } := by
    rw [← hw]
    exact modHandle_handle?_self (u.setMembers .t0 _) (fun r => { r with holder := .tierQueue .t0 }) hr1
  have hwother : ∀ k, k ≠ h → w.handle? k = s.handle? k := fun k hk => by
    rw [← hw]
    exact (modHandle_handle?_other _ _ hk).trans (hother1 k hk)
  have hwfree : ∀ k, s.handle? k = none → w.handle? k = none := fun k hk => by
    rw [hwother k (by rintro rfl; rw [hr] at hk; cases hk), hk]
  have hfits : Fits { r with bodyLength := r.bodyLength + l.length, holder := Holder.tierQueue .t0 } := hfit
  have hwbody : w.bodyOf h = l := (hwcar.body (g := []) nofun hr1 hfit).trans hbody1
  have hwlim : KeepsLimits s w := fun x => by
    by_cases hx : x = .t0
    · rw [hx, hwq]
    · rw [hwq' x hx]
  have hmem : h ∈ (w.queue .t0).members := by rw [hwq]; simp
  by_cases hmode : s.tx.mode = .idle
  · rw [if_pos hmode] at hstores hframe ⊢
    obtain ⟨hcar, hfree, hlim, hline⟩ := selected_select (s := w)
    refine ⟨select_queued hmem, (hcar.body nofun hwh hfits).trans hwbody, hcar.fits nofun hwh hfits, fun k hk => ?_,
      (hcar1.trans (hwcar.mono nofun)).trans (hcar.mono nofun), fun k hk => hfree k (hwfree k hk), hstores,
      fun x => (hlim x).trans (hwlim x), by rw [hwline] at hline; exact hline, hframe, fun hne => absurd hmode hne,
      fun _ hnil hst => ?_⟩
    · obtain hk | ⟨-, hne⟩ := hk
      · refine select_queued ?_
        rw [hwq]
        exact List.mem_append_left _ hk
      · exact absurd hmode hne
    · have hone : (w.queue .t0).members = h :: [] := by rw [hwq, hnil]; rfl
      obtain ⟨he, -⟩ | ⟨top, below, hst', -⟩ := select_of_t0 hone
      · obtain ⟨-, -, -, hq, -, htx, -⟩ := openHead_spec hone hwh
        rw [he, htx, hq]
        exact ⟨rfl, rfl, nofun⟩
      · rw [hwtx, hst] at hst'
        cases hst'
  · rw [if_neg hmode] at hstores hframe ⊢
    refine ⟨.inl hmem, hwbody, ⟨_, hwh, hfits⟩, fun k hk => ?_, hcar1.trans (hwcar.mono nofun), hwfree, hstores, hwlim,
      by rw [hwline], hframe, fun _ => ⟨by rw [hwq], fun x hx => by rw [hwq' x hx], keepsHandles_of_other hwother, hwtx,
      hwline, fun x hx => ?_⟩, fun he => absurd he hmode⟩
    · unfold Queued at hk ⊢
      rw [hwtx, hwq]
      exact hk.imp_left (List.mem_append_left _)
    · obtain rfl := Option.some.inj (hr.symm.trans hx)
      exact hwh

end State
end Sys2Proof.Machine
end

section
/-! PROOFS. The notice queue: raises (O59), and the sends, resends and retries (O60). -/

namespace Sys2Proof.Machine

/-- The first record that a raise replaces takes the notice (R175). -/
theorem coalesce_eq_set {n : Notice} {l : List NoticeRecord} {k : Nat} {r : NoticeRecord} (hk : l[k]? = some r)
    (hr : r.coalesces n = true) (hbefore : ∀ j q, j < k → l[j]? = some q → q.coalesces n = false) :
    coalesce n l = l.set k { r with notice := n } := by
  induction l generalizing k with
  | nil => cases hk
  | cons q l ih =>
    cases k with
    | zero =>
      obtain rfl : q = r := Option.some.inj hk
      simp [coalesce, hr]
    | succ k =>
      have hq : q.coalesces n = false := hbefore 0 q (Nat.succ_pos k) rfl
      simp only [coalesce, hq, List.set_cons_succ]
      exact congrArg (q :: ·) (ih hk fun j x hj hx => hbefore (j + 1) x (Nat.succ_lt_succ hj) hx)

theorem NoticeRecord.coalesces_iff {n : Notice} {r : NoticeRecord} :
    r.coalesces n = true ↔ r.state = .queued ∧ r.notice.sameMatter n = true := by
  simp [NoticeRecord.coalesces, NoticeRecord.isSent_eq_false]

theorem NoticeRecord.coalesces_eq_false {n : Notice} {r : NoticeRecord}
    (h : r.state = .queued → r.notice.sameMatter n = false) : r.coalesces n = false :=
  Bool.eq_false_iff.2 fun hc => by
    obtain ⟨hq, hm⟩ := coalesces_iff.1 hc
    rw [h hq] at hm
    cases hm

namespace State

variable {s t : State}

/-! ## Raises (R175, R185) -/

theorem raiseNotice_coalesces {n : Notice} (h : s.notices.records.any (NoticeRecord.coalesces n) = true) :
    s.raiseNotice n = s.withNotices { s.notices with records := coalesce n s.notices.records } := by
  rw [raiseNotice, if_pos h]

theorem raiseNotice_drops {n : Notice} (h : s.notices.records.any (NoticeRecord.coalesces n) = false)
    (hlen : 16 ≤ s.notices.records.length) : s.raiseNotice n = s.loseNotice := by
  rw [raiseNotice, if_neg (by rw [h]; exact nofun), if_pos (show Config.noticeSize ≤ _ from hlen)]

theorem raiseNotice_appends {n : Notice} (h : s.notices.records.any (NoticeRecord.coalesces n) = false)
    (hlen : s.notices.records.length < 16) : s.raiseNotice n = (s.withNotices { s.notices with
      records := s.notices.records ++ [{ notice := n, state := .queued }] }).noticeAttempt := by
  rw [raiseNotice, if_neg (by rw [h]; exact nofun), if_neg (show ¬ Config.noticeSize ≤ _ from Nat.not_le.2 hlen)]

end State

/-- Settles O59: a record coalesces exactly when it is QUEUED with the notice's kind and subject. -/
theorem raisesCoalesceDropOrAppend : Obligations.RaisesCoalesceDropOrAppend := by
  refine ⟨Notice.sameMatter_iff, fun s n => ⟨fun k r hk hq hm hbefore => ?_, fun hnone => ?_⟩⟩
  · have hr : r.coalesces n = true := NoticeRecord.coalesces_iff.2 ⟨hq, hm⟩
    have hset := coalesce_eq_set hk hr fun j q hj hjq => NoticeRecord.coalesces_eq_false (hbefore j q hj hjq)
    rw [State.raiseNotice_coalesces (List.any_eq_true.2 ⟨r, List.mem_of_getElem? hk, hr⟩), hset, hq]
  · have hany : s.notices.records.any (NoticeRecord.coalesces n) = false :=
      List.any_eq_false.2 fun r hr => by simp [NoticeRecord.coalesces_eq_false (hnone r hr)]
    exact ⟨fun hlen => State.raiseNotice_drops hany hlen, fun hlen => State.raiseNotice_appends hany hlen⟩

namespace State

variable {s t : State}

/-! ## Sends (R178, R180) -/

/-- A claim for a notice frame without room is refused, and the send is pending. -/
theorem sendOldest_refused {n : NoticeRecord} {rest : List NoticeRecord} (hr : s.notices.records = n :: rest)
    (hroom : ¬ (1 ≤ s.freeHandles ∧ 1 ≤ s.freeCells)) (q : Byte) (k : Nat) (l c : Byte) :
    s.sendOldest q k l c = s.withNotices { s.notices with pending := true, timer := .stopped } := by
  have hclaim : s.claimCompound s.part.noticeTag noticeOctets = none :=
    claimCompound_refused (by have : cellsFor noticeOctets = 1 := rfl; omega)
  simp only [sendOldest, hr, hclaim]

/-- A granted claim builds the frame and joins it to the T0 queue. -/
theorem sendOldest_granted {n : NoticeRecord} {rest : List NoticeRecord} (hr : s.notices.records = n :: rest)
    {h : Nat} {u : State} (hc : s.claimCompound s.part.noticeTag noticeOctets = some (h, u)) (q : Byte) (k : Nat)
    (l c : Byte) : s.sendOldest q k l c = ((u.withNotices { s.notices with
        records := { n with state := .sent q k l } :: rest, counter := c, pending := false
        timer := .running 0 }).storeOctets h (s.noticeBody n.notice q k l)).joinQueue .t0 h := by
  simp only [sendOldest, hr, hc]

/-- With room a notice frame is built, and joins the T0 queue. -/
theorem sendOldest_joins (hs : StoresOk s) {n : NoticeRecord} {rest : List NoticeRecord}
    (hr : s.notices.records = n :: rest) (hroom : 1 ≤ s.freeHandles ∧ 1 ≤ s.freeCells) (q : Byte) (k : Nat)
    (l c : Byte) :
    ∃ h u, s.handle? h = none ∧ StoresOk u ∧ Carries [] s u ∧ KeepsHandles [h] s u ∧ ChangesOnly [.buf, .notices] s u ∧
      u.notices = { s.notices with
        records := { n with state := .sent q k l } :: rest, counter := c, pending := false, timer := .running 0 } ∧
      (∃ chain, chain.length = 1 ∧
        u.handle? h = some { Handle.granted .agentBuild s.part.noticeTag .t0 none with chain := chain }) ∧
      Joined u (s.sendOldest q k l c) h (s.noticeFrame n.notice q k l) := by
  obtain ⟨v, cells, hc, hv, hlen, hfree, hh, hother, hoct, -⟩ :=
    claimCompound_granted (n := noticeOctets) hs s.part.noticeTag hroom.1 hroom.2
  have hclaim := (lawful_claimCompound hc).frame
  generalize hu : v.withNotices { s.notices with
    records := { n with state := .sent q k l } :: rest, counter := c, pending := false, timer := .running 0 } = u
  have hbuf : u.buf = v.buf := by rw [← hu]; rfl
  have hhu : u.handle? s.lowestHandle =
      some { Handle.granted .agentBuild s.part.noticeTag .t0 none with chain := cells } :=
    (handle?_of_buf hbuf _).trans hh
  refine ⟨s.lowestHandle, u, hfree, storesOk_of_buf hv hbuf, fun k x _ hx => ?_, fun k hk => ?_, ?_, by rw [← hu]; rfl,
    ⟨cells, hlen, hhu⟩, ?_⟩
  · have hk : k ≠ s.lowestHandle := by
      rintro rfl
      rw [hfree] at hx
      cases hx
    exact ⟨x, (handle?_of_buf hbuf k).trans ((hother k hk).trans hx), rfl, rfl, fun _ _ _ _ => by rw [hbuf, hoct]⟩
  · exact (handle?_of_buf hbuf k).trans (hother k fun e => hk (List.mem_singleton.2 e))
  · rw [← hu]
    exact (hclaim.mono (by decide)).trans (by simp [ChangesOnly])
  · rw [sendOldest_granted hr hc, hu]
    refine joined_joinBuilt (storesOk_of_buf hv hbuf) ⟨_, hhu, rfl, rfl, ?_⟩
    rw [noticeBody_length]
    exact hlen

/-- The send of the oldest record with room (R178, R179). -/
theorem sendsNotice_sendOldest (hs : StoresOk s) {n : NoticeRecord} {rest : List NoticeRecord}
    (hr : s.notices.records = n :: rest) (hroom : 1 ≤ s.freeHandles ∧ 1 ≤ s.freeCells) (q : Byte) (k : Nat)
    (l c : Byte) :
    SendsNotice s (s.sendOldest q k l c) n.notice rest q k l c := by
  obtain ⟨h, u, hfree, hu, hcar, hkeep, hframe, hnotices, ⟨chain, -, hh⟩, hj⟩ := sendOldest_joins hs hr hroom q k l c
  have hpart : (s.sendOldest q k l c).part = s.part :=
    (hj.frame.part (by decide)).trans (hframe.part (by decide))
  have htx : u.tx = s.tx := hframe.tx (by decide)
  have hqueue (x : Tier) : u.queue x = s.queue x := queue_of_queues (hframe.queues (by decide)) x
  refine ⟨(hj.frame.notices (by decide)).trans hnotices, h, ⟨hfree, hj.queued.or_active, hj.body.trans ?_⟩,
    fun hmode => ?_, fun x => (hj.limits x).trans (by rw [hqueue]), ?_, ?_⟩
  · rw [noticeFrame, noticeFrame, hpart]
  · obtain ⟨hmem, -, hk, -, -, hrec⟩ := hj.waits (by rwa [htx])
    exact ⟨by rw [hmem, hqueue], fun x hx => (hk x hx).trans (hkeep x hx), _, hrec _ hh, rfl, rfl, rfl, rfl⟩
  · exact (hcar.trans_new hfree hj.carries).keepsHeld hs
  · split
    case isTrue => exact (hframe.mono (by decide)).trans (hj.frame.mono (by decide))
    case isFalse hmode =>
      obtain ⟨-, -, -, htx', hline, -⟩ := hj.waits (by rwa [htx])
      have hall : ChangesOnly [.buf, .queues, .tx, .line, .notices] s (s.sendOldest q k l c) :=
        (hframe.mono (by decide)).trans (hj.frame.mono (by decide))
      exact ((hall.erase .tx (htx'.trans htx)).erase .line (hline.trans (hframe.line (by decide)))).mono (by decide)

theorem noticesOpen_iff : s.noticesOpen = true ↔ s.line.link = .up ∧ s.part.noticeTag ≠ 0 := by
  simp [noticesOpen]

/-- No record of a queue is SENT exactly when all are QUEUED. -/
theorem none_sent_iff : s.notices.records.any NoticeRecord.isSent = false ↔
    ∀ r ∈ s.notices.records, r.state = .queued := by
  simp only [List.any_eq_false, Bool.not_eq_true, NoticeRecord.isSent_eq_false]

/-- The conditions of a first send (R177). -/
theorem firstSendReady_iff : s.firstSendReady = true ↔ (s.line.link = .up ∧ s.part.noticeTag ≠ 0) ∧
    s.notices.records ≠ [] ∧ (∀ r ∈ s.notices.records, r.state = .queued) ∧ s.notices.pending = false := by
  simp only [firstSendReady, Bool.and_eq_true, Bool.not_eq_true', decide_eq_true_eq, noticesOpen_iff, none_sent_iff]
  tauto

theorem noticeAttempt_of_ready (h : s.firstSendReady = true) :
    s.noticeAttempt = s.sendOldest s.notices.counter 1 (BitVec.ofNat 8 s.notices.lost) (s.notices.counter + 1) := by
  rw [noticeAttempt, if_pos h]
  rfl

theorem noticeAttempt_of_not_ready (h : ¬ s.firstSendReady = true) : s.noticeAttempt = s := by
  rw [noticeAttempt, if_neg h]

section Retry

variable {n : NoticeRecord} {rest : List NoticeRecord}

theorem noticeRetry_of_queued (ho : s.noticesOpen = true) (hp : s.notices.pending = true)
    (hr : s.notices.records = n :: rest) (hn : n.state = .queued) : s.noticeRetry =
      s.sendOldest s.notices.counter 1 (BitVec.ofNat 8 s.notices.lost) (s.notices.counter + 1) := by
  have hs : n.isSent = false := NoticeRecord.isSent_eq_false.2 hn
  simp only [noticeRetry, hp, ho, Bool.and_self, if_true, hr, hs]
  rfl

theorem resend_of_sent {q : Byte} {k : Nat} {l : Byte} (hr : s.notices.records = n :: rest)
    (hn : n.state = .sent q k l) : s.resend = s.sendOldest q (k + 1) l s.notices.counter := by
  obtain ⟨n, x⟩ := n
  obtain rfl : x = .sent q k l := hn
  simp only [resend, hr]

theorem noticeRetry_of_sent {q : Byte} {k : Nat} {l : Byte} (ho : s.noticesOpen = true) (hp : s.notices.pending = true)
    (hr : s.notices.records = n :: rest) (hn : n.state = .sent q k l) :
    s.noticeRetry = s.sendOldest q (k + 1) l s.notices.counter := by
  have hs : n.isSent = true := by simp [NoticeRecord.isSent, hn]
  simp only [noticeRetry, hp, ho, Bool.and_self, if_true, hr, hs]
  exact resend_of_sent hr hn

end Retry

/-- Without a pending claim, sending open and a record there is no retry. -/
theorem noticeRetry_of_not (h : ¬ ((s.line.link = .up ∧ s.part.noticeTag ≠ 0) ∧ s.notices.records ≠ [] ∧
    s.notices.pending = true)) : s.noticeRetry = s := by
  unfold noticeRetry
  split
  case isTrue hc =>
    rw [Bool.and_eq_true, noticesOpen_iff] at hc
    cases hr : s.notices.records with
    | nil => rfl
    | cons n rest => exact absurd ⟨hc.2, by rw [hr]; exact nofun, hc.1⟩ h
  case isFalse => rfl

theorem resendExpiry_of_not_running (h : ∀ e, s.notices.timer ≠ .running e) : s.resendExpiry = s := by
  unfold resendExpiry
  split
  case h_1 ht _ => exact absurd ht (h _)
  case h_2 => rfl

section Expiry

variable {e k : Nat} {n : Notice} {q carried : Byte} {rest : List NoticeRecord}
  (ht : s.notices.timer = .running e) (hr : s.notices.records = { notice := n, state := .sent q k carried } :: rest)
include ht hr

theorem resendExpiry_again (hk : k < 4) : s.resendExpiry = s.sendOldest q (k + 1) carried s.notices.counter := by
  simp only [resendExpiry, ht, hr, if_pos (show k < Config.noticeSends from hk), resend]

theorem resendExpiry_last (hk : 4 ≤ k) : s.resendExpiry = s.dropOldest.loseNotice.noticeAttempt := by
  simp only [resendExpiry, ht, hr, if_neg (show ¬ k < Config.noticeSends from Nat.not_lt.2 hk)]

end Expiry
end State

open State in
/-- Settles O60: each of the three events is a send of the oldest record, with the number of sends and the counts that
its state gives. -/
theorem noticesAreSentAndResent : Obligations.NoticesAreSentAndResent := by
  intro s hs isOpen pends room lost
  have hpends {n : NoticeRecord} {rest : List NoticeRecord} (hr : s.notices.records = n :: rest) (hroom : ¬ room)
      (q : Byte) (k : Nat) (l c : Byte) : pends (s.sendOldest q k l c) := by
    rw [sendOldest_refused hr hroom]
    exact ⟨rfl, by simp [ChangesOnly]⟩
  refine ⟨fun h => noticeAttempt_of_not_ready fun hready => h (firstSendReady_iff.1 hready),
    fun n rest ho hr hq hp => ?_, fun h => ?_, fun n rest ho hp hr => ⟨s.noticeRetry, rfl, fun hroom => ?_,
      fun hroom hq => ?_, fun hroom q k l hn => ?_⟩, fun h => ?_, fun e n q k l rest ht hr =>
      ⟨fun hk => ⟨s.resendExpiry, rfl, ?_⟩, fun hk => ⟨s.dropOldest.loseNotice, ?_⟩⟩⟩
  · have hready : s.firstSendReady = true := firstSendReady_iff.2 ⟨ho, by rw [hr]; exact nofun, hq, hp⟩
    rw [noticeAttempt_of_ready hready]
    exact ⟨fun hroom => sendsNotice_sendOldest hs hr hroom .., fun hroom => hpends hr hroom ..⟩
  · show Host.Outcome.next s.noticeRetry = _
    rw [noticeRetry_of_not h]
  · cases hn : n.state with
    | queued =>
      rw [noticeRetry_of_queued (noticesOpen_iff.2 ho) hp hr hn]
      exact hpends hr hroom ..
    | sent q k l =>
      rw [noticeRetry_of_sent (noticesOpen_iff.2 ho) hp hr hn]
      exact hpends hr hroom ..
  · rw [noticeRetry_of_queued (noticesOpen_iff.2 ho) hp hr hq]
    exact sendsNotice_sendOldest hs hr hroom ..
  · rw [noticeRetry_of_sent (noticesOpen_iff.2 ho) hp hr hn]
    exact sendsNotice_sendOldest hs hr hroom ..
  · show Host.Outcome.next s.resendExpiry = _
    rw [resendExpiry_of_not_running h]
  · rw [resendExpiry_again ht hr hk]
    exact ⟨fun hroom => hpends hr hroom .., fun hroom => sendsNotice_sendOldest hs hr hroom ..⟩
  · refine ⟨?_, ?_, by simp [ChangesOnly]⟩
    · show Host.Outcome.next s.resendExpiry = _
      rw [resendExpiry_last ht hr hk]
    · simp [dropOldest, loseNotice, hr]

end Sys2Proof.Machine
end

section
/-! PROOFS. The trunk line: TRK_LOS outside UP and the alignment (O36), and the 16th IDLE (O38). -/

namespace Sys2Proof.Machine

namespace State

variable {s t : State}

/-! ## The alignment (R115, R116, R117) -/

theorem losAsserted_of_down (h : s.line.link = .down) : s.losAsserted = s.withLine { s.line with los := true } := by
  simp [losAsserted, h]

theorem losAsserted_of_aligning (h : s.line.link = .aligning) :
    s.losAsserted = s.withLine { s.line with los := true, link := .down, idleRun := 0 } := by
  simp [losAsserted, h]

theorem losDeasserted_of_down (h : s.line.link = .down) :
    s.losDeasserted = s.withLine { s.line with los := false, link := .aligning, idleRun := 0 } := by
  simp [losDeasserted, h, alignFrom]

theorem losDeasserted_of_not_down (h : s.line.link ≠ .down) :
    s.losDeasserted = s.withLine { s.line with los := false } := by
  cases hl : s.line.link <;> simp_all [losDeasserted]

theorem trunkSymbol_of_los (h : s.line.los = true) (f : State → State) : s.trunkSymbol f = s := by
  simp [trunkSymbol, h]

theorem trunkIdleSymbol_of_los (h : s.line.los = true) : s.trunkIdleSymbol = s := by simp [trunkIdleSymbol, h]

theorem trunkInvalid_of_los (h : s.line.los = true) : s.trunkInvalid = s := by simp [trunkInvalid, h]

section Aligning

variable (hlos : s.line.los = false) (ha : s.line.link = .aligning)
include hlos ha

theorem trunkSymbol_of_aligning (f : State → State) : s.trunkSymbol f = s.alignFrom := by simp [trunkSymbol, hlos, ha]

theorem trunkInvalid_of_aligning : s.trunkInvalid = s.alignFrom := by simp [trunkInvalid, hlos, ha]

theorem trunkIdleSymbol_of_run (hrun : s.line.idleRun < 15) :
    s.trunkIdleSymbol = s.withLine { s.line with idleRun := s.line.idleRun + 1 } := by
  have : s.line.idleRun + 1 < Config.alignRun := Nat.succ_lt_succ hrun
  simp [trunkIdleSymbol, hlos, ha, this]

theorem trunkIdleSymbol_of_last (hrun : s.line.idleRun = 15) : s.trunkIdleSymbol = s.reachUp := by
  have : ¬ s.line.idleRun + 1 < Config.alignRun := by rw [hrun]; decide
  simp [trunkIdleSymbol, hlos, ha, this]

end Aligning

theorem alignFrom_of_aligning (ha : s.line.link = .aligning) : s.alignFrom.line = { s.line with idleRun := 0 } := by
  rw [alignFrom_line, ← ha]

theorem changesOnly_withLine (v : TrunkLine) : ChangesOnly [.line] s (s.withLine v) := by simp [ChangesOnly]

end State

open State in
/-- Settles O36, by the link state and, in ALIGNING, by whether the symbol is IDLE. -/
theorem trkLosAndAlignment : Obligations.TrkLosAndAlignment := by
  refine ⟨fun s => ⟨fun h => ⟨s.losAsserted, rfl, ?_⟩, fun h => ⟨s.losAsserted, rfl, ?_⟩,
    fun h => ⟨s.losDeasserted, rfl, ?_⟩, fun h => ⟨s.losDeasserted, rfl, ?_⟩, fun h x => ?_⟩,
    fun s x ha hlos => ⟨fun hx => ⟨s.alignFrom, ?_, alignFrom_of_aligning ha, changesOnly_alignFrom⟩,
      fun hx hrun => ⟨s.trunkIdleSymbol, ?_, ?_⟩⟩⟩
  · rw [losAsserted_of_down h]
    exact ⟨rfl, changesOnly_withLine _⟩
  · rw [losAsserted_of_aligning h]
    exact ⟨rfl, changesOnly_withLine _⟩
  · rw [losDeasserted_of_down h]
    exact ⟨rfl, changesOnly_withLine _⟩
  · rw [losDeasserted_of_not_down h]
    exact ⟨rfl, changesOnly_withLine _⟩
  · obtain ⟨-, he⟩ | ⟨-, he⟩ | ⟨-, -, f, he⟩ := exec_trunkArrival_cases s x
    · rw [he, trunkIdleSymbol_of_los h]
    · rw [he, trunkInvalid_of_los h]
    · rw [he, trunkSymbol_of_los h]
  · obtain ⟨hidle, -⟩ | ⟨-, he⟩ | ⟨-, -, f, he⟩ := exec_trunkArrival_cases s x
    · exact absurd hidle hx
    · rw [he, trunkInvalid_of_aligning hlos ha]
    · rw [he, trunkSymbol_of_aligning hlos ha]
  · rw [hx]
    rfl
  · rw [trunkIdleSymbol_of_run hlos ha hrun]
    exact ⟨rfl, changesOnly_withLine _⟩

namespace State

variable {s t : State}

/-! ## The notice queue while the transmitter is not IDLE -/

section Busy

variable (hmode : s.tx.mode ≠ .idle)
include hmode

theorem sendOldest_busy (q : Byte) (k : Nat) (l c : Byte) :
    ChangesOnly [.buf, .queues, .notices] s (s.sendOldest q k l c) := by
  cases hr : s.notices.records with
  | nil =>
    simp only [sendOldest, hr]
    exact .refl ..
  | cons n rest =>
    cases hc : s.claimCompound s.part.noticeTag noticeOctets with
    | none =>
      simp only [sendOldest, hr, hc]
      simp [ChangesOnly]
    | some x =>
      obtain ⟨h, u⟩ := x
      have hclaim := (lawful_claimCompound hc).frame
      have htx : u.tx = s.tx := hclaim.tx (by decide)
      rw [sendOldest_granted hr hc, joinQueue_eq, if_neg (by simpa [htx] using hmode)]
      exact (hclaim.mono (by decide)).trans (by simp [ChangesOnly])

theorem noticeAttempt_busy : ChangesOnly [.buf, .queues, .notices] s s.noticeAttempt := by
  unfold noticeAttempt
  split
  · exact sendOldest_busy hmode ..
  · exact .refl ..

theorem resend_busy : ChangesOnly [.buf, .queues, .notices] s s.resend := by
  unfold resend
  split
  · exact sendOldest_busy hmode ..
  · exact .refl ..

theorem noticeRetry_busy : ChangesOnly [.buf, .queues, .notices] s s.noticeRetry := by
  unfold noticeRetry
  split
  · split
    · exact .refl ..
    · split
      · exact resend_busy hmode
      · exact sendOldest_busy hmode ..
  · exact .refl ..

theorem raiseNotice_busy (n : Notice) : ChangesOnly [.buf, .queues, .notices] s (s.raiseNotice n) := by
  unfold raiseNotice
  split
  · simp [ChangesOnly]
  · split
    · simp [ChangesOnly, loseNotice]
    · have hw : ChangesOnly [.buf, .queues, .notices] s (s.withNotices
          { s.notices with records := s.notices.records ++ [{ notice := n, state := .queued }] }) := by
        simp [ChangesOnly]
      exact hw.trans (noticeAttempt_busy hmode)

theorem noticeResume_busy : ChangesOnly [.buf, .queues, .notices] s s.noticeResume := by
  unfold noticeResume
  split
  · exact noticeRetry_busy hmode
  · exact noticeAttempt_busy hmode

end Busy

/-! ## A raise and the send it may make -/

theorem changesOnly_withNotices (v : NoticeQueue) : ChangesOnly [.notices] s (s.withNotices v) := by simp [ChangesOnly]

/-- A raise sets the queue, and attempts a send only where it appends (R175, R177). -/
theorem raiseNotice_cases (n : Notice) : s.raiseNotice n = s.withNotices (s.notices.raised n) ∨
    s.raiseNotice n = (s.withNotices (s.notices.raised n)).noticeAttempt := by
  by_cases hany : s.notices.records.any (NoticeRecord.coalesces n) = true
  · rw [raiseNotice_coalesces hany, NoticeQueue.raised, if_pos hany]
    exact .inl rfl
  · have hnone := Bool.eq_false_iff.2 hany
    rw [NoticeQueue.raised, if_neg hany]
    by_cases hlen : 16 ≤ s.notices.records.length
    · rw [raiseNotice_drops hnone hlen, if_pos hlen]
      exact .inl rfl
    · rw [raiseNotice_appends hnone (Nat.not_le.1 hlen), if_neg hlen]
      exact .inr rfl

/-- A raise leaves the timer, a pending claim and the SENT records. -/
theorem raised_keeps (q : NoticeQueue) (n : Notice) : (q.raised n).timer = q.timer ∧ (q.raised n).pending = q.pending ∧
    (q.raised n).records.any NoticeRecord.isSent = q.records.any NoticeRecord.isSent := by
  unfold NoticeQueue.raised
  split
  · exact ⟨rfl, rfl, coalesce_any_isSent _⟩
  · split
    · exact ⟨rfl, rfl, rfl⟩
    · exact ⟨rfl, rfl, by simp [NoticeRecord.isSent]⟩

/-- A raise that no send can follow sets the queue alone. -/
theorem raiseNotice_of_quiet (n : Notice) (h : (s.withNotices (s.notices.raised n)).firstSendReady = false) :
    s.raiseNotice n = s.withNotices (s.notices.raised n) := by
  obtain he | he := raiseNotice_cases (s := s) n
  · exact he
  · rw [he, noticeAttempt_of_not_ready (by rw [h]; exact nofun)]

theorem noticesOpen_withNotices (v : NoticeQueue) : (s.withNotices v).noticesOpen = s.noticesOpen := rfl

theorem firstSendReady_of_closed (h : s.noticesOpen = false) : s.firstSendReady = false := by
  simp [firstSendReady, h]

theorem firstSendReady_of_pending (h : s.notices.pending = true) : s.firstSendReady = false := by
  simp [firstSendReady, h]

theorem firstSendReady_of_sent (h : s.notices.records.any NoticeRecord.isSent = true) : s.firstSendReady = false := by
  simp [firstSendReady, h]

/-! ## The resend timer and the resumption (R184) -/

theorem syncTimer_of_stopped (h : s.notices.timer = .stopped) : s.syncTimer = s := by simp [syncTimer, h]

theorem syncTimer_of_running {e : Nat} (h : s.notices.timer = .running e) (ho : s.noticesOpen = true) :
    s.syncTimer = s := by simp [syncTimer, h, ho]

theorem syncTimer_of_held {e : Nat} (h : s.notices.timer = .held e) (ho : s.noticesOpen = true) :
    s.syncTimer = s.withNotices { s.notices with timer := .running e } := by simp [syncTimer, h, ho]

theorem syncTimer_of_held_closed {e : Nat} (h : s.notices.timer = .held e) (ho : s.noticesOpen = false) :
    s.syncTimer = s := by simp [syncTimer, h, ho]

theorem syncTimer_of_running_closed {e : Nat} (h : s.notices.timer = .running e) (ho : s.noticesOpen = false) :
    s.syncTimer = s.withNotices { s.notices with timer := .held e } := by simp [syncTimer, h, ho]

theorem noticeResume_of_pending (h : s.notices.pending = true) : s.noticeResume = s.noticeRetry := by
  rw [noticeResume, if_pos h]

theorem noticeResume_of_not_pending (h : s.notices.pending = false) : s.noticeResume = s.noticeAttempt := by
  rw [noticeResume, if_neg (by rw [h]; exact nofun)]

/-- A retry right after a refused claim is refused again. -/
theorem noticeRetry_of_refused {n : NoticeRecord} {rest : List NoticeRecord} (hr : s.notices.records = n :: rest)
    (hroom : ¬ (1 ≤ s.freeHandles ∧ 1 ≤ s.freeCells)) (hp : s.notices.pending = true)
    (ht : s.notices.timer = .stopped) : s.noticeRetry = s := by
  have hself : s.withNotices { s.notices with pending := true, timer := .stopped } = s := by
    have : ({ s.notices with pending := true, timer := .stopped } : NoticeQueue) = s.notices := by rw [← hp, ← ht]
    rw [this, withNotices_self]
  by_cases ho : s.noticesOpen = true
  · cases hn : n.state with
    | queued => rw [noticeRetry_of_queued ho hp hr hn, sendOldest_refused hr hroom, hself]
    | sent q k l => rw [noticeRetry_of_sent ho hp hr hn, sendOldest_refused hr hroom, hself]
  · simp [noticeRetry, ho]

theorem noticeResume_of_closed (h : s.noticesOpen = false) : s.noticeResume = s := by
  cases hp : s.notices.pending with
  | false =>
    rw [noticeResume_of_not_pending hp, noticeAttempt_of_not_ready (by rw [firstSendReady_of_closed h]; exact nofun)]
  | true => rw [noticeResume_of_pending hp, noticeRetry_of_not fun hc => by simp [noticesOpen_iff.2 hc.1] at h]

/-- A granted send leaves the resend timer running from zero (R180). -/
theorem sendOldest_notices_granted {n : NoticeRecord} {rest : List NoticeRecord} (hr : s.notices.records = n :: rest)
    (hroom : 1 ≤ s.freeHandles ∧ 1 ≤ s.freeCells) (q : Byte) (k : Nat) (l c : Byte) :
    (s.sendOldest q k l c).notices = { s.notices with
      records := { n with state := .sent q k l } :: rest, counter := c, pending := false, timer := .running 0 } := by
  rw [sendOldest_granted hr (if_pos hroom)]
  simp

/-- An attempt made twice is the attempt: what it leaves is a running timer, or a claim that is refused again. -/
theorem noticeAttempt_resumes (ho : s.noticesOpen = true) (ht : s.notices.timer = .stopped)
    (hp : s.notices.pending = false) :
    s.noticeAttempt.syncTimer.noticeResume = s.noticeAttempt.noticeAttempt := by
  by_cases hready : s.firstSendReady = true
  · have hquiet := noticeAttempt_of_not_ready (s := s.noticeAttempt) (by rw [noticeAttempt_quiet]; exact nofun)
    rw [hquiet]
    obtain ⟨-, hne, -⟩ := firstSendReady_iff.1 hready
    obtain ⟨n, rest, hr⟩ := List.exists_cons_of_ne_nil hne
    rw [noticeAttempt_of_ready hready] at hquiet ⊢
    by_cases hroom : 1 ≤ s.freeHandles ∧ 1 ≤ s.freeCells
    · have hn := sendOldest_notices_granted hr hroom s.notices.counter 1 (BitVec.ofNat 8 s.notices.lost)
        (s.notices.counter + 1)
      have hopen := (noticeMove_noticeAttempt (s := s)).opened
      rw [noticeAttempt_of_ready hready] at hopen
      rw [syncTimer_of_running (by rw [hn]) (hopen.trans ho), noticeResume_of_not_pending (by rw [hn]), hquiet]
    · rw [sendOldest_refused hr hroom, syncTimer_of_stopped rfl, noticeResume_of_pending rfl,
        noticeRetry_of_refused (s := s.withNotices { s.notices with pending := true, timer := .stopped }) hr hroom rfl
          rfl]
  · rw [noticeAttempt_of_not_ready hready, syncTimer_of_stopped ht, noticeResume_of_not_pending hp]

/-! ## The link comes UP -/

/-- The link and the transmitter as the 16th IDLE sets them (R117, R122). -/
def broughtUp (s : State) : State :=
  (s.withLine { s.line with link := .up, idleRun := 0, invalidRun := 0, beenUp := true }).withTx
    { mode := .clearing, active := none, fragment := none, stack := [] }

/-- The state after the TRUNK_RESTORED notice of the 16th IDLE, where there is one (R124). -/
def restored (s : State) : State :=
  if s.line.beenUp then s.broughtUp.raiseNotice (.trunkRestored s.line.returned s.line.discarded s.line.contexts)
  else s.broughtUp

theorem reachUp_eq (h : s.tx.active = none ∧ s.tx.fragment = none ∧ s.tx.stack = []) :
    s.reachUp = s.restored.syncTimer.noticeResume := by
  obtain ⟨ha, hf, hk⟩ := h
  have htx : ({ s.tx with mode := .clearing } : Transmitter) =
      { mode := .clearing, active := none, fragment := none, stack := [] } := by simp only [ha, hf, hk]
  rw [reachUp, htx]
  rfl

theorem restored_busy : ChangesOnly [.buf, .queues, .notices] s.broughtUp s.restored := by
  unfold restored
  split
  · exact raiseNotice_busy (by exact nofun) _
  · exact .refl ..

/-- The notice queue after a raise of TRUNK_RESTORED, where there is one, that sends nothing. -/
def restoredNotices (s : State) : NoticeQueue :=
  if s.line.beenUp then s.notices.raised (.trunkRestored s.line.returned s.line.discarded s.line.contexts)
  else s.notices

theorem restoredNotices_keeps : s.restoredNotices.timer = s.notices.timer ∧
    s.restoredNotices.pending = s.notices.pending ∧
    s.restoredNotices.records.any NoticeRecord.isSent = s.notices.records.any NoticeRecord.isSent := by
  unfold restoredNotices
  split
  · exact raised_keeps ..
  · exact ⟨rfl, rfl, rfl⟩

theorem restored_cases : s.restored = s.broughtUp.withNotices s.restoredNotices ∨
    s.restored = (s.broughtUp.withNotices s.restoredNotices).noticeAttempt := by
  unfold restored restoredNotices
  split
  · exact raiseNotice_cases (s := s.broughtUp) _
  · exact .inl (withNotices_self ..).symm

/-- With no send possible, the notice queue is that of R175. -/
theorem restored_of_quiet (h : (s.broughtUp.withNotices s.restoredNotices).firstSendReady = false) :
    s.restored = s.broughtUp.withNotices s.restoredNotices := by
  obtain he | he := restored_cases (s := s)
  · exact he
  · rw [he, noticeAttempt_of_not_ready (by rw [h]; exact nofun)]

theorem trunkIdleReceived_of_last (hs : LinkOk s) (ha : s.line.link = .aligning) (hrun : s.line.idleRun = 15) :
    exec .trunkIdleReceived s = .next s.restored.syncTimer.noticeResume := by
  obtain ⟨hlos, -, -, -, -, -, hup, hoff, -⟩ := hs
  have hlos' : s.line.los = false := by
    cases hl : s.line.los with
    | false => rfl
    | true => exact absurd ((hlos hl).symm.trans ha) nofun
  have hmode : s.tx.mode = .offline := by
    by_contra hne
    exact absurd ((hup.2 hne).symm.trans ha) nofun
  rw [← reachUp_eq (hoff (by rw [hmode]; exact nofun)), ← trunkIdleSymbol_of_last hlos' ha hrun]
  rfl

end State

open State in
/-- Settles O38: with the notice tag 0x0000 no send is made; otherwise by the resend timer and the pending claim, which
decide whether the raise of TRUNK_RESTORED may send and what the resumption does. -/
theorem sixteenIdlesBringTheLinkUp : Obligations.SixteenIdlesBringTheLinkUp := by
  intro s hs hn ha hrun
  have hclosed : s.noticesOpen = false := Bool.eq_false_iff.2 fun h => by simp [noticesOpen_iff, ha] at h
  have hframe : ChangesOnly [.line, .tx] s s.broughtUp := by simp [ChangesOnly, broughtUp]
  have hmode : s.restored.tx.mode ≠ .idle := by
    rw [restored_busy.tx (by decide)]
    exact nofun
  have hresume : ChangesOnly [.buf, .queues, .notices] s.broughtUp s.restored.syncTimer.noticeResume :=
    (restored_busy.trans (lawful_syncTimer.frame.mono (by decide))).trans
      (noticeResume_busy (by rwa [syncTimer_tx]))
  obtain ⟨ht, hp, hsent⟩ := restoredNotices_keeps (s := s)
  have htimer := hn.2.2.2.2.1
  refine ⟨s.broughtUp, s.restored, _, trunkIdleReceived_of_last hs ha hrun, rfl, rfl, hframe, rfl,
    hresume.line (by decide), hresume.tx (by decide), (hframe.mono (by decide)).trans (hresume.mono (by decide)),
    fun htag => ?_, fun htag => ?_⟩
  · have hup : (s.broughtUp.withNotices s.restoredNotices).noticesOpen = false :=
      Bool.eq_false_iff.2 fun h => (noticesOpen_iff.1 h).2 htag
    have hsync : s.restored.syncTimer = s.restored := by
      rw [restored_of_quiet (firstSendReady_of_closed hup)]
      cases hs : s.notices.timer with
      | stopped => exact syncTimer_of_stopped (ht.trans hs)
      | running e => simp [hs, hclosed] at htimer
      | held e => exact syncTimer_of_held_closed (ht.trans hs) hup
    rw [hsync, restored_of_quiet (firstSendReady_of_closed hup), noticeResume_of_closed hup]
    exact ⟨by simp [ChangesOnly], rfl⟩
  · have hopen (v : State) (hv : ChangesOnly [.buf, .queues, .notices] s.broughtUp v) : v.noticesOpen = true :=
      noticesOpen_iff.2 ⟨by rw [hv.line (by decide)]; rfl, by rw [hv.part (by decide)]; exact htag⟩
    refine ⟨fun hpend => ?_, fun hpend e hheld => ?_, fun hpend hstop => ?_⟩
    · have hstop : s.notices.timer = .stopped := by
        cases hs : s.notices.timer <;> simp [hs, hpend] at htimer ⊢
      rw [restored_of_quiet (firstSendReady_of_pending (hp.trans hpend)), syncTimer_of_stopped (ht.trans hstop),
        noticeResume_of_pending (hp.trans hpend)]
      rfl
    · have hhead : s.notices.records.any NoticeRecord.isSent = true := by
        rw [hheld] at htimer
        obtain ⟨⟨n, q, k, l, rest, he, -⟩, -⟩ := htimer
        rw [he]
        rfl
      have hquiet := restored_of_quiet (firstSendReady_of_sent (s := s.broughtUp.withNotices s.restoredNotices)
        (hsent.trans hhead))
      rw [syncTimer_of_held (by rw [hquiet]; exact ht.trans hheld) (hopen _ restored_busy),
        noticeResume_of_not_pending (by rw [hquiet]; exact hp.trans hpend),
        noticeAttempt_of_not_ready (by
          rw [hquiet, firstSendReady_of_sent (hsent.trans hhead)]
          exact nofun)]
    · have hw := hopen (s.broughtUp.withNotices s.restoredNotices) (by simp [ChangesOnly])
      obtain he | he := restored_cases (s := s)
      · rw [he, syncTimer_of_stopped (ht.trans hstop), noticeResume_of_not_pending (hp.trans hpend)]
      · rw [he]
        exact noticeAttempt_resumes hw (ht.trans hstop) (hp.trans hpend)

end Sys2Proof.Machine
end

section
/-! PROOFS. Contexts that are abandoned or given up, frames lost together, and what the departure of the link from UP
leaves (O35). -/

namespace Sys2Proof.Machine

namespace State

variable {s t u : State}

/-! ## The frame of a context (R127, R189) -/

/-- The frame of every OPEN context is held against no stream. -/
def ContextsUnstreamed (s : State) : Prop :=
  ∀ q a h, s.context q = .opened a → a.handle = some h → s.streamOf h = none

/-- Every OPEN context that has a handle holds it, against no stream. -/
def ContextsHold (s : State) : Prop :=
  ∀ q a h, s.context q = .opened a → a.handle = some h →
    ∃ r, s.handle? h = some r ∧ r.holder = .reassembly q ∧ r.stream = none

theorem ContextsHold.unstreamed (hs : s.ContextsHold) : s.ContextsUnstreamed := fun q a h hq ha => by
  obtain ⟨r, hr, -, hn⟩ := hs q a h hq ha
  rw [streamOf, hr]
  exact hn

theorem contextsUnstreamed_of_receiverOk (hs : ReceiverOk s) : s.ContextsUnstreamed := fun q a h hq ha => by
  cases hr : s.handle? h with
  | none => rw [streamOf, hr]; rfl
  | some r =>
    obtain ⟨-, hn, -⟩ := (hs.2.2 q a hq).2.2 h r ha hr
    rw [streamOf, hr]
    exact hn

theorem mem_members_of_context {q : Tier} {a : Assembly} {h : Nat} (hq : s.context q = .opened a)
    (ha : a.handle = some h) : (h, Holder.reassembly q) ∈ s.members := by
  refine List.mem_append_left _ (List.mem_append_right _ (List.mem_flatMap.2 ⟨q, by cases q <;> decide, ?_⟩))
  simp [hq, ha]

theorem mem_members_of_onTrunk {h : Nat} (hh : h ∈ s.onTrunk) :
    (h, Holder.trunkActive) ∈ s.members ∨ (h, Holder.trunkSuspended) ∈ s.members := by
  rcases List.mem_append.1 hh with hh | hh
  · exact .inl (by simp [members, Option.mem_toList.1 hh])
  · exact .inr (by simp [members, hh])

theorem contextsHold (hr : ReceiverOk s) (hs : HoldersOk s) : s.ContextsHold := fun q a h hq ha => by
  obtain ⟨r, hh, hk⟩ := hs.2.1 _ (mem_members_of_context hq ha)
  obtain ⟨-, hn, -⟩ := (hr.2.2 q a hq).2.2 h r ha hh
  exact ⟨r, hh, hk, hn⟩

theorem streamOf_of_buf (h : t.buf = s.buf) (k : Nat) : t.streamOf k = s.streamOf k := by
  rw [streamOf, streamOf, handle?_of_buf h]

theorem discardAssembly_of_none {a : Assembly} (ha : a.handle = none) (c : Cause) :
    s.discardAssembly c a = s.countDiscard c none := by simp [discardAssembly, ha]

theorem discardAssembly_of_some {a : Assembly} {h : Nat} (ha : a.handle = some h) (c : Cause) :
    s.discardAssembly c a = s.discard c h := by simp [discardAssembly, ha]

theorem counted_discardAssembly {a : Assembly} (hn : ∀ h, a.handle = some h → s.streamOf h = none) (c : Cause) :
    Counted s (s.discardAssembly c a) c none := by
  cases ha : a.handle with
  | none => exact discardAssembly_of_none (s := s) ha c ▸ counted_countDiscard c none
  | some h => exact discardAssembly_of_some (s := s) ha c ▸ hn h ha ▸ (discarded_discard c h).2.2.2.1

theorem contextHandles_cons (q : Tier) (l : List Tier) :
    s.contextHandles (q :: l) = s.contextHandles [q] ++ s.contextHandles l := by simp [contextHandles]

theorem contextHandles_opened {q : Tier} {a : Assembly} (hq : s.context q = .opened a) :
    s.contextHandles [q] = a.handle.toList := by simp [contextHandles, hq]

theorem contextHandles_of_not_opened {q : Tier} (hq : (s.context q).isOpen = false) : s.contextHandles [q] = [] := by
  cases hc : s.context q <;> simp_all [contextHandles, Context.isOpen]

theorem mem_contextHandles {l : List Tier} {h : Nat} :
    h ∈ s.contextHandles l ↔ ∃ q ∈ l, ∃ a, s.context q = .opened a ∧ a.handle = some h := by
  unfold contextHandles
  rw [List.mem_flatMap]
  refine exists_congr fun q => and_congr_right fun _ => ?_
  cases hc : s.context q <;> simp

theorem contextHandles_congr {l : List Tier} (h : ∀ q ∈ l, t.context q = s.context q) :
    t.contextHandles l = s.contextHandles l := List.flatMap_congr fun q hq => by rw [h q hq]

/-- The frame of an OPEN context given up (R127). -/
theorem givesUp_of_discardAssembly {q : Tier} {a : Assembly} {c : Cause} (hq : s.context q = .opened a)
    (hn : s.ContextsUnstreamed) (hb : t.buf = s.buf) (ht : t.tallies = s.tallies)
    (he : t.releaseEvents = s.releaseEvents) {x : FragIx}
    (hcq : u.context q = .discarding
      { tag := a.tag, declared := a.declared, expected := x, mgmt := a.mgmt, cause := c })
    (hc : ∀ z, z ≠ q → u.context z = s.context z) (hub : u.buf = (t.discardAssembly c a).buf)
    (hut : u.tallies = (t.discardAssembly c a).tallies)
    (hue : u.releaseEvents = (t.discardAssembly c a).releaseEvents) : GivesUp q c x s u := by
  refine ⟨a, hq, hcq, hc, ?_, ?_⟩
  · refine ((counted_discardAssembly (fun h ha => ?_) c).of_eq ht).congr_right hut
    exact (streamOf_of_buf hb h).trans (hn q a h hq ha)
  · cases ha : a.handle with
    | none =>
      rw [discardAssembly_of_none ha] at hub hue
      exact ⟨hub.trans (by simpa using hb), hue.trans (by simpa using he)⟩
    | some h =>
      rw [discardAssembly_of_some ha] at hub hue hut
      obtain ⟨hnone, hkeep, hoct, -, hev⟩ := ((discarded_discard c h).of_eq hb ht he).congr_right hub hut hue
      exact ⟨hnone, hkeep, hoct, hev⟩

theorem givesUp_giveUp {q : Tier} {a : Assembly} (c : Cause) (hq : s.context q = .opened a)
    (hn : s.ContextsUnstreamed) : GivesUp q c a.expected s (s.giveUp q c) := by
  have hframe : ChangesOnly [.rx] s (s.discarding q a c) := (lawful_discarding q a c).frame
  have hrx := (lawful_discardAssembly (s := s.discarding q a c) c a).frame.rx (by decide)
  rw [giveUp_opened hq]
  exact givesUp_of_discardAssembly (t := s.discarding q a c) hq hn (hframe.buf (by decide))
    (hframe.tallies (by decide)) (hframe.releaseEvents (by decide))
    ((context_of_rx hrx _).trans (discarding_context_self ..))
    (fun z hz => (context_of_rx hrx _).trans (discarding_context_other hz ..)) rfl rfl rfl

/-! ## Contexts abandoned together (R131, R141, R142) -/

/-- An OPEN context closed with its frame discarded. -/
theorem abandons_of_discardAssembly {q : Tier} {a : Assembly} {c : Cause} (hq : s.context q = .opened a)
    (hn : s.ContextsUnstreamed) (hb : t.buf = s.buf) (ht : t.tallies = s.tallies)
    (he : t.releaseEvents = s.releaseEvents) (hcq : u.context q = .closed)
    (hc : ∀ z, z ≠ q → u.context z = s.context z) (hub : u.buf = (t.discardAssembly c a).buf)
    (hut : u.tallies = (t.discardAssembly c a).tallies)
    (hue : u.releaseEvents = (t.discardAssembly c a).releaseEvents) : AbandonsContexts [q] c s u := by
  obtain ⟨hcount, hother, htally⟩ : Counted s u c none := by
    refine ((counted_discardAssembly (fun h ha => ?_) c).of_eq ht).congr_right hut
    exact (streamOf_of_buf hb h).trans (hn q a h hq ha)
  have hopen : ([q].filter fun z => (s.context z).isOpen) = [q] := by simp [hq, Context.isOpen]
  refine ⟨fun z => ?_, by rw [hcount, hopen]; rfl, hother, fun i => (htally i).trans (if_neg nofun), ?_⟩
  · by_cases hz : z = q
    · rw [if_pos (by simp [hz]), hz, hcq]
    · rw [if_neg (by simp [hz]), hc z hz]
  · rw [contextHandles_opened hq]
    cases ha : a.handle with
    | none =>
      rw [discardAssembly_of_none ha] at hub hue
      have hbuf : u.buf = s.buf := hub.trans (by simpa using hb)
      exact ⟨by simp, fun k _ => handle?_of_buf hbuf k, fun x => by rw [hbuf], hue.trans (by simpa using he)⟩
    | some h =>
      rw [discardAssembly_of_some ha] at hub hue hut
      obtain ⟨hnone, hkeep, hoct, -, hev⟩ := ((discarded_discard c h).of_eq hb ht he).congr_right hub hut hue
      exact ⟨by simpa using hnone, by simpa using hkeep, hoct, hev⟩

/-- A context that is not OPEN is closed without counting. -/
theorem abandons_of_not_opened {q : Tier} {c : Cause} (hq : (s.context q).isOpen = false) (hcq : u.context q = .closed)
    (hc : ∀ z, z ≠ q → u.context z = s.context z) (hb : u.buf = s.buf) (ht : u.tallies = s.tallies)
    (he : u.releaseEvents = s.releaseEvents) : AbandonsContexts [q] c s u := by
  have hopen : ([q].filter fun z => (s.context z).isOpen) = [] := by simp [hq]
  refine ⟨fun z => ?_, by rw [discardCount_of_tallies ht, hopen]; simp, fun d _ => discardCount_of_tallies ht d,
    fun i => tally_of_tallies ht i, ?_⟩
  · by_cases hz : z = q
    · rw [if_pos (by simp [hz]), hz, hcq]
    · rw [if_neg (by simp [hz]), hc z hz]
  · rw [contextHandles_of_not_opened hq]
    exact ⟨by simp, fun k _ => handle?_of_buf hb k, fun x => by rw [hb], he⟩

theorem abandons_abandon (hn : s.ContextsUnstreamed) (c : Cause) (q : Tier) :
    AbandonsContexts [q] c s (s.abandon c q) := by
  have hself := abandon_context_self (s := s) c q
  have hother {z : Tier} (hz : z ≠ q) := abandon_context_other (s := s) c hz
  cases hc : s.context q with
  | closed =>
    have he : s.abandon c q = s := by simp [abandon, hc]
    exact abandons_of_not_opened (by rw [hc]; rfl) hself (fun z => hother) (by rw [he]) (by rw [he]) (by rw [he])
  | discarding g =>
    have he : s.abandon c q = s.setContext q .closed := by simp [abandon, hc]
    exact abandons_of_not_opened (by rw [hc]; rfl) hself (fun z => hother) (by rw [he]; rfl) (by rw [he]; rfl)
      (by rw [he]; rfl)
  | opened a =>
    have he : s.abandon c q = (s.setContext q .closed).discardAssembly c a := by simp [abandon, hc]
    exact abandons_of_discardAssembly (t := s.setContext q .closed) hc hn rfl rfl rfl hself (fun z => hother)
      (by rw [he]) (by rw [he]) (by rw [he])

theorem abandons_nil (c : Cause) (s : State) : AbandonsContexts [] c s s :=
  ⟨fun _ => by simp, by simp, fun _ _ => rfl, fun _ => rfl, by simp [contextHandles], fun _ _ => rfl, fun _ => rfl,
    by simp [contextHandles]⟩

theorem contextHandles_disjoint (hhold : s.ContextsHold) {q : Tier} {l : List Tier} (hql : q ∉ l) {h : Nat}
    (hq : h ∈ s.contextHandles [q]) : h ∉ s.contextHandles l := by
  intro hl
  obtain ⟨x, hx, a, hxa, ha⟩ := mem_contextHandles.1 hq
  obtain ⟨y, hy, b, hyb, hb⟩ := mem_contextHandles.1 hl
  obtain ⟨r, hr, hrx, -⟩ := hhold x a h hxa ha
  obtain ⟨r', hr', hry, -⟩ := hhold y b h hyb hb
  cases hr.symm.trans hr'
  cases hrx.symm.trans hry
  exact hql (List.mem_singleton.1 hx ▸ hy)

end State

variable {s t u : State}

theorem AbandonsContexts.congr {l : List Tier} {c : Cause} {v : State} (h : AbandonsContexts l c s u)
    (hc : ∀ q, v.context q = u.context q) (hb : v.buf = u.buf) (ht : v.tallies = u.tallies)
    (he : v.releaseEvents = u.releaseEvents) : AbandonsContexts l c s v := by
  obtain ⟨hctx, hcount, hother, htally, hnone, hkeep, hoct, hev⟩ := h
  exact ⟨fun q => (hc q).trans (hctx q), (State.discardCount_of_tallies ht c).trans hcount,
    fun d hd => (State.discardCount_of_tallies ht d).trans (hother d hd),
    fun i => (State.tally_of_tallies ht i).trans (htally i), fun k hk => (State.handle?_of_buf hb k).trans (hnone k hk),
    fun k hk => (State.handle?_of_buf hb k).trans (hkeep k hk), fun a => by rw [hb]; exact hoct a, he.trans hev⟩

/-- The contexts of some tiers abandoned after that of another. -/
theorem AbandonsContexts.cons {q : Tier} {l : List Tier} {c : Cause} (hql : q ∉ l) (hhold : s.ContextsHold)
    (h : AbandonsContexts [q] c s t) (g : AbandonsContexts l c t u) : AbandonsContexts (q :: l) c s u := by
  obtain ⟨hctx, hcount, hother, htally, hnone, hkeep, hoct, hev⟩ := h
  obtain ⟨gctx, gcount, gother, gtally, gnone, gkeep, goct, gev⟩ := g
  have hsame : ∀ z ∈ l, t.context z = s.context z := fun z hz => by
    rw [hctx z, if_neg]
    rintro hzq
    exact hql (List.mem_singleton.1 hzq ▸ hz)
  have hhandles := State.contextHandles_congr hsame
  have hopen : (l.filter fun z => (t.context z).isOpen) = l.filter fun z => (s.context z).isOpen :=
    List.filter_congr fun z hz => by rw [hsame z hz]
  rw [hhandles] at gnone gkeep gev
  refine ⟨fun z => ?_, ?_, fun d hd => (gother d hd).trans (hother d hd), fun i => (gtally i).trans (htally i), ?_⟩
  · rw [gctx z, hctx z]
    by_cases hzl : z ∈ l <;> by_cases hzq : z = q <;> simp [hzl, hzq]
  · rw [gcount, hcount, hopen, BitVec.add_assoc, ← BitVec.ofNat_add, ← List.length_append, ← List.filter_append]
    rfl
  · rw [State.contextHandles_cons]
    refine ⟨fun k hk => ?_, fun k hk => ?_, fun x => (goct x).trans (hoct x), ?_⟩
    · rcases List.mem_append.1 hk with hk | hk
      · exact (gkeep k (State.contextHandles_disjoint hhold hql hk)).trans (hnone k hk)
      · exact gnone k hk
    · rw [List.mem_append, not_or] at hk
      exact (gkeep k hk.2).trans (hkeep k hk.1)
    · rw [gev, hev, List.length_append, Nat.add_assoc]

namespace State

/-- Abandoning one context leaves what the others hold. -/
theorem ContextsHold.abandons {q : Tier} {c : Cause} (hhold : s.ContextsHold) (h : AbandonsContexts [q] c s t) :
    t.ContextsHold := by
  obtain ⟨hctx, -, -, -, -, hkeep, -⟩ := h
  intro z a k hz ha
  have hzq : z ∉ [q] := fun hzq => by
    rw [hctx z, if_pos hzq] at hz
    cases hz
  rw [hctx z, if_neg hzq] at hz
  have hqz : q ∉ [z] := fun e => hzq (List.mem_singleton.2 (List.mem_singleton.1 e).symm)
  rw [hkeep k fun hk => contextHandles_disjoint hhold hqz hk (mem_contextHandles.2 ⟨z, by simp, a, hz, ha⟩)]
  exact hhold z a k hz ha

theorem abandons_foldl (c : Cause) {l : List Tier} (hl : l.Nodup) (hhold : s.ContextsHold) :
    AbandonsContexts l c s (l.foldl (fun s q => s.abandon c q) s) := by
  induction l generalizing s with
  | nil => exact abandons_nil c s
  | cons q l ih =>
    have hq := abandons_abandon hhold.unstreamed c q
    exact hq.cons (List.nodup_cons.1 hl).1 hhold (ih (List.nodup_cons.1 hl).2 (hhold.abandons hq))

theorem abandons_abandonAll (c : Cause) (hhold : s.ContextsHold) : AbandonsContexts Tier.all c s (s.abandonAll c) := by
  have hl : Tier.all.Nodup := by decide
  have h := abandons_foldl c hl hhold
  unfold abandonAll
  generalize Tier.all.foldl (fun s q => s.abandon c q) s = u at h ⊢
  exact AbandonsContexts.congr (v := u.setFragment none) h (fun _ => rfl) rfl rfl rfl

end State

/-! ## Frames discarded together (R189) -/

/-- From `s` to `t`, `n` discards are counted with one cause; those of the frames `l` free their handles and count
against their streams; and no handle outside `m` changes. -/
structure Loses (c : Cause) (n : Nat) (l m : List Nat) (s t : State) : Prop where
  sub : l ⊆ m
  gone : ∀ h ∈ l, t.handle? h = none
  keeps : KeepsHandles m s t
  octets : KeepsOctets s t
  count : t.discardCount c = s.discardCount c + BitVec.ofNat 32 n
  others : ∀ d, d ≠ c → t.discardCount d = s.discardCount d
  tally : ∀ i, t.tally i = { s.tally i with
    framesDiscarded := (s.tally i).framesDiscarded +
      BitVec.ofNat 32 (l.filter fun h => decide (s.streamOf h = some i)).length }
  events : t.releaseEvents = s.releaseEvents + l.length

namespace Loses

variable {c : Cause} {n n' : Nat} {l l' m m' : List Nat}

/-- A step that discards nothing and changes at most the handles `m`. -/
theorem of_keeps (hk : KeepsHandles m s t) (ho : KeepsOctets s t) (ht : t.tallies = s.tallies)
    (he : t.releaseEvents = s.releaseEvents) : Loses c 0 [] m s t :=
  ⟨nofun, nofun, hk, ho, by rw [State.discardCount_of_tallies ht]; simp, fun d _ => State.discardCount_of_tallies ht d,
    fun i => by rw [State.tally_of_tallies ht]; simp, he⟩

theorem of_eq (hb : t.buf = s.buf) (ht : t.tallies = s.tallies) (he : t.releaseEvents = s.releaseEvents) :
    Loses c 0 [] m s t :=
  of_keeps (fun k _ => State.handle?_of_buf hb k) (fun a => by rw [hb]) ht he

/-- A count without a frame's handle. -/
theorem of_counted (hb : t.buf = s.buf) (hc : Counted s t c none) (he : t.releaseEvents = s.releaseEvents) :
    Loses c 1 [] m s t := by
  obtain ⟨hcount, hother, htally⟩ := hc
  exact ⟨nofun, nofun, fun k _ => State.handle?_of_buf hb k, fun a => by rw [hb], hcount, hother,
    fun i => (htally i).trans (by simp), he⟩

theorem of_discarded {h : Nat} (hd : Discarded s t c h) : Loses c 1 [h] [h] s t := by
  obtain ⟨hnone, hkeep, hoct, ⟨hcount, hother, htally⟩, he⟩ := hd
  refine ⟨List.Subset.refl _, by simpa using hnone, hkeep, hoct, hcount, hother, fun i => (htally i).trans ?_, he⟩
  by_cases hi : s.streamOf h = some i <;> simp [hi]

/-- Two parts that touch different handles. -/
theorem trans (h : Loses c n l m s t) (g : Loses c n' l' m' t u) (hd : ∀ k ∈ m, k ∉ m') :
    Loses c (n + n') (l ++ l') (m ++ m') s u := by
  have hstream : ∀ k ∈ l', t.streamOf k = s.streamOf k := fun k hk => by
    rw [State.streamOf, State.streamOf, h.keeps k fun hm => hd k hm (g.sub hk)]
  refine ⟨fun k hk => ?_, fun k hk => ?_, fun k hk => ?_, fun a => (g.octets a).trans (h.octets a), ?_,
    fun d hne => (g.others d hne).trans (h.others d hne), fun i => ?_, ?_⟩
  · exact List.mem_append.2 ((List.mem_append.1 hk).imp (h.sub ·) (g.sub ·))
  · rcases List.mem_append.1 hk with hk | hk
    · exact (g.keeps k (hd k (h.sub hk))).trans (h.gone k hk)
    · exact g.gone k hk
  · rw [List.mem_append, not_or] at hk
    exact (g.keeps k hk.2).trans (h.keeps k hk.1)
  · rw [g.count, h.count, BitVec.add_assoc, ← BitVec.ofNat_add]
  · have hfilter : (l'.filter fun k => decide (t.streamOf k = some i)) =
        l'.filter fun k => decide (s.streamOf k = some i) :=
      List.filter_congr fun k hk => by rw [hstream k hk]
    rw [g.tally i, h.tally i, hfilter, List.filter_append, List.length_append, BitVec.ofNat_add, BitVec.add_assoc]
  · rw [g.events, h.events, List.length_append, Nat.add_assoc]

/-- Frames discarded one after the other. -/
theorem foldl_discard (c : Cause) {l : List Nat} (hl : l.Nodup) (s : State) :
    Loses c l.length l l s (l.foldl (fun s h => s.discard c h) s) := by
  induction l generalizing s with
  | nil => exact of_eq rfl rfl rfl
  | cons h l ih =>
    obtain ⟨hh, hl⟩ := List.nodup_cons.1 hl
    have := (of_discarded (State.discarded_discard (s := s) c h)).trans (ih hl (s.discard c h)) fun k hk =>
      List.mem_singleton.1 hk ▸ hh
    rwa [Nat.add_comm, List.singleton_append] at this

end Loses

/-! ## The frames on the trunk at a loss (R103) -/

/-- The record of a frame that goes back to its tier's queue. -/
def Handle.returned (r : Handle) : Handle :=
  { r with restartCount := r.restartCount + 1, sentOffset := 0, nextIndex := 0, resumeHold := false
           holder := .tierQueue r.tier }

/-- The frames `l` on the trunk, with their counts, have gone back to the heads of their tiers' queues, or are lost. -/
structure Returns (l : List Nat) (back gone : Nat) (s t : State) : Prop where
  loses : Loses .restartLimit gone (l.filter fun h => !s.survives h) l s t
  back_eq : back = (l.filter s.survives).length
  gone_eq : gone = (l.filter fun h => !s.survives h).length
  limit : KeepsLimits s t
  members : ∀ q, (t.queue q).members =
    (l.filter fun h => s.survives h && decide (s.tierOf h = q)).reverse ++ (s.queue q).members
  record : ∀ h ∈ l, ∀ r, s.handle? h = some r → t.handle? h = if r.restartCount < 2 then some r.returned else none

namespace Returns

variable {l l' : List Nat} {n n' k k' : Nat}

theorem nil (s : State) : Returns [] 0 0 s s :=
  ⟨.of_eq rfl rfl rfl, rfl, rfl, fun _ => rfl, fun _ => rfl, nofun⟩

theorem trans (h : Returns l n k s t) (g : Returns l' n' k' t u) (hd : ∀ x ∈ l, x ∉ l') :
    Returns (l ++ l') (n + n') (k + k') s u := by
  have hsame : ∀ x ∈ l', t.handle? x = s.handle? x := fun x hx => h.loses.keeps x fun hl => hd x hl hx
  have hsurv : ∀ x ∈ l', t.survives x = s.survives x := fun x hx => by
    rw [State.survives, State.survives, hsame x hx]
  have htier : ∀ x ∈ l', t.tierOf x = s.tierOf x := fun x hx => by rw [State.tierOf, State.tierOf, hsame x hx]
  have hlost : (l'.filter fun x => !t.survives x) = l'.filter fun x => !s.survives x :=
    List.filter_congr fun x hx => by rw [hsurv x hx]
  have hback : l'.filter t.survives = l'.filter s.survives := List.filter_congr hsurv
  have hloses := g.loses
  rw [hlost] at hloses
  refine ⟨List.filter_append .. ▸ h.loses.trans hloses hd, ?_, ?_, fun q => (g.limit q).trans (h.limit q), fun q => ?_,
    fun x hx r hr => ?_⟩
  · rw [h.back_eq, g.back_eq, hback, List.filter_append, List.length_append]
  · rw [h.gone_eq, g.gone_eq, hlost, List.filter_append, List.length_append]
  · have : (l'.filter fun x => t.survives x && decide (t.tierOf x = q)) =
        l'.filter fun x => s.survives x && decide (s.tierOf x = q) :=
      List.filter_congr fun x hx => by rw [hsurv x hx, htier x hx]
    rw [g.members q, h.members q, this, List.filter_append, List.reverse_append, List.append_assoc]
  · by_cases hxl : x ∈ l'
    · exact g.record x hxl r ((hsame x hxl).trans hr)
    · rw [g.loses.keeps x hxl]
      exact h.record x ((List.mem_append.1 hx).resolve_right hxl) r hr

/-- The same from a state with the same stores, queues, tallies and release events. -/
theorem of_start (h : Returns l n k t u) (hb : t.buf = s.buf) (hq : t.queues = s.queues) (ht : t.tallies = s.tallies)
    (he : t.releaseEvents = s.releaseEvents) : Returns l n k s u := by
  have hpre : Returns [] 0 0 s t := ⟨.of_eq hb ht he, rfl, rfl, fun q => by rw [State.queue_of_queues hq],
    fun q => by rw [State.queue_of_queues hq]; rfl, nofun⟩
  simpa using hpre.trans h (by simp)

end Returns

namespace State

theorem setMembers_queue (q x : Tier) (l : List Nat) :
    (s.setMembers q l).queue x = if x = q then { s.queue q with members := l } else s.queue x := by
  split
  case isTrue e => rw [e, setMembers_queue_self]
  case isFalse e => exact setMembers_queue_other _ _ e

theorem survives_of_handle {h : Nat} {r : Handle} (hr : s.handle? h = some r) :
    s.survives h = decide (r.restartCount < 2) := by rw [survives, hr]

theorem returnFrame_of_handle {h : Nat} {r : Handle} (hr : s.handle? h = some r) (n k : Nat) :
    returnFrame (s, n, k) h = if r.restartCount < 2 then
      ((s.setMembers r.tier (h :: (s.queue r.tier).members)).setHandle h r.returned, n + 1, k)
    else (s.discard .restartLimit h, n, k + 1) := by
  have hlt : r.restartCount + 1 ≤ Config.maxRestarts ↔ r.restartCount < 2 := Nat.succ_le_iff
  simp only [returnFrame, hr, hlt]
  rfl

theorem returns_returnFrame {h : Nat} {r : Handle} (hr : s.handle? h = some r) (n k : Nat) :
    ∃ n' k', (returnFrame (s, n, k) h).2 = (n + n', k + k') ∧ Returns [h] n' k' s (returnFrame (s, n, k) h).1 := by
  have hsurv := survives_of_handle hr
  have htier : s.tierOf h = r.tier := by rw [tierOf, hr]
  rw [returnFrame_of_handle hr]
  by_cases hlt : r.restartCount < 2
  · rw [if_pos hlt]
    simp only [hlt, decide_true] at hsurv
    refine ⟨1, 0, rfl, ?_, by simp [hsurv], by simp [hsurv], fun q => ?_, fun q => ?_, fun x hx q hq => ?_⟩
    · simp only [List.filter_cons, hsurv, Bool.not_true, Bool.false_eq_true, if_false, List.filter_nil]
      exact .of_keeps (keepsHandles_of_other fun x hx => setHandle_handle?_other _ _ hx) (fun _ => rfl) rfl rfl
    · show ((s.setMembers r.tier _).queue q).limit = _
      rw [setMembers_queue]
      split
      case isTrue e => rw [e]
      case isFalse => rfl
    · show ((s.setMembers r.tier _).queue q).members = _
      rw [setMembers_queue]
      by_cases hq : q = r.tier
      · simp [hq, hsurv, htier]
      · simp [hq, htier, Ne.symm hq]
    · cases List.mem_singleton.1 hx
      cases hr.symm.trans hq
      rw [setHandle_handle?_self, if_pos hlt]
  · rw [if_neg hlt]
    simp only [hlt, decide_false] at hsurv
    refine ⟨0, 1, rfl, ?_, by simp [hsurv], by simp [hsurv], fun q => ?_, fun q => ?_, fun x hx q hq => ?_⟩
    · simp only [List.filter_cons, hsurv, Bool.not_false, if_true, List.filter_nil]
      exact .of_discarded (discarded_discard ..)
    · rw [queue_of_queues (discard_queues ..)]
    · simp [hsurv, queue_of_queues (discard_queues (s := s) .restartLimit h)]
    · cases List.mem_singleton.1 hx
      cases hr.symm.trans hq
      rw [if_neg hlt]
      exact (discarded_discard ..).1

theorem returns_foldl {l : List Nat} (hl : l.Nodup) (hheld : ∀ h ∈ l, ∃ r, s.handle? h = some r) (n k : Nat) :
    ∃ n' k', (l.foldl returnFrame (s, n, k)).2 = (n + n', k + k') ∧
      Returns l n' k' s (l.foldl returnFrame (s, n, k)).1 := by
  induction l generalizing s n k with
  | nil => exact ⟨0, 0, rfl, .nil s⟩
  | cons h l ih =>
    obtain ⟨hh, hl⟩ := List.nodup_cons.1 hl
    obtain ⟨r, hr⟩ := hheld h (by simp)
    obtain ⟨n1, k1, he, hret⟩ := returns_returnFrame hr n k
    rw [List.foldl_cons]
    generalize returnFrame (s, n, k) h = acc at he hret ⊢
    obtain ⟨v, p⟩ := acc
    obtain rfl : p = (n + n1, k + k1) := he
    have hother : ∀ x ∈ l, x ∉ [h] := fun x hx e => hh (List.mem_singleton.1 e ▸ hx)
    obtain ⟨n2, k2, he', hret'⟩ := ih hl (fun x hx => by
      rw [hret.loses.keeps x (hother x hx)]
      exact hheld x (List.mem_cons_of_mem _ hx)) (n + n1) (k + k1)
    refine ⟨n1 + n2, k1 + k2, ?_, hret.trans hret' fun x hx hl => hother x hl hx⟩
    rw [he', Nat.add_assoc, Nat.add_assoc]

/-! ## Leaving UP (R103, R104, R120, R142, R180) -/

/-- At most one frame on the trunk has a given tier (R84). -/
theorem onTrunk_filter_reverse (hs : TransmitterOk s) (p : Nat → Bool) (q : Tier) :
    (s.onTrunk.filter fun h => p h && decide (s.tierOf h = q)).reverse =
      s.onTrunk.filter fun h => p h && decide (s.tierOf h = q) := by
  obtain ⟨-, -, -, hpair, -⟩ := hs
  have hp := hpair.filter fun h => p h && decide (s.tierOf h = q)
  rw [← onTrunk] at hp
  have hmem : ∀ h ∈ s.onTrunk.filter fun h => p h && decide (s.tierOf h = q), s.tierOf h = q := fun h hh => by
    have := (List.mem_filter.1 hh).2
    simp only [Bool.and_eq_true, decide_eq_true_eq] at this
    exact this.2
  revert hp hmem
  generalize s.onTrunk.filter (fun h => p h && decide (s.tierOf h = q)) = l
  intro hp hmem
  match l with
  | [] => rfl
  | [_] => rfl
  | x :: y :: l =>
    have hlt := (List.pairwise_cons.1 hp).1 y (by simp)
    rw [hmem x (by simp), hmem y (by simp)] at hlt
    cases q <;> exact absurd hlt (by decide)

theorem onTrunk_nodup (hs : TransmitterOk s) : s.onTrunk.Nodup := by
  obtain ⟨-, -, -, hpair, -⟩ := hs
  refine hpair.imp fun {x y} hxy e => ?_
  rw [e] at hxy
  revert hxy
  cases s.tierOf y <;> decide

/-- What leaves UP first: the link, its runs and the transmitter (R103, R120). -/
def takenDown (s : State) (los : Bool) : State :=
  (s.withLine { s.line with los := los, link := .down, idleRun := 0, invalidRun := 0 }).withTx
    { mode := .offline, active := none, fragment := none, stack := [] }

/-- The frames of the trunk after that, with the counts of R103. -/
def framesReturned (s : State) (los : Bool) : State × Nat × Nat := s.onTrunk.foldl returnFrame (s.takenDown los, 0, 0)

/-- The contexts after that (R142). -/
def contextsClosed (s : State) (los : Bool) : State := (s.framesReturned los).1.abandonAll .trunkDown

theorem leaveUp_withLos (los : Bool) : (s.withLine { s.line with los := los }).leaveUp =
    ((s.contextsClosed los).withLine { (s.contextsClosed los).line with
      returned := (s.framesReturned los).2.1, discarded := (s.framesReturned los).2.2
      contexts := (s.framesReturned los).1.openContexts }).syncTimer.trunkIdle := rfl

theorem framesReturned_frame (los : Bool) : ChangesOnly [.buf, .queues, .tx, .tallies, .releaseEvents]
    (s.withLine { s.line with los := los, link := .down, idleRun := 0, invalidRun := 0 }) (s.framesReturned los).1 :=
  lawful_transmitterLoss.frame

theorem framesReturned_context (los : Bool) (q : Tier) : (s.framesReturned los).1.context q = s.context q :=
  context_of_rx ((framesReturned_frame los).rx (by decide)) q

section Leaving

variable (hr : ReceiverOk s) (hh : HoldersOk s) (htx : TransmitterOk s)
include hh htx

theorem framesReturned_returns (los : Bool) :
    Returns s.onTrunk (s.framesReturned los).2.1 (s.framesReturned los).2.2 s (s.framesReturned los).1 := by
  have hheld : ∀ h ∈ s.onTrunk, ∃ r, (s.takenDown los).handle? h = some r := fun h hm => by
    rcases mem_members_of_onTrunk hm with hm | hm <;> obtain ⟨r, hr, -⟩ := hh.2.1 _ hm <;> exact ⟨r, hr⟩
  obtain ⟨n, k, he, hret⟩ := returns_foldl (onTrunk_nodup htx) hheld 0 0
  rw [← framesReturned] at he hret
  rw [he, Nat.zero_add, Nat.zero_add]
  exact .of_start hret rfl rfl rfl rfl

omit htx in
/-- No frame on the trunk is one of a context. -/
theorem context_not_onTrunk (hr : ReceiverOk s) {h : Nat} {l : List Tier} (hc : h ∈ s.contextHandles l) :
    h ∉ s.onTrunk := by
  obtain ⟨q, -, a, hq, ha⟩ := mem_contextHandles.1 hc
  obtain ⟨r, hrec, hk, -⟩ := contextsHold hr hh q a h hq ha
  intro hm
  rcases mem_members_of_onTrunk hm with hm | hm <;> obtain ⟨r', hrec', hk'⟩ := hh.2.1 _ hm <;>
    cases hrec.symm.trans hrec' <;> cases hk.symm.trans hk'

include hr

theorem framesReturned_contextsHold (los : Bool) : (s.framesReturned los).1.ContextsHold := by
  have hret := framesReturned_returns hh htx los
  intro q a h hq ha
  rw [framesReturned_context] at hq
  rw [hret.loses.keeps h (context_not_onTrunk hh hr (mem_contextHandles.2 ⟨q, List.mem_singleton.2 rfl, a, hq, ha⟩))]
  exact contextsHold hr hh q a h hq ha

/-- The contexts closed after the frames of the trunk are off it. -/
theorem contextsClosed_abandons (los : Bool) :
    AbandonsContexts Tier.all .trunkDown (s.framesReturned los).1 (s.contextsClosed los) :=
  abandons_abandonAll .trunkDown (framesReturned_contextsHold hr hh htx los)

end Leaving

theorem leavesUp (hr' : ReceiverOk s) (hh : HoldersOk s) (htx : TransmitterOk s) (los : Bool) :
    LeavesUp los s (s.withLine { s.line with los := los }).leaveUp := by
  have hret := framesReturned_returns hh htx los
  have hclosed := contextsClosed_abandons hr' hh htx los
  have hframe := framesReturned_frame (s := s) los
  have hctx := framesReturned_context (s := s) los
  have hopen : (s.framesReturned los).1.openContexts = (Tier.all.filter fun q => (s.context q).isOpen).length := by
    simp only [openContexts, hctx]
  have hfinal := (abandonAll_closes .trunkDown (s.framesReturned los).1)
  rw [← contextsClosed] at hfinal
  rw [leaveUp_withLos, hret.back_eq, hret.gone_eq, hopen]
  have hframe2 : ChangesOnly contextBlocks (s.framesReturned los).1 (s.contextsClosed los) :=
    (lawful_abandonAll .trunkDown).frame
  generalize s.contextsClosed los = x at *
  have hline : x.line = { s.line with los := los, link := .down, idleRun := 0, invalidRun := 0 } :=
    (hframe2.line (by decide)).trans (hframe.line (by decide))
  rw [hline]
  generalize hw : x.withLine _ = w
  have hxw : ChangesOnly [.line] x w := hw ▸ changesOnly_withLine _
  have hnotices : w.notices = s.notices := by
    rw [hxw.notices (by decide), hframe2.notices (by decide), hframe.notices (by decide)]
    rfl
  have hwt : ChangesOnly [.line, .notices] w w.syncTimer.trunkIdle :=
    (lawful_syncTimer.frame.mono (by decide)).trans (lawful_trunkIdle.frame.mono (by decide))
  have hxt : ChangesOnly [.line, .notices] x w.syncTimer.trunkIdle := (hxw.mono (by decide)).trans hwt
  generalize hv : w.syncTimer.trunkIdle = v at *
  obtain ⟨cctx, ccount, cother, ctally, cnone, ckeep, coct, cev⟩ := hclosed
  have hhandles : (s.framesReturned los).1.contextHandles Tier.all = s.contextHandles Tier.all :=
    contextHandles_congr fun q _ => hctx q
  rw [hhandles] at cnone ckeep cev
  have hbuf : v.buf = x.buf := hxt.buf (by decide)
  have htallies : v.tallies = x.tallies := hxt.tallies (by decide)
  refine ⟨?_, ?_, fun q => ⟨?_, ?_⟩, fun h hm r hr => ?_, fun h hm => ?_, fun h hm => ?_, fun a => ?_, ?_, fun q => ?_,
    ?_, ?_, fun d hd1 hd2 => ?_, fun i => ?_, ?_, ?_, ?_⟩
  · rw [← hv, trunkIdle_line, syncTimer_line, ← hw]
    rfl
  · rw [hxt.tx (by decide), hframe2.tx (by decide)]
    exact transmitterLoss_tx
  · rw [queue_of_queues (hxt.queues (by decide)), queue_of_queues (hframe2.queues (by decide)), hret.limit]
  · rw [queue_of_queues (hxt.queues (by decide)), queue_of_queues (hframe2.queues (by decide)), hret.members,
      onTrunk_filter_reverse htx]
  · rw [handle?_of_buf hbuf, ckeep h fun hc => context_not_onTrunk hh hr' hc hm]
    exact hret.record h hm r hr
  · rw [handle?_of_buf hbuf, cnone h hm]
  · rw [List.mem_append, not_or] at hm
    rw [handle?_of_buf hbuf, ckeep h hm.2, hret.loses.keeps h hm.1]
  · rw [hbuf, coct, hret.loses.octets]
  · rw [hxt.rx (by decide), hfinal.1]
  · rw [context_of_rx (hxt.rx (by decide)), hfinal.2]
  · rw [discardCount_of_tallies htallies, cother .restartLimit (by decide), hret.loses.count, hret.gone_eq]
  · rw [discardCount_of_tallies htallies, ccount, hret.loses.others .trunkDown (by decide)]
    simp only [hctx]
  · rw [discardCount_of_tallies htallies, cother d hd2, hret.loses.others d hd1]
  · rw [tally_of_tallies htallies, ctally, hret.loses.tally, List.filter_filter]
    simp only [Bool.and_comm]
  · have hclosed : w.noticesOpen = false := Bool.eq_false_iff.2 fun ho => by
      rw [noticesOpen_iff, ← hw] at ho
      cases ho.1
    have ht : v.notices = w.syncTimer.notices := by rw [← hv]; exact lawful_trunkIdle.frame.notices (by decide)
    cases htimer : s.notices.timer with
    | stopped =>
      rw [ht, syncTimer_of_stopped (by rw [hnotices, htimer]), hnotices]
      show s.notices = { s.notices with timer := .stopped }
      rw [← htimer]
    | running e => rw [ht, syncTimer_of_running_closed (by rw [hnotices, htimer]) hclosed, ← hnotices]; rfl
    | held e =>
      rw [ht, syncTimer_of_held_closed (by rw [hnotices, htimer]) hclosed, hnotices]
      show s.notices = { s.notices with timer := .held e }
      rw [← htimer]
  · rw [hxt.releaseEvents (by decide), cev, hret.loses.events]
  · have h0 : ChangesOnly [.line] s
        (s.withLine { s.line with los := los, link := .down, idleRun := 0, invalidRun := 0 }) := changesOnly_withLine _
    exact (((h0.mono (by decide)).trans (hframe.mono (by decide))).trans (hframe2.mono (by decide))).trans
      (hxt.mono (by decide))

end State

open State in
/-- Settles O35: both commands leave UP by `leaveUp`, which takes the trunk's frames, then the contexts, then the resend
timer. -/
theorem leavingUpReturnsFrames : Obligations.LeavingUpReturnsFrames := by
  intro s _ hlink hr hh htx _ hup
  have hlos : s.line.los = false := Bool.eq_false_iff.2 fun h => absurd ((hlink.1 h).symm.trans hup) nofun
  have hself : s.withLine { s.line with los := false } = s := by rw [← hlos]; rfl
  refine ⟨⟨_, ?_, leavesUp hr hh htx true⟩, fun hrun => ⟨_, ?_, leavesUp hr hh htx false⟩⟩
  · show Host.Outcome.next s.losAsserted = _
    rw [losAsserted, hup]
  · have hlast : ¬ s.line.invalidRun + 1 < Config.lossRun := by rw [hrun]; decide
    show Host.Outcome.next s.trunkInvalid = _
    rw [hself, trunkInvalid, if_neg (by rw [hlos]; exact nofun), hup]
    exact congrArg _ (if_neg hlast)

end Sys2Proof.Machine
end

section
/-! PROOFS. The receiver's opening markers, slips and CLEAR (O39, O40, O41). -/

namespace Sys2Proof.Machine

variable {s t u : State}

theorem GivesUp.setFragment {q : Tier} {c : Cause} {x : FragIx} (h : GivesUp q c x s u) (f : Option RxFragment) :
    GivesUp q c x s (u.setFragment f) := h

/-- A context that has been given up takes another expected index. -/
theorem GivesUp.reindex {q : Tier} {c : Cause} {x : FragIx} (h : GivesUp q c x s u) (i : FragIx) :
    ∃ g, u.context q = .discarding g ∧ GivesUp q c i s (u.setContext q (.discarding { g with expected := i })) := by
  obtain ⟨a, ha, hq, hother, hcount, hrest⟩ := h
  exact ⟨_, hq, a, ha, State.setContext_context_self ..,
    fun z hz => (State.setContext_context_other _ _ hz).trans (hother z hz), hcount, hrest⟩

namespace State

/-! ## A valid symbol reaches the receiver in UP (R118) -/

theorem los_of_up (hl : LinkOk s) (hup : s.line.link = .up) : s.line.los = false :=
  Bool.eq_false_iff.2 fun h => absurd ((hl.1 h).symm.trans hup) nofun

theorem trunkSymbol_of_up (hl : LinkOk s) (hup : s.line.link = .up) (f : State → State) :
    s.trunkSymbol f = (f s.validSymbol).settle := by simp [trunkSymbol, los_of_up hl hup, hup]

theorem changesOnly_validSymbol : ChangesOnly [.line] s s.validSymbol := changesOnly_withLine _

theorem orderly_validSymbol (ho : Orderly [] s) : Orderly [] s.validSymbol :=
  (keeps_withLine { s.line with invalidRun := 0 }).orderly (Z := []) ho

theorem contextsHold_of_orderly (ho : Orderly [] s) : s.ContextsHold := fun q a h hq ha => by
  obtain ⟨r, hr, hk⟩ := handle?_of_holderOf (ho.accounted.holderOf_of_member (mem_members_of_context hq ha))
  obtain ⟨-, hn, -⟩ := (ho.rx q a hq).2.2 h r ha hr
  exact ⟨r, hr, hk, hn⟩

theorem changesOnly_setFragment (f : Option RxFragment) : ChangesOnly [.rx] s (s.setFragment f) := by
  simp [ChangesOnly]

/-! ## Slips (R130) -/

theorem slips_slip (hf : s.FragmentOk) (hn : s.ContextsUnstreamed) : Slips s s.slip := by
  refine ⟨slip_fragment, ?_⟩
  cases hrx : s.rx.fragment with
  | none => simp [slip, hrx]
  | some f =>
    show if f.mode = .storing then _ else _
    have hrec := hf.1 f hrx
    cases hm : f.mode with
    | storing =>
      rw [hm] at hrec
      obtain ⟨a, ha, -⟩ := hrec
      have he : s.slip = (s.giveUp f.tier .fragmentCheck).setFragment none := by simp [slip, hrx, hm]
      rw [if_pos rfl, he]
      exact ⟨((lawful_giveUp f.tier .fragmentCheck).frame.mono (by decide)).trans
        (lawful_clearFragment.frame.mono (by decide)), a, ha, (givesUp_giveUp _ ha hn).setFragment none⟩
    | tracking =>
      have he : s.slip = s.setFragment none := by simp [slip, hrx, hm]
      rw [if_neg nofun, he]
      exact ⟨lawful_clearFragment.frame, fun _ => rfl⟩
    | ignored =>
      have he : s.slip = s.setFragment none := by simp [slip, hrx, hm]
      rw [if_neg nofun, he]
      exact ⟨lawful_clearFragment.frame, fun _ => rfl⟩

end State

open State in
/-- Settles O39: the slip of an invalid symbol, the fill of IDLE, and CLEAR as the abandoning of every context. -/
theorem invalidSymbolsAndClear : Obligations.InvalidSymbolsAndClear := by
  refine ⟨fun s hl hr hup => ⟨fun hrun => ⟨s.withLine { s.line with invalidRun := s.line.invalidRun + 1 }, _, ?_, rfl,
      changesOnly_withLine _, slips_slip (receiverOk_iff.1 hr).1 (contextsUnstreamed_of_receiverOk hr)⟩,
      s.validSymbol, ?_, rfl, changesOnly_validSymbol⟩,
    fun s hl hr hh hup => ⟨s.validSymbol, s.validSymbol.abandonAll .cleared, ?_, rfl, changesOnly_validSymbol,
      abandons_abandonAll _ (contextsHold (s := s) hr hh), (abandonAll_closes _ _).2, (abandonAll_closes _ _).1,
      (lawful_abandonAll _).frame⟩⟩
  · have hlt : s.line.invalidRun + 1 < Config.lossRun := Nat.succ_lt_succ hrun
    show Host.Outcome.next s.trunkInvalid = _
    simp [trunkInvalid, los_of_up hl hup, hup, hlt]
  · show Host.Outcome.next s.trunkIdleSymbol = _
    simp [trunkIdleSymbol, los_of_up hl hup, hup]
  · exact congrArg _ (trunkSymbol_of_up hl hup receiveClear)

namespace State

/-! ## The nesting check and the reopen (R131, R134) -/

/-- The more urgent contexts abandoned, before the notice of the nesting check. -/
def nested (s : State) (q : Tier) : State := (moreUrgentThan q).foldl (fun s x => s.abandon .sequence x) s

theorem nested_abandons (hhold : s.ContextsHold) (q : Tier) :
    AbandonsContexts (moreUrgentThan q) .sequence s (s.nested q) :=
  abandons_foldl .sequence (by cases q <;> decide) hhold

theorem changesOnly_nested (q : Tier) : ChangesOnly contextBlocks s (s.nested q) :=
  (lawful_foldl (fun _ x => lawful_abandon .sequence x) (moreUrgentThan q) s).frame

theorem nestingCheck_eq (q : Tier) : s.nestingCheck q =
    if (moreUrgentThan q).any fun z => (s.context z).isOpen then (s.nested q).raiseNotice (.sequenceFault q .nesting)
    else s.nested q := rfl

theorem reopenCheck_eq (q : Tier) : s.reopenCheck q =
    if (s.context q).isOpen then (s.abandon .sequence q).raiseNotice (.sequenceFault q .reopen)
    else s.abandon .sequence q := rfl

theorem mem_moreUrgentThan {z q : Tier} : z ∈ moreUrgentThan q ↔ z.moreUrgent q = true := by
  have hz : z ∈ Tier.all := by cases z <;> decide
  simp [moreUrgentThan, hz]

/-- After the nesting check the more urgent contexts are CLOSED and the others stand. -/
theorem nestingCheck_contexts (hhold : s.ContextsHold) (q z : Tier) :
    (s.nestingCheck q).context z = if z.moreUrgent q then .closed else s.context z := by
  have hrx : (s.nestingCheck q).rx = (s.nested q).rx := by
    rw [nestingCheck_eq]
    split
    · exact raiseNotice_rx _ _
    · rfl
  rw [context_of_rx hrx, (nested_abandons hhold q).1 z]
  simp only [mem_moreUrgentThan]

theorem openContext_context_self (q : Tier) : (s.openContext q).context q =
    .opened { handle := none, tag := none, declared := none, received := 0, expected := 0, mgmt := false } :=
  setContext_context_self ..

theorem openContext_context_other {q z : Tier} (hz : z ≠ q) : (s.openContext q).context z = s.context z :=
  setContext_context_other s _ hz

end State

open State in
/-- Settles O40: the receiver's four parts in order, each by its own lemma. -/
theorem openFirstOpensTheContext : Obligations.OpenFirstOpensTheContext := by
  intro q s hs hl hr hh hup
  have hv := orderly_validSymbol (orderly_of hs hl hr hh)
  have hf : s.validSymbol.FragmentOk := (receiverOk_iff.1 hr).1
  have ha := keeps_slip.orderly (Z := []) hv
  have hhold := contextsHold_of_orderly ha
  have hw := (keeps_nestingCheck q slip_fragment).orderly (Z := []) ha
  have hslip := slips_slip hf (contextsHold_of_orderly hv).unstreamed
  have hexec : exec (.openFirst q) s = .next ((s.validSymbol.slip.nestingCheck q).reopenCheck q |>.openContext q).settle :=
    congrArg _ (trunkSymbol_of_up hl hup fun s => s.receiveOpenFirst q)
  generalize s.validSymbol.slip = a at ha hhold hw hslip hexec
  have hctx := nestingCheck_contexts hhold q
  have hreopen := abandons_abandon (contextsHold_of_orderly hw).unstreamed .sequence q
  have hfirst := nestingCheck_eq (s := a) q
  have hlast := reopenCheck_eq (s := a.nestingCheck q) q
  have hopen (z : Tier) (hz : z ≠ q) : (((a.nestingCheck q).reopenCheck q).openContext q).context z =
      if z.moreUrgent q then .closed else a.context z := by
    rw [openContext_context_other hz, context_of_rx (reopenCheck_rx q), abandon_context_other .sequence hz, hctx]
  refine ⟨s.validSymbol, a, a.nested q, a.nestingCheck q, (a.nestingCheck q).abandon .sequence q,
    (a.nestingCheck q).reopenCheck q, ((a.nestingCheck q).reopenCheck q).openContext q, hexec, rfl,
    changesOnly_validSymbol, hslip, nested_abandons hhold q, changesOnly_nested q, hfirst, hreopen,
    (lawful_abandon .sequence q).frame, hlast, openContext_context_self q, fun z => ?_, rfl, ?_⟩
  · split
    case isTrue hz => rw [hz]
    case isFalse hz => exact hopen z hz
  · exact (lawful_openContext q).frame

namespace State

/-! ## The index check (R133, R134) -/

theorem indexCheck_of_expected {q : Tier} {i : FragIx} {a : Assembly} (ha : s.context q = .opened a)
    (hi : a.expected = i) : s.indexCheck q i = s := by simp [indexCheck, ha, hi]

theorem indexCheck_of_discarding {q : Tier} {g : GivenUp} (hg : s.context q = .discarding g) (i : FragIx) :
    s.indexCheck q i = s.setContext q (.discarding { g with expected := i }) := by simp [indexCheck, hg]

/-- A fragment with another index: the frame is given up, and the index received is the one expected (R134). -/
theorem indexCheck_of_other {q : Tier} {i : FragIx} {a : Assembly} (ha : s.context q = .opened a)
    (hi : a.expected ≠ i) (hn : s.ContextsUnstreamed) :
    ∃ x, GivesUp q .sequence i s x ∧ ChangesOnly contextBlocks s x ∧
      s.indexCheck q i = x.raiseNotice (.sequenceFault q .gap) := by
  obtain ⟨g, hg, hgives⟩ := (givesUp_giveUp .sequence ha hn).reindex i
  refine ⟨_, hgives, ?_, ?_⟩
  · exact (lawful_giveUp q .sequence).frame.trans ((lawful_setContext q _).frame.mono (by decide))
  · simp only [indexCheck, ha, if_neg hi, hg]

theorem receiveOpenNext_of_closed {q : Tier} (h : s.slip.context q = .closed) (i : FragIx) :
    s.receiveOpenNext q i = (s.slip.raiseNotice (.sequenceFault q .orphan)).setFragment
      (some (newFragment q .next .ignored)) := by simp [receiveOpenNext, h]

theorem receiveOpenNext_of_not_closed {q : Tier} (h : s.slip.context q ≠ .closed) (i : FragIx) :
    s.receiveOpenNext q i = ((s.slip.nestingCheck q).indexCheck q i).setFragment
      (some (newFragment q .next (((s.slip.nestingCheck q).indexCheck q i).nextMode q))) := by
  cases hc : s.slip.context q <;> simp_all [receiveOpenNext]

/-- What a continuation of a context that is not CLOSED does after the nesting check (R134 steps 3 and 4). -/
theorem continues_spec {q : Tier} (hn : s.ContextsUnstreamed) (hc : s.context q ≠ .closed) (i : FragIx)
    (hu : u = (s.indexCheck q i).setFragment (some (newFragment q .next ((s.indexCheck q i).nextMode q)))) :
    ∃ x y, (∀ z, z ≠ q → u.context z = s.context z) ∧
      (∀ g, s.context q = .opened g → g.expected = i → y = s ∧ u.context q = .opened g) ∧
      (∀ g, s.context q = .opened g → g.expected ≠ i →
        GivesUp q .sequence i s x ∧ ChangesOnly contextBlocks s x ∧
        y = x.raiseNotice (.sequenceFault q .gap) ∧ u.context q = x.context q) ∧
      (∀ g, s.context q = .discarding g → y = s ∧ u.context q = .discarding { g with expected := i }) ∧
      u.rx.fragment = some { tier := q, kind := .next, header := [], hold := [], check := fragmentStart
                             mode := if (u.context q).isOpen then .storing else .tracking } ∧
      ChangesOnly [.rx] y u := by
  have hctx (z : Tier) : u.context z = (s.indexCheck q i).context z := by rw [hu]; rfl
  have hframe : ChangesOnly [.rx] (s.indexCheck q i) u := hu ▸ changesOnly_setFragment _
  have hfrag : u.rx.fragment = some { tier := q, kind := .next, header := [], hold := [], check := fragmentStart
                                      mode := if (u.context q).isOpen then .storing else .tracking } := by
    rw [hctx, hu]
    rfl
  cases hq : s.context q with
  | closed => exact absurd hq hc
  | discarding g =>
    have he := indexCheck_of_discarding hq i
    refine ⟨s, s, fun z hz => ?_, nofun, nofun, fun g' hg => ⟨rfl, ?_⟩, hfrag,
      ((lawful_setContext (s := s) q _).frame).trans (he ▸ hframe)⟩
    · rw [hctx, he, setContext_context_other _ _ hz]
    · cases hg
      rw [hctx, he, setContext_context_self]
  | opened a =>
    by_cases hi : a.expected = i
    · have he := indexCheck_of_expected hq hi
      refine ⟨s, s, fun z _ => by rw [hctx, he], fun g hg _ => ⟨rfl, by rw [hctx, he, hq, hg]⟩,
        fun g hg hne => ?_, nofun, hfrag, he ▸ hframe⟩
      cases hg
      exact absurd hi hne
    · obtain ⟨x, hx, hxframe, he⟩ := indexCheck_of_other hq hi hn
      have hxctx (z : Tier) : u.context z = x.context z := by rw [hctx, he, context_of_rx (raiseNotice_rx _ _)]
      refine ⟨x, _, fun z hz => ?_, fun g hg h => ?_, fun g hg hne => ⟨hx, hxframe, rfl, hxctx q⟩, nofun, hfrag,
        he ▸ hframe⟩
      · obtain ⟨-, -, -, hother, -⟩ := hx
        rw [hxctx, hother z hz]
      · cases hg
        exact absurd h hi

end State

open State in
/-- Settles O41, by whether the context is CLOSED after the slip. -/
theorem openNextContinuesTheContext : Obligations.OpenNextContinuesTheContext := by
  intro q i s hs hl hr hh hup
  have hv := orderly_validSymbol (orderly_of hs hl hr hh)
  have hf : s.validSymbol.FragmentOk := (receiverOk_iff.1 hr).1
  have ha := keeps_slip.orderly (Z := []) hv
  have hhold := contextsHold_of_orderly ha
  have hw := contextsHold_of_orderly ((keeps_nestingCheck q slip_fragment).orderly (Z := []) ha)
  refine ⟨s.validSymbol, s.validSymbol.slip, s.validSymbol.receiveOpenNext q i,
    congrArg _ (trunkSymbol_of_up hl hup fun s => s.receiveOpenNext q i), rfl, changesOnly_validSymbol,
    slips_slip hf (contextsHold_of_orderly hv).unstreamed, fun hc => ?_, fun hc => ?_⟩
  · rw [receiveOpenNext_of_closed hc]
    exact ⟨fun z => context_of_rx (raiseNotice_rx _ _) z, changesOnly_setFragment _, rfl⟩
  · have hu := receiveOpenNext_of_not_closed hc i
    generalize s.validSymbol.receiveOpenNext q i = u at hu
    generalize s.validSymbol.slip = a at *
    have hfirst := nestingCheck_eq (s := a) q
    have hctx := nestingCheck_contexts hhold q
    have hwq : (a.nestingCheck q).context q ≠ .closed := by rwa [nestingCheck_context]
    obtain ⟨x, y, hother, hexp, hgap, hdisc, hfrag, hframe⟩ := continues_spec hw.unstreamed hwq i hu
    refine ⟨a.nested q, a.nestingCheck q, x, y, nested_abandons hhold q, changesOnly_nested q, hfirst, fun z => ?_, hexp,
      hgap, hdisc, hfrag, hframe⟩
    split
    case isTrue hz => rw [hz]
    case isFalse hz => rw [hother z hz, hctx]

end Sys2Proof.Machine
end

section
/-! PROOFS. The four header octets of a first fragment (O42). -/

namespace Sys2Proof.Machine

variable {s t u : State}

/-- The fragment with one header octet more (R132). -/
def RxFragment.headed (f : RxFragment) (b : Byte) : RxFragment :=
  { f with header := f.header ++ [b], check := checkOctet fragmentGenerator f.check b }

/-- The fragment in TRACKING (R128). -/
def RxFragment.tracked (f : RxFragment) : RxFragment := { f with mode := .tracking }

namespace State

/-! ## A context given up (R127) -/

theorem freeHandle_buf_congr (h : t.buf = s.buf) (k : Nat) : (t.freeHandle k).buf = (s.freeHandle k).buf := by
  simp [freeHandle, h]

theorem giveUp_unheld {q : Tier} {a : Assembly} (hq : s.context q = .opened a) (ha : a.handle = none) (c : Cause) :
    s.giveUp q c = (s.discarding q a c).countDiscard c none := by
  rw [giveUp_opened hq, discardAssembly_of_none ha]

theorem giveUp_discarded {q : Tier} {a : Assembly} {h : Nat} (hq : s.context q = .opened a) (ha : a.handle = some h)
    (c : Cause) : Discarded s (s.giveUp q c) c h ∧ (s.giveUp q c).buf = (s.freeHandle h).buf := by
  have hframe : ChangesOnly [.rx] s (s.discarding q a c) := (lawful_discarding ..).frame
  rw [giveUp_opened hq, discardAssembly_of_some ha]
  exact ⟨(discarded_discard c h).of_eq (hframe.buf (by decide)) (hframe.tallies (by decide))
    (hframe.releaseEvents (by decide)), (discard_buf c h).trans (freeHandle_buf_congr (hframe.buf (by decide)) h)⟩

/-- The fragment of the context that is given up goes to TRACKING. -/
theorem giveUp_fragment_own {f : RxFragment} {a : Assembly} (hf : s.rx.fragment = some f) (hm : f.mode = .storing)
    (ha : s.context f.tier = .opened a) (c : Cause) : (s.giveUp f.tier c).rx.fragment = some f.tracked := by
  rw [giveUp_opened ha, (lawful_discardAssembly c a).frame.rx (by decide), discarding_fragment, hf, Option.map_some,
    if_pos ⟨rfl, hm⟩, RxFragment.tracked]

theorem giveUp_context_self {q : Tier} {a : Assembly} (ha : s.context q = .opened a) (c : Cause) :
    (s.giveUp q c).context q = .discarding
      { tag := a.tag, declared := a.declared, expected := a.expected, mgmt := a.mgmt, cause := c } := by
  rw [giveUp_opened ha, context_of_rx ((lawful_discardAssembly c a).frame.rx (by decide)), discarding_context_self]

theorem giveUp_context_other (c : Cause) {q x : Tier} (hx : x ≠ q) : (s.giveUp q c).context x = s.context x := by
  by_cases h : ∃ a, s.context q = .opened a
  · obtain ⟨a, ha⟩ := h
    rw [giveUp_opened ha, context_of_rx ((lawful_discardAssembly c a).frame.rx (by decide)),
      discarding_context_other hx]
  · rw [giveUp_of_not_opened fun a ha => h ⟨a, ha⟩]

/-! ## The declared length (R132, second octet) -/

theorem headerLength_of_bad {d : Nat} (h : d < 8 ∨ 2048 < d) (q : Tier) :
    s.headerLength q d = s.giveUp q .frameCheck := if_pos h

theorem headerLength_of_good {q : Tier} {a : Assembly} {d : Nat} (ha : s.context q = .opened a) (h1 : 8 ≤ d)
    (h2 : d ≤ 2048) : s.headerLength q d = s.setContext q (.opened { a with declared := some d }) := by
  have hgood : ¬ (d < Config.minBody ∨ Config.maxBody < d) := by
    simp only [Config.minBody, Config.maxBody]
    omega
  rw [headerLength, if_neg hgood, ha]

/-! ## The tag and the claims of its kind (R132, fourth octet) -/

section HeaderTag

variable {q : Tier} {a : Assembly} {tag : Tag}

/-- The state in which the tag's handle is claimed. -/
def tagArrived (s : State) (q : Tier) (a : Assembly) (tag : Tag) : State :=
  s.setContext q (.opened { a with tag := some tag, mgmt := addressesPart s.part.node tag })

/-- The state in which the tag's cell is claimed. -/
def tagHeld (s : State) (q : Tier) (a : Assembly) (tag : Tag) : State :=
  (s.tagArrived q a tag).setHandle s.lowestHandle (Handle.granted (.reassembly q) tag q none)

theorem headerTag_of_noHandle (hq : s.context q = .opened a)
    (hg : ¬ s.handleGranted (addressesPart s.part.node tag) = true) :
    s.headerTag q tag = (s.tagArrived q a tag).giveUp q .noHandle := by
  have hclaim : (s.tagArrived q a tag).claimHandle (addressesPart s.part.node tag) (.reassembly q) tag q none = none :=
    claimHandle_refused hg
  rw [tagArrived] at hclaim ⊢
  simp only [headerTag, hq, hclaim]

theorem claim_tagHeld (hg : s.handleGranted (addressesPart s.part.node tag) = true) :
    (s.tagArrived q a tag).claimHandle (addressesPart s.part.node tag) (.reassembly q) tag q none =
      some (s.lowestHandle, s.tagHeld q a tag) := claimHandle_granted (s := s.tagArrived q a tag) _ _ _ _ hg

theorem headerTag_of_refused (hq : s.context q = .opened a)
    (hg : s.handleGranted (addressesPart s.part.node tag) = true) {v : State}
    (hv : (s.tagHeld q a tag).appendOctets (addressesPart s.part.node tag) s.lowestHandle (octets2 tag) = (false, v)) :
    s.headerTag q tag = (v.setContext q (.opened { a with
      tag := some tag, mgmt := addressesPart s.part.node tag, handle := some s.lowestHandle })).giveUp q .noCell := by
  have hclaim := claim_tagHeld (q := q) (a := a) hg
  rw [tagArrived] at hclaim
  simp only [headerTag, hq, hclaim, hv]

theorem headerTag_of_stored (hq : s.context q = .opened a)
    (hg : s.handleGranted (addressesPart s.part.node tag) = true) {v : State}
    (hv : (s.tagHeld q a tag).appendOctets (addressesPart s.part.node tag) s.lowestHandle (octets2 tag) = (true, v)) :
    s.headerTag q tag = v.setContext q (.opened { a with
      tag := some tag, mgmt := addressesPart s.part.node tag, handle := some s.lowestHandle, received := 2 }) := by
  have hclaim := claim_tagHeld (q := q) (a := a) hg
  rw [tagArrived] at hclaim
  simp only [headerTag, hq, hclaim, hv]

/-! The frame of a tag that is given up: its context, the fragment and the count. -/

section Refused

variable {f : RxFragment} (hf : s.rx.fragment = some f) (hm : f.mode = .storing) (hq : s.context f.tier = .opened a)
include hf hm hq

theorem headerTag_noHandle (ha : a.handle = none) (hg : ¬ s.handleGranted (addressesPart s.part.node tag) = true) :
    (s.headerTag f.tier tag).rx.fragment = some f.tracked ∧ (s.headerTag f.tier tag).buf = s.buf ∧
    Counted s (s.headerTag f.tier tag) .noHandle none ∧
    (s.headerTag f.tier tag).context f.tier = .discarding
      { tag := some tag, declared := a.declared, expected := a.expected
        mgmt := addressesPart s.part.node tag, cause := .noHandle } ∧
    ∀ w, w ≠ f.tier → (s.headerTag f.tier tag).context w = s.context w := by
  have hctx : (s.tagArrived f.tier a tag).context f.tier = _ := setContext_context_self ..
  have heq := giveUp_unheld hctx (by exact ha) .noHandle
  rw [headerTag_of_noHandle hq hg]
  refine ⟨giveUp_fragment_own (s := s.tagArrived f.tier a tag) hf hm hctx _, ?_, ?_, giveUp_context_self hctx _,
    fun w hw => (giveUp_context_other _ hw).trans (setContext_context_other _ _ hw)⟩
  · rw [heq, countDiscard_buf, (lawful_discarding f.tier _ .noHandle).frame.buf (by decide)]
    rfl
  · rw [heq]
    exact (counted_countDiscard _ none).of_eq ((lawful_discarding f.tier _ .noHandle).frame.tallies (by decide))

theorem headerTag_noCell (hg : s.handleGranted (addressesPart s.part.node tag) = true)
    (hc : ¬ s.cellGranted (addressesPart s.part.node tag) = true) :
    (s.headerTag f.tier tag).rx.fragment = some f.tracked ∧ (s.headerTag f.tier tag).buf = s.buf ∧
    Counted s (s.headerTag f.tier tag) .noCell none ∧
    (s.headerTag f.tier tag).releaseEvents = s.releaseEvents + 1 ∧
    (s.headerTag f.tier tag).context f.tier = .discarding
      { tag := some tag, declared := a.declared, expected := a.expected
        mgmt := addressesPart s.part.node tag, cause := .noCell } ∧
    ∀ w, w ≠ f.tier → (s.headerTag f.tier tag).context w = s.context w := by
  have hpos := freeHandles_pos_of_granted hg
  have hcells : (s.tagHeld f.tier a tag).heldCells = s.heldCells := flatMap_put_new rfl (lowestHandle_not_mem hpos)
  have hr : (s.tagHeld f.tier a tag).handle? s.lowestHandle =
      some (Handle.granted (.reassembly f.tier) tag f.tier none) :=
    setHandle_handle?_self ..
  have hng : (s.tagHeld f.tier a tag).cellGranted (addressesPart s.part.node tag) = false := by
    rw [cellGranted_of_heldCells hcells]
    exact Bool.eq_false_iff.2 hc
  have hctx : ((s.tagHeld f.tier a tag).setContext f.tier (.opened { a with
      tag := some tag, mgmt := addressesPart s.part.node tag, handle := some s.lowestHandle })).context f.tier = _ :=
    setContext_context_self ..
  rw [headerTag_of_refused hq hg (appendPair_refused (tag.extractLsb' 8 8) (tag.extractLsb' 0 8) hr rfl hng)]
  generalize hx : (s.tagHeld f.tier a tag).setContext f.tier (.opened { a with
    tag := some tag, mgmt := addressesPart s.part.node tag, handle := some s.lowestHandle }) = x at *
  have hxbuf : x.buf = (s.tagHeld f.tier a tag).buf := by rw [← hx]; rfl
  obtain ⟨⟨-, -, -, hcount, hev⟩, hbuf⟩ := giveUp_discarded hctx rfl .noCell
  have hstream : x.streamOf s.lowestHandle = none := by
    rw [streamOf_of_buf hxbuf, streamOf, hr]
    rfl
  rw [hstream] at hcount
  refine ⟨giveUp_fragment_own (by rw [← hx]; exact hf) hm hctx _, ?_, hcount.of_eq (by rw [← hx]; rfl),
    hev.trans (by rw [← hx]; rfl), giveUp_context_self hctx _, fun w hw => ?_⟩
  · rw [hbuf, freeHandle_buf_congr hxbuf]
    exact freeHandle_setHandle_new hpos
  · rw [giveUp_context_other _ hw, ← hx, setContext_context_other _ _ hw]
    exact setContext_context_other s _ hw

end Refused

/-- With its claims granted the frame is in REASSEMBLY, with its tag the first two octets of its first cell. -/
theorem headerTag_granted (hs : StoresOk s) (x y : Byte) (hq : s.context q = .opened a)
    (hg : s.handleGranted (addressesPart s.part.node (x ++ y)) = true)
    (hc : s.cellGranted (addressesPart s.part.node (x ++ y)) = true) :
    (s.headerTag q (x ++ y)).handle? s.lowestHandle = some { Handle.granted (.reassembly q) (x ++ y) q none with
      bodyLength := 2, chain := [s.lowestCell] } ∧
    (s.headerTag q (x ++ y)).bodyOf s.lowestHandle = [x, y] ∧ KeepsHandles [s.lowestHandle] s (s.headerTag q (x ++ y)) ∧
    KeepsHeld s (s.headerTag q (x ++ y)) ∧ ChangesOnly [.buf, .rx] s (s.headerTag q (x ++ y)) ∧
    (s.headerTag q (x ++ y)).rx.fragment = s.rx.fragment ∧
    (s.headerTag q (x ++ y)).context q = .opened { a with
      tag := some (x ++ y), mgmt := addressesPart s.part.node (x ++ y), handle := some s.lowestHandle, received := 2 } ∧
    ∀ w, w ≠ q → (s.headerTag q (x ++ y)).context w = s.context w := by
  have hpos := freeHandles_pos_of_granted hg
  obtain ⟨hs1, hcells, -⟩ := storesOk_newHandle hs (r := Handle.granted (.reassembly q) (x ++ y) q none) rfl hpos
  have hcells' : (s.tagHeld q a (x ++ y)).heldCells = s.heldCells := hcells
  have hlow : (s.tagHeld q a (x ++ y)).lowestCell = s.lowestCell := by rw [lowestCell, hcells', ← lowestCell]
  obtain ⟨v, hv, -, hr, hbody, hkeep, hframe, hoct⟩ := appendPair_granted (s := s.tagHeld q a (x ++ y)) hs1 x y
    (setHandle_handle?_self ..) rfl rfl ((cellGranted_of_heldCells hcells' _).trans hc)
  rw [hlow] at hr hoct
  have hheld : ChangesOnly [.buf, .rx] s (s.tagHeld q a (x ++ y)) := by simp [ChangesOnly, tagHeld, tagArrived]
  rw [headerTag_of_stored hq hg (by rw [octets2_append]; exact hv)]
  refine ⟨hr, hbody, fun k hk => (hkeep k hk).trans (setHandle_handle?_other _ _ fun e => hk (List.mem_singleton.2 e)),
    fun z hz => ?_, (hheld.trans (hframe.mono (by decide))).trans ((lawful_setContext _ _).frame.mono (by decide)),
    ?_, setContext_context_self .., fun w hw => ?_⟩
  · have hne : z / 64 ≠ s.lowestCell := fun e => lowestCell_free (freeCells_pos_of_granted hc) (e ▸ hz)
    exact hoct z (by omega) (by omega)
  · rw [setContext_fragment, hframe.rx (by decide)]
    rfl
  · rw [setContext_context_other _ _ hw, context_of_rx (hframe.rx (by decide))]
    exact setContext_context_other s _ hw

end HeaderTag

/-! ## Which octet of the header it is -/

theorem receiveData_of_header {f : RxFragment} (hf : s.rx.fragment = some f) (hk : f.kind = .first)
    (hl : f.header.length < 4) (b : Byte) : s.receiveData b = s.headerOctet f b := by
  simp [receiveData, hf, hk, hl]

theorem headerOctet_of_plain {f : RxFragment} (h : f.mode ≠ .storing ∨ f.header.length = 0 ∨ f.header.length = 2)
    (b : Byte) : s.headerOctet f b = s.setFragment (some (f.headed b)) := by
  rcases h with h | h | h
  · exact if_neg h
  · simp [headerOctet, List.length_eq_zero_iff.1 h, RxFragment.headed]
  · obtain ⟨x, y, hxy⟩ := List.length_eq_two.1 h
    simp [headerOctet, hxy, RxFragment.headed]

theorem headerOctet_of_length {f : RxFragment} {x : Byte} (hm : f.mode = .storing) (hx : f.header = [x]) (b : Byte) :
    s.headerOctet f b = (s.setFragment (some (f.headed b))).headerLength f.tier (x ++ b).toNat := by
  simp [headerOctet, hm, hx, RxFragment.headed, word16]

theorem headerOctet_of_tag {f : RxFragment} {x y z : Byte} (hm : f.mode = .storing) (hx : f.header = [x, y, z])
    (b : Byte) : s.headerOctet f b = (s.setFragment (some (f.headed b))).headerTag f.tier (z ++ b) := by
  simp [headerOctet, hm, hx, RxFragment.headed, word16]

end State

theorem GivesUp.of_setFragment {q : Tier} {c : Cause} {x : FragIx} {f : Option RxFragment} (h : GivesUp q c x t u)
    (ht : s.setFragment f = t) : GivesUp q c x s u := by
  subst ht
  exact h

open State in
/-- Settles O42, by which header octet arrives and, at the second and the fourth, by what it decides. -/
theorem headerOctetsClaimTheHandle : Obligations.HeaderOctetsClaimTheHandle := by
  intro b s f hs hl hr hh hup hf hk hlen
  have hexec : exec (.trunkDataOctet b) s = .next (s.validSymbol.headerOctet f b).settle :=
    congrArg _ ((trunkSymbol_of_up hl hup fun s => s.receiveData b).trans
      (congrArg settle (receiveData_of_header (s := s.validSymbol) hf hk hlen b)))
  have hframe : ChangesOnly contextBlocks s.validSymbol (s.validSymbol.headerOctet f b) :=
    (lawful_headerOctet (s := s.validSymbol) hf hlen b).frame
  have hn : s.validSymbol.ContextsUnstreamed := contextsUnstreamed_of_receiverOk (s := s) hr
  by_cases hplain : f.mode ≠ .storing ∨ f.header.length = 0 ∨ f.header.length = 2
  · rw [headerOctet_of_plain hplain] at hexec hframe
    refine ⟨_, _, f.headed b, hexec, rfl, changesOnly_validSymbol, rfl, rfl, hframe,
      fun _ => ⟨rfl, changesOnly_setFragment _, fun _ => rfl⟩, fun a hm _ => ⟨fun x hx => ?_, fun x hx => ?_,
        fun x y z hx => ?_⟩⟩ <;> simp [hm, hx] at hplain
  · have hm : f.mode = .storing := by
      by_contra hm
      exact hplain (.inl hm)
    have hshape : (∃ x, f.header = [x]) ∨ ∃ x y z, f.header = [x, y, z] := by
      rw [← List.length_eq_one_iff, ← List.length_eq_three]
      have := fun h => hplain (.inr h)
      omega
    have hrec := (receiverOk_iff.1 hr).1.1 f hf
    rw [hm] at hrec
    obtain ⟨a, ha, hnone, -⟩ := hrec
    have hnone := hnone hk hlen
    generalize hw : s.validSymbol.setFragment (some (f.headed b)) = w
    have hwf : w.rx.fragment = some (f.headed b) := by rw [← hw]; rfl
    have hwa : w.context f.tier = .opened a := by rw [← hw]; exact ha
    have hvw : ChangesOnly [.rx] s.validSymbol w := hw ▸ changesOnly_setFragment _
    have hwn : w.ContextsUnstreamed := by rw [← hw]; exact hn
    have hbuf : w.buf = s.buf := by rw [← hw]; rfl
    have hctx (q : Tier) : w.context q = s.context q := by rw [← hw]; rfl
    rcases hshape with ⟨x, hx⟩ | ⟨x, y, z, hx⟩
    · rw [headerOctet_of_length hm hx, hw] at hexec hframe
      by_cases hbad : (x ++ b).toNat < 8 ∨ 2048 < (x ++ b).toNat
      · rw [headerLength_of_bad hbad] at hexec hframe
        have hgives : GivesUp f.tier .frameCheck a.expected s.validSymbol (w.giveUp f.tier .frameCheck) :=
          (givesUp_giveUp .frameCheck hwa hwn).of_setFragment hw
        refine ⟨_, _, (f.headed b).tracked, hexec, rfl, changesOnly_validSymbol, giveUp_fragment_own hwf hm hwa _, rfl,
          hframe, fun h => absurd h hplain, fun a' _ ha' => ⟨fun x' hx' h1 h2 => ?_, fun x' hx' _ => ⟨rfl, ?_⟩,
            fun x' y' z' hx' => (nomatch hx.symm.trans hx')⟩⟩
        · cases hx.symm.trans hx'
          omega
        · cases ha.symm.trans ha'
          exact hgives
      · rw [headerLength_of_good hwa (by omega) (by omega)] at hexec hframe
        refine ⟨_, _, f.headed b, hexec, rfl, changesOnly_validSymbol, hwf, rfl,
          hframe, fun h => absurd h hplain, fun a' _ ha' => ⟨fun x' hx' h1 h2 => ⟨hm, ?_, ?_, fun q hq => ?_⟩,
            fun x' hx' hbad' => ?_, fun x' y' z' hx' => (nomatch hx.symm.trans hx')⟩⟩
        · exact hvw.trans (lawful_setContext ..).frame
        · cases ha.symm.trans ha'
          cases hx.symm.trans hx'
          exact setContext_context_self ..
        · rw [setContext_context_other _ _ hq, hctx]
        · cases hx.symm.trans hx'
          exact absurd hbad' hbad
    · rw [headerOctet_of_tag hm hx, hw] at hexec hframe
      have hpart : w.part = s.part := by rw [← hw]; rfl
      have hhandle {m : Bool} : w.handleGranted m = true ↔ if m then 1 ≤ s.freeHandles else 16 < s.freeHandles := by
        rw [← hw]
        exact handleGranted_iff (s := s)
      have hcell {m : Bool} : w.cellGranted m = true ↔ if m then 1 ≤ s.freeCells else 128 < s.freeCells := by
        rw [← hw]
        exact cellGranted_iff (s := s)
      rw [← hpart]
      by_cases hg : w.handleGranted (addressesPart w.part.node (z ++ b)) = true
      · by_cases hc : w.cellGranted (addressesPart w.part.node (z ++ b)) = true
        · obtain ⟨hr, hbody, hkeep, hheld, hchange, hfrag, hself, hother⟩ :=
            headerTag_granted (by rw [← hw]; exact hs) z b hwa hg hc
          have hlow : w.lowestHandle = s.lowestHandle := by rw [← hw]; rfl
          rw [hlow] at hr hbody hkeep hself
          refine ⟨_, _, f.headed b, hexec, rfl, changesOnly_validSymbol, hfrag.trans hwf, rfl, hframe,
            fun h => absurd h hplain, fun a' _ ha' => ⟨fun x' hx' => (nomatch hx.symm.trans hx'),
              fun x' hx' => (nomatch hx.symm.trans hx'), fun x' y' z' hx' => ?_⟩⟩
          cases hx.symm.trans hx'
          cases ha.symm.trans ha'
          have hheldw : w.heldCells = s.heldCells := by rw [← hw]; rfl
          have hfree : 1 ≤ w.freeHandles := freeHandles_pos_of_granted hg
          refine ⟨fun h => absurd (hhandle.1 hg) h, fun _ h => absurd (hcell.1 hc) h,
            fun _ _ => ⟨hm, s.lowestHandle, w.lowestCell, lowestHandle_free (by rw [← hw] at hfree; exact hfree),
              fun k hk => handle?_of_lt_lowestHandle hs hk, hheldw ▸ lowestCell_free (freeCells_pos_of_granted hc), hr,
              hbody, fun k hk => (hkeep k hk).trans (handle?_of_buf hbuf k), fun x hx => ?_,
              (hvw.mono (by decide)).trans hchange, hself⟩,
            fun q hq => (hother q hq).trans (hctx q)⟩
          exact (hheld x (hheldw ▸ hx)).trans (by rw [hbuf])
        · obtain ⟨hfrag, hb, hcount, hev, hself, hother⟩ := headerTag_noCell hwf hm hwa hg hc
          refine ⟨_, _, (f.headed b).tracked, hexec, rfl, changesOnly_validSymbol, hfrag, rfl, hframe,
            fun h => absurd h hplain, fun a' _ ha' => ⟨fun x' hx' => (nomatch hx.symm.trans hx'),
              fun x' hx' => (nomatch hx.symm.trans hx'), fun x' y' z' hx' => ?_⟩⟩
          cases hx.symm.trans hx'
          cases ha.symm.trans ha'
          exact ⟨fun h => absurd (hhandle.1 hg) h,
            fun _ _ => ⟨rfl, hb.trans hbuf, hcount.of_eq (hvw.tallies (by decide)),
              hev.trans (congrArg (· + 1) (hvw.releaseEvents (by decide))), hself⟩,
            fun _ h => absurd (hcell.2 h) hc,
            fun q hq => (hother q hq).trans (hctx q)⟩
      · obtain ⟨hfrag, hb, hcount, hself, hother⟩ := headerTag_noHandle hwf hm hwa hnone hg
        refine ⟨_, _, (f.headed b).tracked, hexec, rfl, changesOnly_validSymbol, hfrag, rfl, hframe,
          fun h => absurd h hplain, fun a' _ ha' => ⟨fun x' hx' => (nomatch hx.symm.trans hx'),
            fun x' hx' => (nomatch hx.symm.trans hx'), fun x' y' z' hx' => ?_⟩⟩
        cases hx.symm.trans hx'
        cases ha.symm.trans ha'
        exact ⟨fun _ => ⟨rfl, hb.trans hbuf, hcount.of_eq (hvw.tallies (by decide)), hself⟩,
          fun h => absurd (hhandle.2 h) hg, fun h => absurd (hhandle.2 h) hg,
          fun q hq => (hother q hq).trans (hctx q)⟩

end Sys2Proof.Machine
end

section
/-! PROOFS. Data octets at the receiver (O43). -/

namespace Sys2Proof.Machine

variable {s t u : State}

/-- The fragment whose oldest held octet `x` has left a full hold-back for a new one (R135). -/
def RxFragment.shifted (f : RxFragment) (x : Byte) (rest : List Byte) (b : Byte) : RxFragment :=
  { f with hold := rest ++ [b], check := checkOctet fragmentGenerator f.check x }

namespace State

theorem fits_of_chainsFit (hfit : ChainsFit s) {h : Nat} {r : Handle} (hr : s.handle? h = some r) : Fits r := by
  have hlen : r.chain.length = cellsFor r.bodyLength := hfit (h, r) (mem_of_handle? hr)
  rw [Fits, hlen]
  exact cellsFor_mul _

/-! ## The hold-back (R135) -/

section Fragment

variable {f : RxFragment} (hf : s.rx.fragment = some f) (hk : f.kind = .next ∨ f.header.length = 4)
include hf hk

theorem receiveData_of_short (hl : f.hold.length < 6) (b : Byte) :
    s.receiveData b = s.setFragment (some { f with hold := f.hold ++ [b] }) := by
  have hbody : ¬ (f.kind = .first ∧ f.header.length < 4) := by
    rintro ⟨h1, h2⟩
    rcases hk with hk | hk
    · rw [h1] at hk; cases hk
    · omega
  simp only [receiveData, hf, if_neg hbody]
  cases hh : f.hold with
  | nil => rfl
  | cons x rest => exact if_pos (by rw [← hh]; exact hl)

theorem receiveData_of_full {x : Byte} {rest : List Byte} (hx : f.hold = x :: rest) (hl : rest.length = 5) (b : Byte) :
    s.receiveData b = if f.mode = .storing then (s.setFragment (some (f.shifted x rest b))).storeData f.tier x
      else s.setFragment (some (f.shifted x rest b)) := by
  have hbody : ¬ (f.kind = .first ∧ f.header.length < 4) := by
    rintro ⟨h1, h2⟩
    rcases hk with hk | hk
    · rw [h1] at hk; cases hk
    · omega
  simp [receiveData, hf, hbody, hx, hl, Config.trunkHold, RxFragment.shifted]

end Fragment

/-! ## One octet of data (R135) -/

section StoreData

variable {q : Tier} {a : Assembly} {h d : Nat} {b : Byte} (hq : s.context q = .opened a) (ha : a.handle = some h)
  (hd : a.declared = some d)
include hq ha hd

theorem storeData_of_length (he : a.received = d) : s.storeData q b = s.giveUp q .frameCheck := by
  simp [storeData, hq, ha, hd, he]

theorem storeData_of_refused (hne : a.received ≠ d) (hn : s.appendOctet a.mgmt h b = none) :
    s.storeData q b = s.giveUp q .noCell := by
  simp [storeData, hq, ha, hd, hne, hn]

theorem storeData_of_stored (hne : a.received ≠ d) (ht : s.appendOctet a.mgmt h b = some t) :
    s.storeData q b = t.setContext q (.opened { a with received := a.received + 1 }) := by
  simp [storeData, hq, ha, hd, hne, ht]

end StoreData

end State

open State in
/-- Settles O43, by the hold-back, the fragment's mode, and whether the octet is stored or refused. -/
theorem dataOctetsAreReassembled : Obligations.DataOctetsAreReassembled := by
  intro b s hs hl hr hh hfit hup
  have hexec := trunkSymbol_of_up hl hup fun s => s.receiveData b
  have hn : s.validSymbol.ContextsUnstreamed := contextsUnstreamed_of_receiverOk (s := s) hr
  refine ⟨s.validSymbol, rfl, changesOnly_validSymbol, fun hf => ?_, fun f hf hk hlen => ⟨fun hshort => ?_,
    fun x rest hx hrest => ?_⟩⟩
  · have hnone : s.validSymbol.receiveData b = s.validSymbol := by
      have : s.validSymbol.rx.fragment = none := hf
      simp [receiveData, this]
    exact congrArg _ (hexec.trans (congrArg settle hnone))
  · refine ⟨_, congrArg _ (hexec.trans (congrArg settle (receiveData_of_short (s := s.validSymbol) hf hk hshort b))),
      changesOnly_setFragment _, rfl, fun _ => rfl⟩
  · have heq := receiveData_of_full (s := s.validSymbol) hf hk hx hrest b
    generalize hw : s.validSymbol.setFragment (some (f.shifted x rest b)) = w at heq
    have hvw : ChangesOnly [.rx] s.validSymbol w := hw ▸ changesOnly_setFragment _
    have hwf : w.rx.fragment = some (f.shifted x rest b) := by rw [← hw]; rfl
    have hctx (q : Tier) : w.context q = s.context q := by rw [← hw]; rfl
    by_cases hm : f.mode = .storing
    · rw [if_pos hm] at heq
      have hexec' : exec (.trunkDataOctet b) s = .next (w.storeData f.tier x).settle :=
        congrArg _ (hexec.trans (congrArg settle heq))
      have hrec := (receiverOk_iff.1 hr).1.1 f hf
      rw [hm] at hrec
      obtain ⟨a, ha, -, -, hfull⟩ := hrec
      obtain ⟨hhandle, hdecl, -⟩ := hfull hk
      obtain ⟨h, hah⟩ := Option.ne_none_iff_exists'.1 hhandle
      obtain ⟨d, had⟩ := Option.ne_none_iff_exists'.1 hdecl
      obtain ⟨r, hrec, -, -⟩ := contextsHold hr hh _ a h ha hah
      obtain ⟨-, -, hlenr, -⟩ := (hr.2.2 f.tier a ha).2.2 h r hah hrec
      have hwa : w.context f.tier = .opened a := (hctx _).trans ha
      have hws : StoresOk w := by rw [← hw]; exact hs
      have hwr : w.handle? h = some r := by rw [← hw]; exact hrec
      have hwn : w.ContextsUnstreamed := by rw [← hw]; exact hn
      have hcell : w.cellGranted a.mgmt = true ↔ if a.mgmt then 1 ≤ s.freeCells else 128 < s.freeCells := by
        rw [← hw]
        exact cellGranted_iff (s := s)
      have hgives (c : Cause) : GivesUp f.tier c a.expected s.validSymbol (w.giveUp f.tier c) ∧
          ChangesOnly contextBlocks s.validSymbol (w.giveUp f.tier c) :=
        ⟨(givesUp_giveUp c hwa hwn).of_setFragment hw, (hvw.mono (by decide)).trans (lawful_giveUp f.tier c).frame⟩
      by_cases hd : a.received = d
      · rw [storeData_of_length hwa hah had hd] at hexec'
        refine ⟨_, (f.shifted x rest b).tracked, hexec', giveUp_fragment_own hwf hm hwa _, rfl,
          fun h => absurd hm h, fun a' h' d' r' _ ha' hah' had' hr' => ?_⟩
        cases ha.symm.trans ha'
        cases had.symm.trans had'
        exact ⟨fun _ => ⟨rfl, hgives _⟩, fun h => absurd hd h, fun h => absurd hd h⟩
      · by_cases hc : a.received % 64 = 0 ∧ ¬ w.cellGranted a.mgmt = true
        · have hnone : w.appendOctet a.mgmt h x = none :=
            (appendOctet_none hwr).2 ⟨by rw [hlenr]; exact hc.1, Bool.eq_false_iff.2 hc.2⟩
          rw [storeData_of_refused hwa hah had hd hnone] at hexec'
          refine ⟨_, (f.shifted x rest b).tracked, hexec', giveUp_fragment_own hwf hm hwa _, rfl,
            fun h => absurd hm h, fun a' h' d' r' _ ha' hah' had' hr' => ?_⟩
          cases ha.symm.trans ha'
          cases had.symm.trans had'
          exact ⟨fun h => absurd h hd, fun _ _ _ => ⟨rfl, hgives _⟩, fun _ h => absurd (hcell.2 (h hc.1)) hc.2⟩
        · have hgrant : r.bodyLength % 64 = 0 → w.cellGranted a.mgmt = true := fun hz => by
            rw [hlenr] at hz
            by_contra h
            exact hc ⟨hz, h⟩
          have hfits : r.chain.length = cellsFor r.bodyLength := hfit (h, r) (mem_of_handle? hrec)
          obtain ⟨v, chain, hv, -, hvr, -, -, hbody, hkeep, hframe, -⟩ := appendOctet_stores hws x hwr hfits hgrant
          obtain ⟨-, -, -, -, -, -, -, -, hothers, -⟩ := appendOctet_body hws hwr hfits hv
          have hrx : v.rx = w.rx := hframe.rx (by decide)
          rw [storeData_of_stored hwa hah had hd hv] at hexec'
          refine ⟨_, f.shifted x rest b, hexec', (congrArg Receiver.fragment hrx).trans hwf, rfl,
            fun h => absurd hm h, fun a' h' d' r' _ ha' hah' had' hr' => ?_⟩
          cases ha.symm.trans ha'
          cases had.symm.trans had'
          cases hah.symm.trans hah'
          cases hrec.symm.trans hr'
          refine ⟨fun h => absurd h hd, fun _ hz h => absurd ⟨hz, fun hg => h (hcell.1 hg)⟩ hc, fun _ _ => ⟨hm,
            setContext_context_self .., fun q hq => ?_, ⟨chain, hvr⟩, hbody.trans ?_, fun k hk => ?_, ?_,
            fun k e hk he => ?_⟩⟩
          · rw [setContext_context_other _ _ hq, context_of_rx hrx, hctx]
          · rw [← hw]; rfl
          · exact (hkeep k hk).trans (by rw [← hw]; rfl)
          · exact ((hvw.mono (by decide)).trans (hframe.mono (by decide))).trans
              ((lawful_setContext ..).frame.mono (by decide))
          · exact (hothers k e hk (by rw [← hw]; exact he) (fits_of_chainsFit hfit he)).trans (by rw [← hw]; rfl)
    · rw [if_neg hm] at heq
      refine ⟨w, f.shifted x rest b, congrArg _ (hexec.trans (congrArg settle heq)), hwf, rfl,
        fun _ => ⟨rfl, hvw, hctx⟩, fun a h d r hm' => absurd hm' hm⟩

end Sys2Proof.Machine
end

section
/-! PROOFS. CLOSE MORE at the receiver (O44). -/

namespace Sys2Proof.Machine

variable {s t u : State}

theorem RxFragment.checks_iff {f : RxFragment} {n : Nat} : f.checks n = true ↔
    n ≤ f.hold.length ∧ (f.kind = .next ∨ f.header.length = 4) ∧
      octets2 (fragmentCheckFrom f.check (f.hold.take (f.hold.length - 2))) = f.hold.drop (f.hold.length - 2) := by
  simp [RxFragment.checks, and_assoc]

namespace State

/-! ## The other contexts, and one that is not OPEN -/

theorem storeData_of_not_opened {q : Tier} (h : ∀ a, s.context q ≠ .opened a) (b : Byte) : s.storeData q b = s := by
  cases hc : s.context q with
  | opened a => exact absurd hc (h a)
  | discarding g => simp [storeData, hc]
  | closed => simp [storeData, hc]

theorem storeHeld_of_not_opened {q : Tier} (h : ∀ a, s.context q ≠ .opened a) (l : List Byte) :
    s.storeHeld q l = s := by
  induction l with
  | nil => rfl
  | cons b l ih => rw [storeHeld, storeData_of_not_opened h, ih]

theorem storeData_context_other {q z : Tier} (hz : z ≠ q) (b : Byte) : (s.storeData q b).context z = s.context z := by
  unfold storeData
  split
  · split
    · split
      · exact giveUp_context_other _ hz
      · split
        · exact giveUp_context_other _ hz
        · rename_i ht
          rw [setContext_context_other _ _ hz, context_of_rx ((lawful_appendOctet ht).frame.rx (by decide))]
    · rfl
  · rfl

theorem storeHeld_context_other {q z : Tier} (hz : z ≠ q) (l : List Byte) :
    (s.storeHeld q l).context z = s.context z := by
  induction l generalizing s with
  | nil => rfl
  | cons b l ih => exact ih.trans (storeData_context_other hz b)

theorem storeHeld_append (q : Tier) (l m : List Byte) : s.storeHeld q (l ++ m) = (s.storeHeld q l).storeHeld q m := by
  induction l generalizing s with
  | nil => rfl
  | cons b l ih => exact ih

theorem advanceIndex_opened {q : Tier} {a : Assembly} (hq : s.context q = .opened a) :
    s.advanceIndex q = s.setContext q (.opened { a with expected := a.expected + 1 }) := by simp [advanceIndex, hq]

theorem advanceIndex_discarding {q : Tier} {g : GivenUp} (hq : s.context q = .discarding g) :
    s.advanceIndex q = s.setContext q (.discarding { g with expected := g.expected + 1 }) := by simp [advanceIndex, hq]

theorem advanceIndex_context_other {q z : Tier} (hz : z ≠ q) : (s.advanceIndex q).context z = s.context z := by
  unfold advanceIndex
  split
  · exact setContext_context_other _ _ hz
  · exact setContext_context_other _ _ hz
  · rfl

theorem changesOnly_advanceIndex (q : Tier) : ChangesOnly [.rx] s (s.advanceIndex q) := (lawful_advanceIndex q).frame

/-! ## Held data that is stored in order (R137) -/

/-- An octet that needs no cell claim leaves the cells as they are. -/
theorem cellGranted_of_appendOctet (hs : StoresOk s) {m mgmt : Bool} {h : Nat} {r : Handle} {b : Byte}
    (hr : s.handle? h = some r) (hz : r.bodyLength % 64 ≠ 0) (ht : s.appendOctet m h b = some t) :
    t.cellGranted mgmt = s.cellGranted mgmt := by
  have hne : ¬ r.bodyLength % Config.cellSize = 0 := hz
  simp only [appendOctet, hr, if_neg hne] at ht
  cases ht
  exact cellGranted_of_heldCells (storesOk_storeOctet hs h b).2.1 mgmt

/-- Held octets within the declared length, with the cell that at most one of them claims, are stored in order. -/
theorem storeHeld_stored {q : Tier} {h d : Nat} (l : List Byte) {s : State} {a : Assembly} {r : Handle}
    (hs : StoresOk s) (hq : s.context q = .opened a) (ha : a.handle = some h) (hd : a.declared = some d)
    (hr : s.handle? h = some r) (hlen : r.bodyLength = a.received) (hle : a.received + l.length ≤ d)
    (hl : l.length ≤ 64)
    (hg : ∀ k, k < l.length → (a.received + k) % 64 = 0 → s.cellGranted a.mgmt = true) :
    (s.storeHeld q l).context q = .opened { a with received := a.received + l.length } ∧
    (∃ r', (s.storeHeld q l).handle? h = some r' ∧ r'.stream = r.stream) ∧
    KeepsHandles [h] s (s.storeHeld q l) ∧ ChangesOnly [.buf, .rx] s (s.storeHeld q l) ∧
    (r.chain.length = cellsFor r.bodyLength → (s.storeHeld q l).bodyOf h = s.bodyOf h ++ l) := by
  induction l generalizing s a r with
  | nil => exact ⟨hq, ⟨r, hr, rfl⟩, fun _ _ => rfl, .refl .., fun _ => (List.append_nil _).symm⟩
  | cons b l ih =>
    rw [List.length_cons] at hle hl hg
    have hsome : s.appendOctet a.mgmt h b ≠ none := fun hn => by
      obtain ⟨hz, hng⟩ := (appendOctet_none hr).1 hn
      rw [hg 0 (Nat.succ_pos _) (by rw [← hlen]; exact hz)] at hng
      cases hng
    obtain ⟨v, hv⟩ := Option.ne_none_iff_exists'.1 hsome
    obtain ⟨chain, -, -, hvr, hother, -⟩ := appendOctet_spec hr hv
    have hvl := lawful_appendOctet hv
    have hstep : s.storeData q b = v.setContext q (.opened { a with received := a.received + 1 }) :=
      storeData_of_stored hq ha hd (by omega) hv
    obtain ⟨h1, ⟨r', h2, h3⟩, h4, h5, h6⟩ := ih (s := v.setContext q (.opened { a with received := a.received + 1 }))
      (a := { a with received := a.received + 1 }) (hvl.stores hs) (setContext_context_self ..) ha hd hvr
      (congrArg (· + 1) hlen) (by show a.received + 1 + l.length ≤ d; omega) (by omega) fun k hk hz => by
        have hz' : (a.received + (k + 1)) % 64 = 0 := by rw [← hz]; show _ = (a.received + 1 + k) % 64; congr 1; omega
        have hne : r.bodyLength % 64 ≠ 0 := by rw [hlen]; omega
        exact (cellGranted_of_appendOctet hs hr hne hv).trans (hg (k + 1) (by omega) hz')
    rw [storeHeld, hstep]
    refine ⟨h1.trans ?_, ⟨r', h2, h3⟩, fun k hk => (h4 k hk).trans (hother k fun e => hk (List.mem_singleton.2 e)),
      ((hvl.frame.mono (by decide)).trans ((lawful_setContext ..).frame.mono (by decide))).trans h5, fun hfit => ?_⟩
    · simp [Nat.add_assoc, Nat.add_comm 1]
    · obtain ⟨r'', -, hvr', -, -, hfit', hbody, -⟩ := appendOctet_body hs hr hfit hv
      cases hvr.symm.trans hvr'
      refine (h6 hfit').trans ?_
      show v.bodyOf h ++ l = _
      rw [hbody, List.append_assoc, List.singleton_append]

/-- A frame given up in the middle of the held data disregards the rest, and the context's index advances. -/
theorem storeHeld_givenUp {q : Tier} {a : Assembly} {h : Nat} {r : Handle} {c : Cause} {b : Byte} {l m : List Byte}
    (hq : (s.storeHeld q l).context q = .opened a) (ha : a.handle = some h)
    (hr : (s.storeHeld q l).handle? h = some r) (hn : r.stream = none)
    (hgive : (s.storeHeld q l).storeData q b = (s.storeHeld q l).giveUp q c) :
    ((s.storeHeld q (l ++ b :: m)).advanceIndex q).context q = .discarding
      { tag := a.tag, declared := a.declared, expected := a.expected + 1, mgmt := a.mgmt, cause := c } ∧
    Discarded (s.storeHeld q l) ((s.storeHeld q (l ++ b :: m)).advanceIndex q) c h ∧
    Counted (s.storeHeld q l) ((s.storeHeld q (l ++ b :: m)).advanceIndex q) c none := by
  have hctx := giveUp_context_self hq c
  have heq : s.storeHeld q (l ++ b :: m) = (s.storeHeld q l).giveUp q c := by
    rw [storeHeld_append, storeHeld, hgive, storeHeld_of_not_opened fun b => by rw [hctx]; exact nofun]
  obtain ⟨hdisc, -⟩ := giveUp_discarded hq ha c
  have hframe := changesOnly_advanceIndex (s := s.storeHeld q (l ++ b :: m)) q
  have hdisc' : Discarded (s.storeHeld q l) ((s.storeHeld q (l ++ b :: m)).advanceIndex q) c h :=
    hdisc.congr_right ((hframe.buf (by decide)).trans (by rw [heq])) ((hframe.tallies (by decide)).trans (by rw [heq]))
      ((hframe.releaseEvents (by decide)).trans (by rw [heq]))
  have hstream : (s.storeHeld q l).streamOf h = none := by rw [streamOf, hr]; exact hn
  refine ⟨?_, hdisc', hstream ▸ hdisc'.2.2.2.1⟩
  rw [heq, advanceIndex_discarding hctx, setContext_context_self]

/-! ## The branches of CLOSE MORE -/

section Fragment

variable {f : RxFragment} (hf : s.rx.fragment = some f)
include hf

theorem receiveCloseMore_of_ignored (hm : f.mode = .ignored) : s.receiveCloseMore = s.setFragment none := by
  simp [receiveCloseMore, hf, hm]

theorem receiveCloseMore_of_tracking (hm : f.mode = .tracking) (hc : f.checks 2 = true) :
    s.receiveCloseMore = (s.advanceIndex f.tier).setFragment none := by simp [receiveCloseMore, hf, hm, hc]

theorem receiveCloseMore_of_tracking_bad (hm : f.mode = .tracking) (hc : f.checks 2 = false) :
    s.receiveCloseMore = s.setFragment none := by simp [receiveCloseMore, hf, hm, hc]

theorem receiveCloseMore_of_bad (hm : f.mode = .storing) (hc : f.checks 2 = false) :
    s.receiveCloseMore = (s.giveUp f.tier .fragmentCheck).setFragment none := by simp [receiveCloseMore, hf, hm, hc]

theorem receiveCloseMore_of_good (hm : f.mode = .storing) (hc : f.checks 2 = true) : s.receiveCloseMore =
    ((s.storeHeld f.tier (f.hold.take (f.hold.length - 2))).advanceIndex f.tier).setFragment none := by
  simp [receiveCloseMore, hf, hm, hc]

end Fragment

theorem receiveCloseMore_fragment : s.receiveCloseMore.rx.fragment = none := by
  unfold receiveCloseMore
  split
  · assumption
  · split <;> rfl

/-- What a passing CLOSE MORE of a STORING fragment leaves of its context and its frame (R137). -/
theorem closeMore_good_spec {f : RxFragment} {a : Assembly} {v : State} (hs : StoresOk v) (hh : v.ContextsHold)
    (hr : v.ContextsOk) (ha : v.context f.tier = .opened a)
    (hu : u = ((v.storeHeld f.tier (f.hold.take (f.hold.length - 2))).advanceIndex f.tier).setFragment none) :
    (∀ z, z ≠ f.tier → u.context z = v.context z) ∧
    (f.hold.length = 2 → ChangesOnly [.rx] v u ∧ u.context f.tier = .opened { a with expected := a.expected + 1 }) ∧
    (f.hold.length ≤ 6 → ∀ h d, a.handle = some h → a.declared = some d → a.received + (f.hold.length - 2) ≤ d →
      (if a.mgmt then 1 ≤ v.freeCells else 128 < v.freeCells) →
      ChainsFit v →
      u.context f.tier = .opened { a with received := a.received + (f.hold.length - 2), expected := a.expected + 1 } ∧
      u.bodyOf h = v.bodyOf h ++ f.hold.take (f.hold.length - 2) ∧ KeepsHandles [h] v u ∧ ChangesOnly [.buf, .rx] v u) ∧
    (∀ h d, a.handle = some h → a.declared = some d → d < a.received + (f.hold.length - 2) →
      (if a.mgmt then 1 ≤ v.freeCells else 128 < v.freeCells) → f.hold.length ≤ 6 →
      u.context f.tier = .discarding { tag := a.tag, declared := a.declared, expected := a.expected + 1
                                       mgmt := a.mgmt, cause := .frameCheck } ∧
      u.handle? h = none ∧ KeepsHandles [h] v u ∧ Counted v u .frameCheck none) ∧
    (∀ h d, a.handle = some h → a.declared = some d → a.received < d → a.received % 64 = 0 → 2 < f.hold.length →
      ¬ (if a.mgmt then 1 ≤ v.freeCells else 128 < v.freeCells) →
      u.context f.tier = .discarding { tag := a.tag, declared := a.declared, expected := a.expected + 1
                                       mgmt := a.mgmt, cause := .noCell } ∧
      u.handle? h = none ∧ KeepsHandles [h] v u ∧ KeepsOctets v u ∧ Counted v u .noCell none) := by
  have htake : (f.hold.take (f.hold.length - 2)).length = f.hold.length - 2 := by simp
  generalize f.hold.take (f.hold.length - 2) = l at *
  have hrec {h : Nat} (hah : a.handle = some h) :
      ∃ r, v.handle? h = some r ∧ r.stream = none ∧ r.bodyLength = a.received := by
    obtain ⟨r, hr', -, hn⟩ := hh f.tier a h ha hah
    obtain ⟨-, -, hlen, -⟩ := (hr f.tier a ha).2.2 h r hah hr'
    exact ⟨r, hr', hn, hlen⟩
  refine ⟨fun z hz => ?_, fun h2 => ?_, fun h6 h d hah had hle hg hfit => ?_, fun h d hah had hlt hg h6 => ?_,
    fun h d hah had hlt hz h2 hg => ?_⟩
  · rw [hu]
    exact (advanceIndex_context_other hz).trans (storeHeld_context_other hz l)
  · obtain rfl := List.eq_nil_of_length_eq_zero (htake.trans (by omega))
    rw [hu, storeHeld, advanceIndex_opened ha]
    exact ⟨(lawful_setContext ..).frame.trans (changesOnly_setFragment _), setContext_context_self ..⟩
  · obtain ⟨r, hr', -, hlen⟩ := hrec hah
    obtain ⟨hctx, -, hkeep, hframe, hbody⟩ := storeHeld_stored l hs ha hah had hr' hlen (by omega) (by omega)
      fun _ _ _ => cellGranted_iff.2 hg
    rw [hu, advanceIndex_opened hctx, ← htake]
    exact ⟨setContext_context_self .., hbody (hfit (h, r) (mem_of_handle? hr')), hkeep,
      hframe.trans (((lawful_setContext ..).frame.trans (changesOnly_setFragment _)).mono (by decide))⟩
  · obtain ⟨r, hr', hn, hlen⟩ := hrec hah
    obtain ⟨-, -, hrd⟩ := (hr f.tier a ha).1 d had
    have hsplit : l = l.take (d - a.received) ++ l[d - a.received] :: l.drop (d - a.received + 1) := by
      rw [← List.drop_eq_getElem_cons, List.take_append_drop]
    have hlen1 : (l.take (d - a.received)).length = d - a.received := by
      rw [List.length_take]
      omega
    generalize l.take (d - a.received) = l1 at *
    obtain ⟨hctx, ⟨r', hr1, hn1⟩, hkeep, hframe, -⟩ := storeHeld_stored l1 hs ha hah had hr' hlen (by omega) (by omega)
      fun _ _ _ => cellGranted_iff.2 hg
    have hgive := storeData_of_length (b := l[d - a.received]) hctx hah had (by simp only [hlen1]; omega)
    obtain ⟨h1, ⟨h2, h3, -⟩, h4⟩ :=
      storeHeld_givenUp (m := l.drop (d - a.received + 1)) hctx hah hr1 (hn1.trans hn) hgive
    rw [← hsplit] at h1 h2 h3 h4
    rw [hu]
    exact ⟨h1, h2, fun k hk => (h3 k hk).trans (hkeep k hk), h4.of_eq (hframe.tallies (by decide))⟩
  · obtain ⟨r, hr', hn, hlen⟩ := hrec hah
    obtain ⟨b, m, rfl⟩ := List.exists_cons_of_length_pos (l := l) (by omega)
    have hnone : v.appendOctet a.mgmt h b = none :=
      (appendOctet_none hr').2 ⟨by rw [hlen]; exact hz, Bool.eq_false_iff.2 fun h => hg (cellGranted_iff.1 h)⟩
    have hgive := storeData_of_refused ha hah had (by omega) hnone
    obtain ⟨h1, ⟨h2, h3, h4, -⟩, h5⟩ := storeHeld_givenUp (l := []) (m := m) ha hah hr' hn hgive
    rw [hu]
    exact ⟨h1, h2, h3, h4, h5⟩

end State

open State in
/-- Settles O44, by the fragment's mode and whether its check passes. -/
theorem closeMoreKeepsTheContext : Obligations.CloseMoreKeepsTheContext := by
  intro s hs hl hr hh hup
  have hhold : s.validSymbol.ContextsHold := contextsHold (s := s) hr hh
  refine ⟨s.validSymbol, s.validSymbol.receiveCloseMore,
    congrArg _ (trunkSymbol_of_up hl hup receiveCloseMore), rfl, changesOnly_validSymbol, receiveCloseMore_fragment,
    fun hf => ?_, fun f hf => ?_⟩
  · have : s.validSymbol.rx.fragment = none := hf
    simp [receiveCloseMore, this]
  · have hvf : s.validSymbol.rx.fragment = some f := hf
    have hrec := (receiverOk_iff.1 hr).1.1 f hf
    dsimp only
    rw [← RxFragment.checks_iff]
    cases hm : f.mode with
    | ignored =>
      rw [receiveCloseMore_of_ignored hvf hm]
      exact ⟨fun _ => ⟨changesOnly_setFragment _, fun _ => rfl⟩, nofun, nofun, nofun, nofun⟩
    | tracking =>
      rw [hm] at hrec
      obtain ⟨g, hg⟩ : ∃ g, s.context f.tier = .discarding g := by
        cases hc : s.context f.tier <;> simp_all [Context.isDiscarding]
      refine ⟨nofun, fun _ hc => ?_, fun _ hc => ?_, nofun, nofun⟩
      · rw [receiveCloseMore_of_tracking_bad hvf hm (Bool.eq_false_iff.2 hc)]
        exact ⟨changesOnly_setFragment _, fun _ => rfl⟩
      · rw [receiveCloseMore_of_tracking hvf hm hc]
        refine ⟨(changesOnly_advanceIndex _).trans (changesOnly_setFragment _), fun z => ?_⟩
        show (s.validSymbol.advanceIndex f.tier).context z = _
        by_cases hz : z = f.tier
        · rw [hz, advanceIndex_discarding (s := s.validSymbol) hg, setContext_context_self, hg]
          exact (if_pos rfl).symm
        · rw [advanceIndex_context_other hz]
          show s.context z = _
          cases hcz : s.context z with
          | discarding g => exact (if_neg hz).symm
          | opened a => rfl
          | closed => rfl
    | storing =>
      rw [hm] at hrec
      obtain ⟨a, ha, -⟩ := hrec
      refine ⟨nofun, nofun, nofun, fun _ hc => ⟨a, ha, ?_⟩, fun _ hc => ⟨a, ha, ?_⟩⟩
      · rw [receiveCloseMore_of_bad hvf hm (Bool.eq_false_iff.2 hc)]
        exact ⟨(givesUp_giveUp (s := s.validSymbol) _ ha hhold.unstreamed).setFragment none,
          (lawful_giveUp f.tier _).frame.trans ((changesOnly_setFragment _).mono (by decide))⟩
      · have hvs : StoresOk s.validSymbol := hs
        have hvc : s.validSymbol.ContextsOk := (receiverOk_iff.1 hr).2
        have hva : s.validSymbol.context f.tier = .opened a := ha
        have hu := receiveCloseMore_of_good hvf hm hc
        generalize s.validSymbol.receiveCloseMore = u at hu ⊢
        exact closeMore_good_spec hvs hhold hvc hva hu

end Sys2Proof.Machine
end

section
/-! PROOFS. CLOSE LAST at the receiver (O45). -/

namespace Sys2Proof.Machine

variable {s t u : State}

namespace State

/-! ## The branches of CLOSE LAST (R138) -/

/-- The fragment and its context are closed. -/
def contextClosed (s : State) (q : Tier) : State := (s.setContext q .closed).setFragment none

theorem contextClosed_context_self (q : Tier) : (s.contextClosed q).context q = .closed := setContext_context_self ..

theorem contextClosed_context_other {q z : Tier} (hz : z ≠ q) : (s.contextClosed q).context z = s.context z :=
  setContext_context_other s _ hz

theorem contextClosed_context (q z : Tier) :
    (s.contextClosed q).context z = if z = q then .closed else s.context z := by
  split
  case isTrue hz => rw [hz, contextClosed_context_self]
  case isFalse hz => exact contextClosed_context_other hz

theorem changesOnly_contextClosed (q : Tier) : ChangesOnly [.rx] s (s.contextClosed q) :=
  (lawful_setContext q _).frame.trans (changesOnly_setFragment _)

section Fragment

variable {f : RxFragment} (hf : s.rx.fragment = some f)
include hf

theorem receiveCloseLast_of_ignored (hm : f.mode = .ignored) : s.receiveCloseLast = s.setFragment none := by
  simp [receiveCloseLast, hf, hm]

theorem receiveCloseLast_of_tracking {g : GivenUp} (hm : f.mode = .tracking) (hg : s.context f.tier = .discarding g) :
    s.receiveCloseLast = s.contextClosed f.tier := by simp [receiveCloseLast, hf, hm, hg, contextClosed]

theorem receiveCloseLast_of_bad {a : Assembly} (hm : f.mode = .storing) (hc : f.checks 6 = false)
    (ha : s.context f.tier = .opened a) :
    s.receiveCloseLast = (s.giveUp f.tier .fragmentCheck).contextClosed f.tier := by
  simp [receiveCloseLast, hf, hm, hc, giveUp_context_self ha, contextClosed]

theorem receiveCloseLast_of_good {a : Assembly} (hm : f.mode = .storing) (hc : f.checks 6 = true)
    (ha : s.context f.tier = .opened a) :
    s.receiveCloseLast = (s.contextClosed f.tier).completeFrame a (f.hold.take 4) := by
  simp [receiveCloseLast, hf, hm, hc, ha, contextClosed]

end Fragment

/-! ## A frame that ends with its context (R127, R138) -/

theorem closes_giveUp {q : Tier} {a : Assembly} (ha : s.context q = .opened a) (hn : s.ContextsUnstreamed) (c : Cause) :
    AbandonsContexts [q] c s ((s.giveUp q c).contextClosed q) ∧
    ChangesOnly contextBlocks s ((s.giveUp q c).contextClosed q) := by
  have hframe : ChangesOnly [.rx] s (s.discarding q a c) := (lawful_discarding ..).frame
  refine ⟨?_, (lawful_giveUp q c).frame.trans ((changesOnly_contextClosed q).mono (by decide))⟩
  refine abandons_of_discardAssembly (t := s.discarding q a c) ha hn (hframe.buf (by decide))
    (hframe.tallies (by decide)) (hframe.releaseEvents (by decide)) (contextClosed_context_self q)
    (fun z hz => (contextClosed_context_other hz).trans (giveUp_context_other c hz)) ?_ ?_ ?_ <;>
  rw [← giveUp_opened ha] <;> rfl

theorem closes_discard {q : Tier} {a : Assembly} {h : Nat} (ha : s.context q = .opened a) (hh : a.handle = some h)
    (hn : s.ContextsUnstreamed) (c : Cause) :
    ((s.contextClosed q).discard c h).rx.fragment = none ∧ AbandonsContexts [q] c s ((s.contextClosed q).discard c h) ∧
    ChangesOnly contextBlocks s ((s.contextClosed q).discard c h) := by
  have hrx : ((s.contextClosed q).discard c h).rx = (s.contextClosed q).rx := discard_rx ..
  refine ⟨by rw [hrx]; rfl, ?_, ((changesOnly_contextClosed q).mono (by decide)).trans
    ((changesOnly_discard c h).mono (by decide))⟩
  refine abandons_of_discardAssembly (t := s.contextClosed q) ha hn rfl rfl rfl
    ((context_of_rx hrx q).trans (contextClosed_context_self q))
    (fun z hz => (context_of_rx hrx z).trans (contextClosed_context_other hz)) ?_ ?_ ?_ <;>
  rw [discardAssembly_of_some hh]

/-! ## The checks of the whole frame and its way (R138, R139, R140) -/

section Frame

variable {a : Assembly} {h : Nat} {check : List Byte} (hh : a.handle = some h)
include hh

theorem completeFrame_of_bad (hbad : ¬ (check = octets4 (frameCheck (s.bodyOf h)) ∧ a.declared = some a.received)) :
    s.completeFrame a check = s.discard .frameCheck h := by simp [completeFrame, hh, hbad]

variable (hgood : check = octets4 (frameCheck (s.bodyOf h)) ∧ a.declared = some a.received)
include hgood

theorem completeFrame_of_mgmt (hm : a.mgmt = true) : s.completeFrame a check = s.offerInbox h := by
  rw [completeFrame, hh]
  dsimp only
  rw [if_pos hgood, if_pos hm]

theorem completeFrame_of_stream {tag : Tag} (hm : a.mgmt = false) (ht : a.tag = some tag) :
    s.completeFrame a check = s.routeStream h tag := by
  rw [completeFrame, hh]
  dsimp only
  rw [if_pos hgood, hm, ht]
  rfl

end Frame

theorem offerInbox_of_full {h : Nat} (hl : 4 ≤ s.agent.inbox.length) : s.offerInbox h = s.discard .inboxFull h :=
  if_pos hl

/-- The request waits in the inbox (R139). -/
def inboxJoined (s : State) (h : Nat) : State :=
  (s.setHolder h .inbox).withAgent { s.agent with inbox := s.agent.inbox ++ [h] }

theorem inboxJoined_spec {h : Nat} {r : Handle} (hr : s.handle? h = some r) :
    (s.inboxJoined h).agent = { s.agent with inbox := s.agent.inbox ++ [h] } ∧
    (s.inboxJoined h).handle? h = some { r with holder := .inbox } ∧ KeepsHandles [h] s (s.inboxJoined h) ∧
    (s.inboxJoined h).buf.octets = s.buf.octets ∧ ChangesOnly [.buf, .agent] s (s.inboxJoined h) :=
  ⟨rfl, modHandle_handle?_self _ _ hr, keepsHandles_of_other fun _ hk => modHandle_handle?_other _ _ hk,
    modHandle_octets .., by simp [ChangesOnly, inboxJoined]⟩

theorem offerInbox_of_room {h : Nat} (hl : s.agent.inbox.length < 4) : s.offerInbox h =
    if s.agent.inbox = [] ∧ s.agent.state = .idle then (s.inboxJoined h).attempt else s.inboxJoined h :=
  if_neg (Nat.not_le.2 hl)

theorem countDelivered_tally (i j : StreamIx) : (s.countDelivered i).tally j = if j = i then
    { s.tally j with framesDelivered := (s.tally j).framesDelivered + 1 } else s.tally j := by
  split
  case isTrue e => rw [e]; exact setTally_tally_self ..
  case isFalse e => exact setTally_tally_other _ _ fun hv => e (Fin.ext hv)

section Route

variable {h : Nat} {r : Handle} {tag : Tag} {i : StreamIx}

theorem routeStream_of_unknown (hi : s.lookup tag = none) : s.routeStream h tag = s.discard .unknownTag h := by
  simp [routeStream, hi]

/-- The frame with the stream its tag names (R140). -/
def streamed (s : State) (h : Nat) (i : StreamIx) : State := s.modHandle h fun r => { r with stream := some i }

theorem changesOnly_streamed (h : Nat) (i : StreamIx) : ChangesOnly [.buf] s (s.streamed h i) := by
  simp [ChangesOnly, streamed]

theorem routeStream_of_disabled (hi : s.lookup tag = some i) (hp : (s.port (s.stream i.val).port).enabled = false) :
    s.routeStream h tag = (s.streamed h i).discard .portDisabled h := by
  simp [routeStream, hi, hp, streamed]

theorem routeStream_of_full (hi : s.lookup tag = some i) (hp : (s.port (s.stream i.val).port).enabled = true)
    (hl : 32 ≤ (s.port (s.stream i.val).port).egress.length) :
    s.routeStream h tag = (s.streamed h i).discard .egressFull h := by
  have : ¬ (s.port (s.stream i.val).port).egress.length < Config.egressSize := Nat.not_lt.2 hl
  simp [routeStream, hi, hp, this, streamed]

theorem routeStream_of_room (hi : s.lookup tag = some i) (hp : (s.port (s.stream i.val).port).enabled = true)
    (hl : (s.port (s.stream i.val).port).egress.length < 32) :
    s.routeStream h tag = ((s.streamed h i).joinEgress (s.stream i.val).port h).countDelivered i := by
  have : (s.port (s.stream i.val).port).egress.length < Config.egressSize := hl
  simp [routeStream, hi, hp, this, streamed]

variable (hr : s.handle? h = some r)
include hr

theorem streamed_handle : (s.streamed h i).handle? h = some { r with stream := some i } :=
  modHandle_handle?_self s _ hr

/-- A discard against the stream that the frame's tag names. -/
theorem discard_streamed (c : Cause) :
    ((s.streamed h i).discard c h).handle? h = none ∧ KeepsHandles [h] s ((s.streamed h i).discard c h) ∧
    KeepsOctets s ((s.streamed h i).discard c h) ∧ Counted s ((s.streamed h i).discard c h) c (some i) ∧
    ((s.streamed h i).discard c h).releaseEvents = s.releaseEvents + 1 ∧
    ChangesOnly [.buf, .tallies, .releaseEvents] s ((s.streamed h i).discard c h) := by
  obtain ⟨hfree, hkeep, hoct, hcount, hev⟩ := discarded_discard (s := s.streamed h i) c h
  have hframe := changesOnly_streamed (s := s) h i
  have hstream : (s.streamed h i).streamOf h = some i := by simp [streamOf, streamed_handle hr]
  rw [hstream] at hcount
  refine ⟨hfree, fun k hk => (hkeep k hk).trans ?_, fun x => (hoct x).trans (by rw [streamed, modHandle_octets]),
    hcount.of_eq (hframe.tallies (by decide)), hev.trans (by rw [hframe.releaseEvents (by decide)]),
    (hframe.mono (by decide)).trans (changesOnly_discard c h)⟩
  exact modHandle_handle?_other s _ fun e => hk (List.mem_singleton.2 e)

/-- A frame joins its egress queue; an OPEN starts the transmission of the first (R51). -/
theorem joinEgress_spec (p : Port) :
    (s.joinEgress p h).handle? h = some { r with holder := .egress p } ∧ KeepsHandles [h] s (s.joinEgress p h) ∧
    KeepsOctets s (s.joinEgress p h) ∧ KeepsPorts p s (s.joinEgress p h) ∧
    (s.joinEgress p h).port p = { s.port p with
      egress := (s.port p).egress ++ [h]
      sent := if (s.port p).egress = [] then (s.port p).sent ++ [.opened] else (s.port p).sent } ∧
    ChangesOnly [.buf, .ports] s (s.joinEgress p h) := by
  generalize hx : (s.setPort p { s.port p with egress := (s.port p).egress ++ [h] }).setHolder h (.egress p) = x
  have heq : s.joinEgress p h = if (s.port p).egress = [] then x.sendTrib p [.opened] else x := by rw [joinEgress, hx]
  have hport (q : Port) : x.port q = (s.setPort p { s.port p with egress := (s.port p).egress ++ [h] }).port q := by
    rw [← hx]
    exact port_of_ports (setHolder_ports ..) q
  have hrx : x.handle? h = some { r with holder := .egress p } := by
    rw [← hx]
    exact modHandle_handle?_self _ _ hr
  have hother : KeepsHandles [h] s x := keepsHandles_of_other fun k hk => by
    rw [← hx]
    exact modHandle_handle?_other _ _ hk
  have hoct : KeepsOctets s x := fun a => by
    rw [← hx, setHolder, modHandle_octets]
    rfl
  have hframe : ChangesOnly [.buf, .ports] s x := by simp [ChangesOnly, ← hx]
  rw [heq]
  by_cases he : (s.port p).egress = []
  · rw [if_pos he, if_pos he]
    refine ⟨hrx, hother, hoct, fun q hq => ?_, ?_, hframe.trans (by simp [ChangesOnly])⟩
    · rw [sendTrib_port_other _ hq, hport, setPort_port_other _ _ hq]
    · rw [sendTrib_port_self, hport, setPort_port_self]
  · rw [if_neg he, if_neg he]
    refine ⟨hrx, hother, hoct, fun q hq => ?_, ?_, hframe⟩
    · rw [hport, setPort_port_other _ _ hq]
    · rw [hport, setPort_port_self]

end Route

/-- What a passing CLOSE LAST of a STORING fragment does with the frame (R138, R139, R140). -/
theorem completeFrame_spec {v : State} {q : Tier} {a : Assembly} {h : Nat} {r : Handle} {check : List Byte}
    (ha : v.context q = .opened a) (hn : v.ContextsUnstreamed) (hah : a.handle = some h) (hr : v.handle? h = some r)
    (htag : a.tag = some r.tag) (hu : u = (v.contextClosed q).completeFrame a check) :
    let good := check = octets4 (frameCheck (v.bodyOf h)) ∧ a.declared = some a.received
    (¬ good → u.rx.fragment = none ∧ AbandonsContexts [q] .frameCheck v u ∧ ChangesOnly contextBlocks v u) ∧
    (good → a.mgmt = true → 4 ≤ v.agent.inbox.length → u.rx.fragment = none ∧
      AbandonsContexts [q] .inboxFull v u ∧ ChangesOnly contextBlocks v u) ∧
    (good → a.mgmt = true → v.agent.inbox.length < 4 → ∃ w, w.rx.fragment = none ∧
      (∀ z, w.context z = if z = q then .closed else v.context z) ∧
      w.agent = { v.agent with inbox := v.agent.inbox ++ [h] } ∧
      w.handle? h = some { r with holder := .inbox } ∧ KeepsHandles [h] v w ∧ w.buf.octets = v.buf.octets ∧
      ChangesOnly [.buf, .rx, .agent] v w ∧
      (v.agent.inbox = [] → exec .agentAttemptEvent w = .next u) ∧ (v.agent.inbox ≠ [] → u = w)) ∧
    (good → a.mgmt = false → v.lookup r.tag = none → u.rx.fragment = none ∧
      AbandonsContexts [q] .unknownTag v u ∧ ChangesOnly contextBlocks v u) ∧
    ∀ i, good → a.mgmt = false → v.lookup r.tag = some i →
      let p := (v.stream i.val).port
      u.rx.fragment = none ∧ (∀ z, u.context z = if z = q then .closed else v.context z) ∧
      KeepsHandles [h] v u ∧ KeepsOctets v u ∧
      ((v.port p).enabled = false → u.handle? h = none ∧ Counted v u .portDisabled (some i) ∧
        u.releaseEvents = v.releaseEvents + 1 ∧ ChangesOnly contextBlocks v u) ∧
      ((v.port p).enabled = true → 32 ≤ (v.port p).egress.length → u.handle? h = none ∧
        Counted v u .egressFull (some i) ∧ u.releaseEvents = v.releaseEvents + 1 ∧ ChangesOnly contextBlocks v u) ∧
      ((v.port p).enabled = true → (v.port p).egress.length < 32 →
        u.handle? h = some { r with stream := some i, holder := .egress p } ∧ KeepsPorts p v u ∧
        u.port p = { v.port p with
          egress := (v.port p).egress ++ [h]
          sent := if (v.port p).egress = [] then (v.port p).sent ++ [.opened] else (v.port p).sent } ∧
        (∀ k, u.discardCount k = v.discardCount k) ∧
        (∀ j, u.tally j = if j = i then
          { v.tally j with framesDelivered := (v.tally j).framesDelivered + 1 } else v.tally j) ∧
        ChangesOnly [.buf, .ports, .rx, .tallies] v u) := by
  intro good
  have hclosed := changesOnly_contextClosed (s := v) q
  refine ⟨fun hbad => ?_, fun hg hm hl => ?_, fun hg hm hl => ?_, fun hg hm hi => ?_, fun i hg hm hi => ?_⟩
  · rw [hu, completeFrame_of_bad (s := v.contextClosed q) hah hbad]
    exact closes_discard ha hah hn _
  · rw [hu, completeFrame_of_mgmt (s := v.contextClosed q) hah hg hm, offerInbox_of_full (s := v.contextClosed q) hl]
    exact closes_discard ha hah hn _
  · have heq := completeFrame_of_mgmt (s := v.contextClosed q) hah hg hm
    rw [offerInbox_of_room (s := v.contextClosed q) hl] at heq
    rw [← hu] at heq
    have hjoin := inboxJoined_spec (s := v.contextClosed q) hr
    obtain ⟨hagent, hrec, hkeep, hoct, hframe⟩ := hjoin
    have hrx : ((v.contextClosed q).inboxJoined h).rx = (v.contextClosed q).rx := hframe.rx (by decide)
    refine ⟨(v.contextClosed q).inboxJoined h, congrArg Receiver.fragment hrx,
      fun z => (context_of_rx hrx z).trans (contextClosed_context q z), hagent, hrec, hkeep, hoct,
      (hclosed.mono (by decide)).trans (hframe.mono (by decide)), fun he => ?_, fun he => ?_⟩
    · show Host.Outcome.next _ = _
      rw [heq, hagent]
      have hstate : ((v.contextClosed q).agent.inbox = [] ∧ (v.contextClosed q).agent.state = .idle) ↔
          (v.contextClosed q).agent.state = .idle := and_iff_right he
      simp only [hstate]
    · rw [heq, if_neg fun h => he h.1]
  · rw [hu, completeFrame_of_stream (s := v.contextClosed q) hah hg hm htag,
      routeStream_of_unknown (s := v.contextClosed q) hi]
    exact closes_discard ha hah hn _
  · intro p
    have hlook : (v.contextClosed q).lookup r.tag = some i := hi
    have heq := hu.trans (completeFrame_of_stream (s := v.contextClosed q) hah hg hm htag)
    have hctx {x : State} (hx : x.rx = (v.contextClosed q).rx) :
        x.rx.fragment = none ∧ ∀ z, x.context z = if z = q then .closed else v.context z :=
      ⟨congrArg Receiver.fragment hx, fun z => (context_of_rx hx z).trans (contextClosed_context q z)⟩
    have hdiscard (c : Cause) := discard_streamed (s := v.contextClosed q) (i := i) hr c
    by_cases hp : (v.port p).enabled = true
    · by_cases hl : (v.port p).egress.length < 32
      · rw [routeStream_of_room (s := v.contextClosed q) hi hp hl] at heq
        replace heq : u = (((v.contextClosed q).streamed h i).joinEgress p h).countDelivered i := heq
        obtain ⟨h1, h2, h3, h4, h5, h6⟩ :=
          joinEgress_spec (streamed_handle (s := v.contextClosed q) (i := i) hr) p
        have hmod := changesOnly_streamed (s := v.contextClosed q) h i
        have hcount := (lawful_countDelivered (s := ((v.contextClosed q).streamed h i).joinEgress p h) i).frame
        have hport (x : Port) : ((v.contextClosed q).streamed h i).port x = v.port x :=
          port_of_ports (hmod.ports (by decide)) x
        have htallies : (((v.contextClosed q).streamed h i).joinEgress p h).tallies = v.tallies :=
          (h6.tallies (by decide)).trans (hmod.tallies (by decide))
        rw [← heq] at hcount
        have hframe : ChangesOnly [.buf, .ports, .tallies] (v.contextClosed q) u :=
          ((hmod.mono (by decide)).trans (h6.mono (by decide))).trans (hcount.mono (by decide))
        obtain ⟨hfrag, hcontext⟩ := hctx (hframe.rx (by decide))
        have hbuf : u.buf = _ := hcount.buf (by decide)
        have hports : u.ports = _ := hcount.ports (by decide)
        refine ⟨hfrag, hcontext, fun k hk => ?_, fun x => ?_, fun h => absurd (hp.symm.trans h) nofun,
          fun _ h => absurd hl (Nat.not_lt.2 h), fun _ _ => ⟨(handle?_of_buf hbuf h).trans h1, fun x hx => ?_, ?_,
            fun k => ?_, fun j => ?_, (hclosed.mono (by decide)).trans (hframe.mono (by decide))⟩⟩
        · exact ((handle?_of_buf hbuf k).trans (h2 k hk)).trans
            (modHandle_handle?_other _ _ fun e => hk (List.mem_singleton.2 e))
        · rw [hbuf, h3, streamed, modHandle_octets]
          rfl
        · rw [port_of_ports hports, h4 x hx, hport]
        · rw [port_of_ports hports, h5, hport]
        · rw [← discardCount_of_tallies htallies, heq]
          rfl
        · rw [heq, countDelivered_tally, tally_of_tallies htallies]
      · rw [routeStream_of_full (s := v.contextClosed q) hi hp (Nat.not_lt.1 hl)] at heq
        obtain ⟨h1, h2, h3, h4, h5, h6⟩ := hdiscard .egressFull
        rw [← heq] at h1 h2 h3 h4 h5 h6
        obtain ⟨hfrag, hcontext⟩ := hctx (h6.rx (by decide))
        exact ⟨hfrag, hcontext, h2, h3, fun h => absurd (hp.symm.trans h) nofun,
          fun _ _ => ⟨h1, h4, h5, (hclosed.mono (by decide)).trans (h6.mono (by decide))⟩, fun _ h => absurd h hl⟩
    · rw [routeStream_of_disabled (s := v.contextClosed q) hi (Bool.eq_false_iff.2 hp)] at heq
      obtain ⟨h1, h2, h3, h4, h5, h6⟩ := hdiscard .portDisabled
      rw [← heq] at h1 h2 h3 h4 h5 h6
      obtain ⟨hfrag, hcontext⟩ := hctx (h6.rx (by decide))
      exact ⟨hfrag, hcontext, h2, h3, fun _ => ⟨h1, h4, h5, (hclosed.mono (by decide)).trans (h6.mono (by decide))⟩,
        fun h => absurd h hp, fun h => absurd h hp⟩

end State

open State in
/-- Settles O45, by the fragment's mode and its check; a STORING fragment that passes completes its frame. -/
theorem closeLastRoutesTheFrame : Obligations.CloseLastRoutesTheFrame := by
  intro s hs hl hr hh hstreams hup
  have hhold : s.validSymbol.ContextsHold := contextsHold (s := s) hr hh
  have hexec : exec .closeLast s = .next s.validSymbol.receiveCloseLast.settle :=
    congrArg _ (trunkSymbol_of_up hl hup receiveCloseLast)
  generalize hu : s.validSymbol.receiveCloseLast = u at hexec
  refine ⟨s.validSymbol, u, hexec, rfl, changesOnly_validSymbol, ?_, ?_⟩
  · intro hf
    have hnone : s.validSymbol.rx.fragment = none := hf
    rw [← hu, receiveCloseLast, hnone]
  · intro f hf
    have hvf : s.validSymbol.rx.fragment = some f := hf
    have hrec := (receiverOk_iff.1 hr).1.1 f hf
    dsimp only
    rw [← RxFragment.checks_iff]
    cases hm : f.mode with
    | ignored =>
      rw [receiveCloseLast_of_ignored hvf hm] at hu
      rw [← hu]
      exact ⟨fun _ => ⟨rfl, changesOnly_setFragment _, fun _ => rfl⟩, nofun, nofun, fun _ _ _ h => (nomatch h)⟩
    | tracking =>
      rw [hm] at hrec
      obtain ⟨g, hg⟩ : ∃ g, s.context f.tier = .discarding g := by
        cases hc : s.context f.tier <;> simp_all [Context.isDiscarding]
      rw [receiveCloseLast_of_tracking hvf hm hg] at hu
      rw [← hu]
      exact ⟨nofun, fun _ => ⟨rfl, changesOnly_contextClosed _, contextClosed_context (s := s.validSymbol) f.tier⟩,
        nofun, fun _ _ _ h => (nomatch h)⟩
    | storing =>
      rw [hm] at hrec
      obtain ⟨a, ha, -⟩ := hrec
      have hva : s.validSymbol.context f.tier = .opened a := ha
      refine ⟨nofun, nofun, fun _ hc => ?_, fun a' h r _ hc ha' hah hrec => ?_⟩
      · rw [receiveCloseLast_of_bad hvf hm (Bool.eq_false_iff.2 hc) hva] at hu
        rw [← hu]
        exact ⟨rfl, closes_giveUp hva hhold.unstreamed _⟩
      · cases ha.symm.trans ha'
        obtain ⟨-, -, -, htag⟩ := (hr.2.2 f.tier a ha).2.2 h r hah hrec
        have hvr : s.validSymbol.handle? h = some r := hrec
        exact completeFrame_spec hva hhold.unstreamed hah hvr htag
          (hu.symm.trans (receiveCloseLast_of_good hvf hm hc hva))

end Sys2Proof.Machine
end

section
/-! PROOFS. A request frame comes to the inbox: its claims, the storing of its body, and the offer (O57). -/

namespace Sys2Proof.Machine.State

variable {s t : State}

/-! ## Storing a whole body (R6) -/

/-- What the storing of octets for a handle leaves, whether or not a cell is refused on the way. -/
structure Appended (s t : State) (h : Nat) (r : Handle) : Prop where
  handle : ∃ chain n, t.handle? h = some { r with chain := chain, bodyLength := n }
  keeps : KeepsHandles [h] s t
  carries : Carries [h] s t
  frame : ChangesOnly [.buf] s t
  stores : StoresOk t

theorem Appended.trans {u : State} {h : Nat} {r r' : Handle} (hst : Appended s t h r)
    (hr : ∃ chain n, r' = { r with chain := chain, bodyLength := n }) (htu : Appended t u h r') : Appended s u h r := by
  obtain ⟨chain, n, rfl⟩ := hr
  exact ⟨htu.handle, fun k hk => (htu.keeps k hk).trans (hst.keeps k hk), hst.carries.trans htu.carries,
    hst.frame.trans htu.frame, htu.stores⟩

section Append

variable {h : Nat} {r : Handle} (hs : StoresOk s) (hr : s.handle? h = some r)
  (hfit : r.chain.length = cellsFor r.bodyLength)
include hs hr hfit

theorem appended_appendOctet {mgmt : Bool} {b : Byte} (ht : s.appendOctet mgmt h b = some t) :
    Appended s t h r ∧ ∃ r', t.handle? h = some r' ∧ (∃ chain n, r' = { r with chain := chain, bodyLength := n }) ∧
      r'.bodyLength = r.bodyLength + 1 ∧ r'.chain.length = cellsFor r'.bodyLength ∧
      t.freeCells + r'.chain.length = s.freeCells + r.chain.length := by
  have hg : r.bodyLength % 64 = 0 → s.cellGranted mgmt = true := fun hz => by
    by_contra hng
    have hnone := (appendOctet_none (b := b) hr).2 ⟨hz, Bool.eq_false_iff.2 hng⟩
    rw [hnone] at ht
    cases ht
  obtain ⟨u, v, hu, hus, hh, -, hlen, -, hkeep, hframe, hoct⟩ := appendOctet_stores hs b hr hfit hg
  obtain rfl : u = t := Option.some.inj (hu.symm.trans ht)
  obtain ⟨r', -, hr', hlen', -, hfit', -, -, -, -, hcells⟩ := appendOctet_body hs hr hfit ht
  obtain rfl : { r with bodyLength := r.bodyLength + 1, chain := v } = r' := Option.some.inj (hh.symm.trans hr')
  refine ⟨⟨⟨v, _, hh⟩, hkeep, fun k q hk hq => ?_, hframe, hus⟩, _, hh, ⟨v, _, rfl⟩, rfl, hfit', ?_⟩
  · have hkh : k ≠ h := fun e => hk (List.mem_singleton.2 e)
    refine ⟨q, (hkeep k hk).trans hq, rfl, rfl, fun x hx i hi => hoct _ fun he => ?_⟩
    have hcell : r.bodyLength / 64 < v.length := by
      have := cellsFor_mul (r.bodyLength + 1)
      omega
    have hx' : x = v.getD (r.bodyLength / 64) 0 := by omega
    rw [List.getD_eq_getElem _ _ hcell] at hx'
    exact chains_disjoint hus hh ((hkeep k hk).trans hq) hkh _ (List.getElem_mem hcell) (hx' ▸ hx)
  · have := heldCells_length_le hs
    have := heldCells_length_le hus
    simp only [freeCells, Config.cellCount]
    dsimp only at hcells ⊢
    omega

end Append

theorem appended_appendOctets {mgmt : Bool} {h : Nat} {r : Handle} (hs : StoresOk s) (hr : s.handle? h = some r)
    (hfit : r.chain.length = cellsFor r.bodyLength) (l : List Byte) : Appended s (s.appendOctets mgmt h l).2 h r := by
  have hrefl (u : State) (q : Handle) (hu : StoresOk u) (hq : u.handle? h = some q) : Appended u u h q :=
    ⟨⟨_, _, hq⟩, fun _ _ => rfl, .refl _ _, .refl _ _, hu⟩
  induction l generalizing s r with
  | nil => exact hrefl s r hs hr
  | cons b l ih =>
    unfold appendOctets
    split
    case h_1 => exact hrefl s r hs hr
    case h_2 u hu =>
      obtain ⟨happ, r', hr', hform, -, hfit', -⟩ := appended_appendOctet hs hr hfit hu
      exact happ.trans hform (ih happ.stores hr' hfit')

/-- A body that needs more cells than are free is not stored whole (R10). -/
theorem appendOctets_refused {h : Nat} {r : Handle} (hs : StoresOk s) (hr : s.handle? h = some r)
    (hfit : r.chain.length = cellsFor r.bodyLength) {l : List Byte}
    (hlt : r.chain.length + s.freeCells < cellsFor (r.bodyLength + l.length)) :
    (s.appendOctets true h l).1 = false := by
  induction l generalizing s r with
  | nil =>
    rw [hfit] at hlt
    exact absurd hlt (by simp)
  | cons b l ih =>
    unfold appendOctets
    split
    case h_1 => rfl
    case h_2 u hu =>
      obtain ⟨happ, r', hr', -, hlen, hfit', hcells⟩ := appended_appendOctet hs hr hfit hu
      refine ih happ.stores hr' hfit' ?_
      rw [hlen, Nat.add_assoc, Nat.add_comm 1]
      simp only [List.length_cons] at hlt
      omega

/-! ## The claims of a request frame (R9, R132) -/

theorem deliverRequest_of_long {q : Tier} {body : List Byte} (hl : 2048 < body.length) :
    s.deliverRequest q body = s.countDiscard .frameCheck none :=
  if_pos (.inr hl)

/-- The state with the request's handle granted. -/
def claimedRequest (s : State) (q : Tier) (body : List Byte) : State :=
  s.setHandle s.lowestHandle (Handle.granted (.reassembly q) (word16At body 0) q none)

theorem granted_fits (holder : Holder) (tag : Tag) (q : Tier) (o : Option StreamIx) :
    (Handle.granted holder tag q o).chain.length = cellsFor (Handle.granted holder tag q o).bodyLength := by
  simp [Handle.granted, cellsFor, Config.cellSize]

section Deliver

variable {q : Tier} {body : List Byte} (hlen : 8 ≤ body.length ∧ body.length ≤ 2048)
include hlen

theorem deliverRequest_of_short : ¬ (body.length < Config.minBody ∨ Config.maxBody < body.length) := by
  simp only [Config.minBody, Config.maxBody]
  omega

theorem deliverRequest_of_no_handle (hh : s.freeHandles = 0) :
    s.deliverRequest q body = s.countDiscard .noHandle none := by
  have hg : ¬ s.handleGranted true = true := by rw [handleGranted_iff]; simp [hh]
  rw [deliverRequest, if_neg (deliverRequest_of_short hlen), claimHandle_refused hg]

theorem deliverRequest_of_handle (hh : 1 ≤ s.freeHandles) : s.deliverRequest q body =
    if ((s.claimedRequest q body).appendOctets true s.lowestHandle body).1 then
      ((s.claimedRequest q body).appendOctets true s.lowestHandle body).2.offerInbox s.lowestHandle
    else ((s.claimedRequest q body).appendOctets true s.lowestHandle body).2.discard .noCell s.lowestHandle := by
  have hg : s.handleGranted true = true := handleGranted_iff.2 hh
  rw [deliverRequest, if_neg (deliverRequest_of_short hlen), claimHandle_granted _ _ _ _ hg]
  dsimp only
  split
  case h_1 hc => rw [claimedRequest, hc]; rfl
  case h_2 hc => rw [claimedRequest, hc]; rfl

omit hlen in
theorem appended_claimedRequest (hs : StoresOk s) (hh : 1 ≤ s.freeHandles) :
    Appended (s.claimedRequest q body) ((s.claimedRequest q body).appendOctets true s.lowestHandle body).2
      s.lowestHandle (Handle.granted (.reassembly q) (word16At body 0) q none) :=
  appended_appendOctets (storesOk_newHandle hs rfl hh).1 (setHandle_handle?_self ..) (granted_fits ..) body

omit hlen in
theorem Appended.of_claimed {k : Nat} {r : Handle} (hfree : s.handle? k = none)
    (h : Appended (s.setHandle k r) t k r) : KeepsHandles [k] s t ∧ Carries [] s t ∧ ChangesOnly [.buf] s t := by
  have hother (j : Nat) (hj : j ∉ [k]) : (s.setHandle k r).handle? j = s.handle? j :=
    setHandle_handle?_other _ _ fun e => hj (List.mem_singleton.2 e)
  have hnew : Carries [k] s (s.setHandle k r) := .of_octets (setHandle_octets ..) hother
  exact ⟨fun j hj => (h.keeps j hj).trans (hother j hj), (Carries.refl [] s).trans_new hfree (hnew.trans h.carries),
    (by simp [ChangesOnly] : ChangesOnly [.buf] s (s.setHandle k r)).trans h.frame⟩

/-- A request whose claims are granted is stored, and offered to the inbox. -/
theorem deliverRequest_stored (hs : StoresOk s) (hh : 1 ≤ s.freeHandles) (hc : cellsFor body.length ≤ s.freeCells) :
    ∃ u r, s.deliverRequest q body = u.offerInbox s.lowestHandle ∧ StoresOk u ∧ s.handle? s.lowestHandle = none ∧
      u.handle? s.lowestHandle = some r ∧ (r.tier = q ∧ r.stream = none ∧ r.chain.length = cellsFor r.bodyLength) ∧
      u.bodyOf s.lowestHandle = body ∧ KeepsHandles [s.lowestHandle] s u ∧ Carries [] s u ∧
      u.freeHandles + 1 = s.freeHandles ∧ u.freeCells + cellsFor body.length = s.freeCells ∧
      ChangesOnly [.buf] s u := by
  obtain ⟨hclaimed, hheld, hcount⟩ := storesOk_newHandle hs
    (r := Handle.granted (.reassembly q) (word16At body 0) q none) rfl hh
  have hcells : (s.claimedRequest q body).freeCells = s.freeCells := freeCells_of_heldCells hheld
  obtain ⟨u, r, hu, hus, hr, hform, hchain, hbody, -, -, hcount', hheld'⟩ := appendOctets_body body hclaimed
    (setHandle_handle?_self ..) (granted_fits ..) (by
      simp only [Handle.granted, Nat.zero_add, List.length_nil]
      exact hc.trans hcells.ge)
  have happ := appended_claimedRequest (q := q) (body := body) hs hh
  rw [claimedRequest, hu] at happ
  have hfree : s.handle? s.lowestHandle = none := lowestHandle_free hh
  obtain ⟨hkeep, hcar, hframe⟩ := happ.of_claimed hfree
  rw [hcount] at hcount'
  rw [hheld] at hheld'
  simp only [Handle.granted, Nat.zero_add, List.length_nil, Nat.add_zero] at hchain hheld' hform
  refine ⟨u, r, ?_, hus, hfree, hr, ⟨by rw [hform], by rw [hform], by rw [hform]; exact hchain⟩, ?_, hkeep, hcar, ?_,
    ?_, hframe⟩
  · rw [deliverRequest_of_handle hlen hh, claimedRequest, hu]
    rfl
  · rw [hbody, bodyOf_eq (setHandle_handle?_self ..)]
    rfl
  · simp only [freeHandles, Config.handleCount] at hh ⊢
    omega
  · simp only [freeCells, Config.cellCount] at hc ⊢
    omega

/-- A request whose cells are refused is discarded with cause NO_CELL (R10). -/
theorem deliverRequest_of_no_cell (hs : StoresOk s) (hh : 1 ≤ s.freeHandles)
    (hc : s.freeCells < cellsFor body.length) :
    Counted s (s.deliverRequest q body) .noCell none ∧ KeepsHandles [] s (s.deliverRequest q body) ∧
      KeepsHeld s (s.deliverRequest q body) ∧ (s.deliverRequest q body).releaseEvents = s.releaseEvents + 1 ∧
      ChangesOnly [.buf, .tallies, .releaseEvents] s (s.deliverRequest q body) := by
  obtain ⟨hclaimed, hheld, -⟩ := storesOk_newHandle hs
    (r := Handle.granted (.reassembly q) (word16At body 0) q none) rfl hh
  have hcells : (s.claimedRequest q body).freeCells = s.freeCells := freeCells_of_heldCells hheld
  have hrefused : ((s.claimedRequest q body).appendOctets true s.lowestHandle body).1 = false :=
    appendOctets_refused hclaimed (setHandle_handle?_self ..) (granted_fits ..) (by
      simp only [Handle.granted, Nat.zero_add, List.length_nil]
      exact hcells.trans_lt hc)
  have happ := appended_claimedRequest (q := q) (body := body) hs hh
  rw [deliverRequest_of_handle hlen hh, hrefused]
  generalize ((s.claimedRequest q body).appendOctets true s.lowestHandle body).2 = u at happ ⊢
  have hfree : s.handle? s.lowestHandle = none := lowestHandle_free hh
  obtain ⟨hkeep, hcar, hframe⟩ := happ.of_claimed hfree
  obtain ⟨chain, n, hr⟩ := happ.handle
  obtain ⟨hgone, hkeep', hoct, hcount, hev⟩ := discarded_discard (s := u) .noCell s.lowestHandle
  rw [streamOf, hr] at hcount
  refine ⟨hcount.of_eq (hframe.tallies (by decide)), fun j _ => ?_,
    fun a ha => (hoct a).trans (hcar.keepsHeld hs a ha), hev.trans ?_, ?_⟩
  · by_cases hj : j = s.lowestHandle
    · exact hj ▸ hgone.trans hfree.symm
    · have hj' : j ∉ [s.lowestHandle] := fun e => hj (List.mem_singleton.1 e)
      exact (hkeep' j hj').trans (hkeep j hj')
  · rw [hframe.releaseEvents (by decide)]
  · exact (hframe.mono (by decide)).trans (changesOnly_discard .noCell s.lowestHandle)

end Deliver

/-! ## The offer (R139, R149, R150) -/

/-- Every reply needs a cell. -/
theorem cellsFor_replyLength_pos (v : Verdict) : 1 ≤ cellsFor v.replyLength := by
  simp only [cellsFor, Verdict.replyLength, Config.cellSize]
  omega

/-- An attempt whose reply claim is refused leaves the agent WAITING (R150). -/
theorem attempt_of_refused {k : Nat} {behind : List Nat} (hin : s.agent.inbox = k :: behind)
    (hroom : s.freeHandles < 1 ∨ s.freeCells < cellsFor (s.verdict (s.bodyOf k)).replyLength) :
    s.attempt = s.withAgent { s.agent with state := .waiting } := by
  simp only [attempt, hin, claimCompound_refused hroom]

theorem inboxJoined_keeps {k : Nat} {r : Handle} (hs : StoresOk s) (hr : s.handle? k = some r) :
    StoresOk (s.inboxJoined k) ∧ (s.inboxJoined k).freeHandles = s.freeHandles ∧
      (s.inboxJoined k).freeCells = s.freeCells ∧ (s.inboxJoined k).bodyOf k = s.bodyOf k ∧
      Carries [] s (s.inboxJoined k) := by
  obtain ⟨hstores, hheld, hcount⟩ := storesOk_setHolder hs k .inbox
  obtain ⟨-, hr', -, hoct, -⟩ := inboxJoined_spec hr
  have hbuf : (s.inboxJoined k).buf = (s.setHolder k .inbox).buf := rfl
  refine ⟨storesOk_of_buf hstores hbuf, ?_, freeCells_of_heldCells hheld, bodyOf_congr hr hr' rfl rfl hoct, ?_⟩
  · simp only [freeHandles, hbuf, hcount]
  · exact (carries_setHolder k .inbox).trans (.of_buf hbuf)

end Sys2Proof.Machine.State

namespace Sys2Proof.Machine

open State in
/-- Settles O57: what the claims of the request frame, the inbox, and the claim of the reply each decide. -/
theorem requestsWaitInTheInbox : Obligations.RequestsWaitInTheInbox := by
  intro x s h kind args hx hs body
  obtain ⟨-, hargs, hexec⟩ := requestParts_spec hx s
  have hbody : body = requestBody s.part.node h kind args := bodyOfRequest_eq hx
  have hmin : 8 ≤ body.length := by
    rw [hbody, requestBody_length]
    omega
  refine ⟨s.deliverRequest h.tier body, hbody ▸ hexec, fun hl => ?_, fun hl hh => ?_,
    fun hl hh hc => deliverRequest_of_no_cell ⟨hmin, hl⟩ hs hh hc, fun hl hh hc => ?_⟩
  · rw [deliverRequest_of_long hl]
    exact ⟨counted_countDiscard .., changesOnly_countDiscard ..⟩
  · rw [deliverRequest_of_no_handle ⟨hmin, hl⟩ hh]
    exact ⟨counted_countDiscard .., changesOnly_countDiscard ..⟩
  obtain ⟨u, r, hoffer, hus, hfree, hr, ⟨htier, hstream, -⟩, hub, hkeep, hcar, hfh, hfc, hframe⟩ :=
    deliverRequest_stored (q := h.tier) ⟨hmin, hl⟩ hs hh hc
  have hagent : u.agent = s.agent := hframe.agent (by decide)
  generalize s.lowestHandle = k at *
  obtain ⟨hja, hjh, hjk, hjo, hjf⟩ := inboxJoined_spec hr
  obtain ⟨-, hjfh, hjfc, hjb, hjc⟩ := inboxJoined_keeps hus hr
  have hwaits : KeepsHandles [k] s (u.inboxJoined k) ∧ KeepsHeld s (u.inboxJoined k) ∧
      ChangesOnly [.buf, .agent] s (u.inboxJoined k) :=
    ⟨fun j hj => (hjk j hj).trans (hkeep j hj), (hcar.trans hjc).keepsHeld hs, (hframe.mono (by decide)).trans hjf⟩
  rw [hoffer]
  refine ⟨fun hfull => ?_, fun hroom hwait => ?_, fun hempty hidle hreply => ?_⟩
  · rw [offerInbox_of_full (by rwa [hagent])]
    obtain ⟨hgone, hkeep', hoct, hcount, hev⟩ := discarded_discard (s := u) .inboxFull k
    rw [streamOf, hr, Option.bind_some, hstream] at hcount
    refine ⟨hcount.of_eq (hframe.tallies (by decide)), fun j _ => ?_,
      fun a ha => (hoct a).trans (hcar.keepsHeld hs a ha), by rw [hev, hframe.releaseEvents (by decide)],
      (hframe.mono (by decide)).trans (changesOnly_discard .inboxFull k)⟩
    by_cases hj : j = k
    · exact hj ▸ hgone.trans hfree.symm
    · have hj' : j ∉ [k] := fun e => hj (List.mem_singleton.1 e)
      exact (hkeep' j hj').trans (hkeep j hj')
  · have hnot : ¬ (u.agent.inbox = [] ∧ u.agent.state = .idle) := by
      rw [hagent]
      rintro ⟨hin, hst⟩
      rcases hwait with hne | hw
      · exact hne hin
      · rw [hst] at hw
        cases hw
    rw [offerInbox_of_room (by rwa [hagent]), if_neg hnot]
    exact ⟨k, _, hfree, hjh, rfl, htier, hstream, hjb.trans hub, hwaits.1, hwaits.2.1, hagent ▸ hja, hwaits.2.2⟩
  · have hin : (u.inboxJoined k).agent.inbox = k :: [] := by rw [hja, hagent, hempty]; rfl
    have hrefused : (u.inboxJoined k).attempt = (u.inboxJoined k).withAgent
        { (u.inboxJoined k).agent with state := .waiting } := attempt_of_refused hin (by
      have := cellsFor_replyLength_pos ((u.inboxJoined k).verdict ((u.inboxJoined k).bodyOf k))
      omega)
    rw [offerInbox_of_room (by rw [hagent, hempty]; decide), if_pos (by rw [hagent]; exact ⟨hempty, hidle⟩), hrefused]
    refine ⟨k, _, hfree, hjh, rfl, hjb.trans hub, hwaits.1, hwaits.2.1, ?_, ?_⟩
    · simp only [withAgent_agent, hja, hagent, hempty, List.nil_append]
    · exact hwaits.2.2.trans (by simp [ChangesOnly])

end Sys2Proof.Machine
end

section
/-! PROOFS. The answer of a request (R151): what the reply, the notice queue and the release of the request leave of
the trunk and of the frames held. -/

namespace Sys2Proof.Machine

/-- The part's own frames join the T0 queue: every handle but those in `gone` keeps its frame, no frame leaves the T0
queue but to be sent, and while the transmitter is busy nothing of it changes (R90, R151, R178). -/
structure Grows (gone : List Nat) (s t : State) : Prop where
  stores : StoresOk t
  carries : Carries gone s t
  keepsQueued : ∀ k, s.Queued k → t.Queued k
  line : t.line = { s.line with sent := t.line.sent }
  busy : s.tx.mode ≠ .idle → t.tx = s.tx ∧ t.line = s.line ∧
    (∀ u, u ≠ .t0 → (t.queue u).members = (s.queue u).members) ∧
    (s.queue .t0).members <+: (t.queue .t0).members ∧
    ∀ k r, k ∉ gone → s.handle? k = some r → t.handle? k = some r

namespace Grows

variable {s t u : State} {g g' : List Nat}

theorem refl (g : List Nat) (hs : StoresOk s) : Grows g s s :=
  ⟨hs, .refl g s, fun _ => id, rfl, fun _ => ⟨rfl, rfl, fun _ _ => rfl, List.prefix_refl _, fun _ _ _ => id⟩⟩

theorem mono (h : Grows g s t) (hg : g ⊆ g') : Grows g' s t :=
  ⟨h.stores, h.carries.mono hg, h.keepsQueued, h.line, fun hm => by
    obtain ⟨htx, hline, hother, ht0, hkeep⟩ := h.busy hm
    exact ⟨htx, hline, hother, ht0, fun k r hk => hkeep k r fun hk' => hk (hg hk')⟩⟩

theorem trans (h : Grows g s t) (h' : Grows g t u) : Grows g s u := by
  refine ⟨h'.stores, h.carries.trans h'.carries, fun k hk => h'.keepsQueued k (h.keepsQueued k hk), ?_, fun hm => ?_⟩
  · rw [h'.line, h.line]
  · obtain ⟨htx, hline, hother, ht0, hkeep⟩ := h.busy hm
    obtain ⟨htx', hline', hother', ht0', hkeep'⟩ := h'.busy (by rwa [htx])
    exact ⟨htx'.trans htx, hline'.trans hline, fun x hx => (hother' x hx).trans (hother x hx), ht0.trans ht0',
      fun k r hk hr => hkeep' k r hk (hkeep k r hk hr)⟩

/-- A handle that was FREE before needs no mention. -/
theorem drop_new {n : Nat} (h : Grows (n :: g) s t) (hn : s.handle? n = none) : Grows g s t := by
  have hne {k : Nat} {r : Handle} (hk : k ∉ g) (hr : s.handle? k = some r) : k ∉ n :: g := fun hk' => by
    rcases List.mem_cons.1 hk' with rfl | hk'
    · rw [hn] at hr
      cases hr
    · exact hk hk'
  refine ⟨h.stores, fun k r hk hr => h.carries k r (hne hk hr) hr, h.keepsQueued, h.line, fun hm => ?_⟩
  obtain ⟨htx, hline, hother, ht0, hkeep⟩ := h.busy hm
  exact ⟨htx, hline, hother, ht0, fun k r hk hr => hkeep k r (hne hk hr) hr⟩

/-- A move of other blocks, that changes no handle but those in `g` and no octet. -/
theorem of_frame {bs : List Block} (h : ChangesOnly bs s t) (hb : Block.queues ∉ bs ∧ Block.tx ∉ bs ∧ Block.line ∉ bs)
    (ht : StoresOk t) (hk : KeepsHandles g s t) (ho : t.buf.octets = s.buf.octets) : Grows g s t := by
  obtain ⟨hq, htx, hline⟩ := hb
  have hqueue (x : Tier) : t.queue x = s.queue x := State.queue_of_queues (h.queues hq) x
  exact ⟨ht, .of_octets ho hk, fun k hk => hk.congr (by rw [hqueue]) (h.tx htx), by rw [h.line hline],
    fun _ => ⟨h.tx htx, h.line hline, fun x _ => by rw [hqueue], by rw [hqueue],
      fun k r hn hr => (hk k hn).trans hr⟩⟩

/-- A move that leaves the handle table and the cell store. -/
theorem of_buf {bs : List Block} (h : ChangesOnly bs s t)
    (hb : Block.buf ∉ bs ∧ Block.queues ∉ bs ∧ Block.tx ∉ bs ∧ Block.line ∉ bs) (hs : StoresOk s) : Grows g s t := by
  have hbuf := h.buf hb.1
  exact .of_frame h hb.2 (State.storesOk_of_buf hs hbuf) (fun k _ => State.handle?_of_buf hbuf k) (by rw [hbuf])

theorem of_joined {h : Nat} {l : List Byte} (hj : State.Joined s t h l) : Grows [h] s t := by
  refine ⟨hj.stores, hj.carries, hj.keepsQueued, hj.line, fun hm => ?_⟩
  obtain ⟨hmem, hother, hkeep, htx, hline, -⟩ := hj.waits hm
  exact ⟨htx, hline, hother, by rw [hmem]; exact List.prefix_append .., fun k r hk hr => (hkeep k hk).trans hr⟩

theorem frame (h : Grows g s t) : AnswerFrame g s t := by
  refine ⟨h.line, fun k r hk hr x hx i hi => ?_, h.busy⟩
  obtain ⟨-, -, -, -, hoct⟩ := h.carries k r hk hr
  exact hoct x hx i hi

end Grows

theorem KeepsLimits.trans {s t u : State} (h : KeepsLimits s t) (h' : KeepsLimits t u) : KeepsLimits s u :=
  fun x => (h' x).trans (h x)

theorem KeepsLimits.of_queues {s t : State} (h : t.queues = s.queues) : KeepsLimits s t :=
  fun x => by rw [State.queue_of_queues h]

namespace State

variable {s t : State}

/-! ## What the notice queue's sends leave -/

/-- A send that needs no room leaves the stores and the trunk. -/
theorem grows_refusedSend (hs : StoresOk s) (v : NoticeQueue) : Grows [] s (s.withNotices v) ∧
    KeepsLimits s (s.withNotices v) :=
  ⟨.of_buf (changesOnly_withNotices v) (by decide) hs, .of_queues rfl⟩

theorem grows_sendOldest (hs : StoresOk s) (q : Byte) (k : Nat) (l c : Byte) :
    Grows [] s (s.sendOldest q k l c) ∧ KeepsLimits s (s.sendOldest q k l c) := by
  cases hr : s.notices.records with
  | nil =>
    simp only [sendOldest, hr]
    exact ⟨.refl [] hs, fun _ => rfl⟩
  | cons n rest =>
    by_cases hroom : 1 ≤ s.freeHandles ∧ 1 ≤ s.freeCells
    · obtain ⟨h, u, hfree, hu, hcar, hkeep, hframe, -, -, hj⟩ := sendOldest_joins hs hr hroom q k l c
      have hclaim : Grows [h] s u := by
        refine ⟨hu, hcar.mono (List.nil_subset _), fun k hk => hk.congr ?_ (hframe.tx (by decide)),
          by rw [hframe.line (by decide)], fun _ => ⟨hframe.tx (by decide), hframe.line (by decide), fun x _ => ?_, ?_,
          fun j r hj hr => (hkeep j hj).trans hr⟩⟩
        · rw [queue_of_queues (hframe.queues (by decide))]
        · rw [queue_of_queues (hframe.queues (by decide))]
        · rw [queue_of_queues (hframe.queues (by decide))]
      exact ⟨(hclaim.trans (.of_joined hj)).drop_new hfree,
        (KeepsLimits.of_queues (hframe.queues (by decide))).trans hj.limits⟩
    · rw [sendOldest_refused hr hroom]
      exact grows_refusedSend hs _

theorem grows_noticeAttempt (hs : StoresOk s) : Grows [] s s.noticeAttempt ∧ KeepsLimits s s.noticeAttempt := by
  unfold noticeAttempt
  split
  · exact grows_sendOldest hs ..
  · exact ⟨.refl [] hs, fun _ => rfl⟩

/-- A retry is a send of the oldest record, with the claim pending, or nothing (R180). -/
theorem noticeRetry_cases (s : State) : s.noticeRetry = s ∨ s.notices.pending = true ∧ s.noticesOpen = true ∧
    ∃ n rest q k l c, s.notices.records = n :: rest ∧ s.noticeRetry = s.sendOldest q k l c := by
  by_cases h : (s.line.link = .up ∧ s.part.noticeTag ≠ 0) ∧ s.notices.records ≠ [] ∧ s.notices.pending = true
  · obtain ⟨ho, hne, hp⟩ := h
    obtain ⟨n, rest, hr⟩ := List.exists_cons_of_ne_nil hne
    refine .inr ⟨hp, noticesOpen_iff.2 ho, n, rest, ?_⟩
    cases hn : n.state with
    | queued => exact ⟨_, _, _, _, hr, noticeRetry_of_queued (noticesOpen_iff.2 ho) hp hr hn⟩
    | sent q k l => exact ⟨_, _, _, _, hr, noticeRetry_of_sent (noticesOpen_iff.2 ho) hp hr hn⟩
  · exact .inl (noticeRetry_of_not h)

theorem grows_noticeRetry (hs : StoresOk s) : Grows [] s s.noticeRetry ∧ KeepsLimits s s.noticeRetry := by
  obtain he | ⟨-, -, n, rest, q, k, l, c, -, he⟩ := noticeRetry_cases s
  · rw [he]
    exact ⟨.refl [] hs, fun _ => rfl⟩
  · rw [he]
    exact grows_sendOldest hs q k l c

theorem grows_noticeResume (hs : StoresOk s) : Grows [] s s.noticeResume ∧ KeepsLimits s s.noticeResume := by
  cases hp : s.notices.pending with
  | true =>
    rw [noticeResume_of_pending hp]
    exact grows_noticeRetry hs
  | false =>
    rw [noticeResume_of_not_pending hp]
    exact grows_noticeAttempt hs

/-- A retry that leaves the claim pending has taken no handle. -/
theorem noticeRetry_unsent (h : s.noticeRetry.notices.pending = s.notices.pending) : s.noticeRetry.buf = s.buf := by
  obtain he | ⟨hp, -, n, rest, q, k, l, c, hr, he⟩ := noticeRetry_cases s
  · rw [he]
  · rw [he] at h ⊢
    by_cases hroom : 1 ≤ s.freeHandles ∧ 1 ≤ s.freeCells
    · rw [sendOldest_notices_granted hr hroom, hp] at h
      cases h
    · rw [sendOldest_refused hr hroom]
      rfl

/-- With no claim pending a retry does nothing. -/
theorem noticeRetry_of_not_pending (h : s.notices.pending = false) : s.noticeRetry = s :=
  noticeRetry_of_not fun ⟨_, _, hp⟩ => by
    rw [h] at hp
    cases hp

/-! ## The release of the request (R151) -/

/-- What the release of the request leaves. -/
theorem releaseRequest_spec (hs : StoresOk s) (k : Nat) :
    Grows [k] s (s.releaseRequest k) ∧ KeepsLimits s (s.releaseRequest k) ∧
    (s.releaseRequest k).agent = { s.agent with state := .idle, inbox := s.agent.inbox.tail } ∧
    ((s.releaseRequest k).notices.pending = s.notices.pending → (s.releaseRequest k).handle? k = none) ∧
    (s.notices.pending = false → (s.releaseRequest k).notices = s.notices) ∧
    ChangesOnly answerBlocks s (s.releaseRequest k) := by
  let u := (s.withAgent { s.agent with state := .idle, inbox := s.agent.inbox.tail }).freeHandle k
  have hus : StoresOk u := (storesOk_freeHandle (storesOk_of_buf hs rfl) k).1
  have hframe : ChangesOnly [.buf, .agent] s u := by simp [ChangesOnly, u]
  have hgrows : Grows [k] s u := .of_frame hframe (by decide) hus
    (keepsHandles_of_other fun j hj => (freeHandle_handle?_other _ hj).trans (handle?_of_buf rfl j)) rfl
  obtain ⟨hretry, hlim⟩ := grows_noticeRetry hus
  have hretryFrame : ChangesOnly [.buf, .queues, .tx, .line, .notices] u u.noticeRetry := lawful_noticeRetry.frame
  refine ⟨hgrows.trans (hretry.mono (List.nil_subset _)), (KeepsLimits.of_queues rfl).trans hlim,
    hretryFrame.agent (by decide), fun hp => ?_, fun hp => ?_, (hframe.mono (by decide)).trans
      (hretryFrame.mono (by decide))⟩
  · exact (handle?_of_buf (noticeRetry_unsent (s := u) hp) k).trans (freeHandle_handle?_self _ k)
  · have hu : u.noticeRetry = u := noticeRetry_of_not_pending hp
    show u.noticeRetry.notices = s.notices
    rw [hu]
    rfl

end State

/-! ## The reply (R151 steps 2 to 4) -/

/-- The controller records after a verdict (R154, R156). -/
def Verdict.recorded (v : Verdict) (m : Vector (Option CtlRecord) 4) : Vector (Option CtlRecord) 4 :=
  match v with
  | .fresh q a =>
    if a.status = .badRequest then m else m.set q.controller.val (some { number := q.number, status := a.status })
  | _ => m

namespace State

variable {s t : State}

theorem recordAnswer_eq (v : Verdict) :
    s.recordAnswer v = s.withAgent { s.agent with records := v.recorded s.agent.records } := by
  cases v with
  | malformed => rfl
  | repeated st => rfl
  | fresh q a =>
    simp only [recordAnswer, Verdict.recorded]
    split
    · rfl
    · rfl

theorem touchWindow_eq (c : Byte) :
    s.touchWindow c = s.withAgent { s.agent with window := touched c.toNat s.agent.window } := by
  unfold touchWindow
  cases hw : s.agent.window with
  | none =>
    simp only [touched]
    rw [← hw]
    rfl
  | some w =>
    simp only [touched]
    split
    · rfl
    · rw [← hw]
      rfl

/-- The agent's record and window at the reply. -/
def recordedAgent (s : State) (v : Verdict) (c : Byte) : State :=
  s.withAgent { s.agent with records := v.recorded s.agent.records, window := touched c.toNat s.agent.window }

theorem replied_eq (v : Verdict) (c : Byte) (r : Nat) (octets : List Byte) :
    s.replied v c r octets = ((s.recordedAgent v c).storeOctets r octets).joinQueue .t0 r := by
  rw [replied, recordAnswer_eq, touchWindow_eq]
  rfl

/-- The reply of a request carried out joins the T0 queue, for the handle built for it. -/
theorem joined_replied (hs : StoresOk s) {v : Verdict} {c : Byte} {r : Nat} {octets : List Byte}
    (hb : s.Building r octets.length) : Joined (s.recordedAgent v c) (s.replied v c r octets) r octets := by
  rw [replied_eq]
  exact joined_joinBuilt (s := s.recordedAgent v c) (storesOk_of_buf hs rfl) (hb.congr rfl)

/-- The octets of the reply of a body. -/
theorem answer_octets {h r : Nat} {body : List Byte} {v : Verdict} {c : State} {payload : List Byte}
    (hc : s.carryVerdict v = (c, payload)) : s.answer h r body v = ((c.replied v (octetAt body 4) r
      (c.replyBody body v payload)).noticesAfterReply s.part.noticeTag v).releaseRequest h := by
  have hbody : ((c.recordAnswer v).touchWindow (octetAt body 4)).replyBody body v payload =
      c.replyBody body v payload := by
    rw [recordAnswer_eq, touchWindow_eq]
    rfl
  rw [← hbody, answer, hc]
  rfl

/-- What an answer leaves of the state at which its effect has been carried out. -/
structure Answering (c t : State) (k r : Nat) (v : Verdict) (controller : Byte) (octets : List Byte) : Prop where
  grows : Grows [k, r] c t
  limits : KeepsLimits c t
  queued : t.Queued r
  body : t.bodyOf r = octets
  agent : t.agent = { state := .idle, inbox := c.agent.inbox.tail, window := touched controller.toNat c.agent.window
                      records := v.recorded c.agent.records }
  frame : ChangesOnly answerBlocks c t

theorem grows_noticesAfterReply (hs : StoresOk s) (before : Tag) (v : Verdict) :
    Grows [] s (s.noticesAfterReply before v) ∧ KeepsLimits s (s.noticesAfterReply before v) := by
  unfold noticesAfterReply
  split
  · exact grows_noticeAttempt hs
  · exact grows_noticeAttempt hs
  · split
    · exact grows_noticeResume hs
    · exact ⟨.refl [] hs, fun _ => rfl⟩
  · exact ⟨.refl [] hs, fun _ => rfl⟩

theorem changesOnly_noticesAfterReply (before : Tag) (v : Verdict) :
    ChangesOnly [.buf, .queues, .tx, .line, .notices] s (s.noticesAfterReply before v) := by
  unfold noticesAfterReply
  split
  · exact lawful_noticeAttempt.frame
  · exact lawful_noticeAttempt.frame
  · split
    · exact lawful_noticeResume.frame
    · exact .refl ..
  · exact .refl ..

section Answer

variable {h r : Nat} {body : List Byte} {v : Verdict} {c : State} {payload : List Byte}
  (hc : s.carryVerdict v = (c, payload)) (hs : StoresOk c) (hb : c.Building r (8 + payload.length))
include hc hs hb

omit hc in
/-- The reply stands before the notice queue acts. -/
theorem joined_answer : Joined (c.recordedAgent v (octetAt body 4))
    (c.replied v (octetAt body 4) r (c.replyBody body v payload)) r (c.replyBody body v payload) :=
  joined_replied hs ((replyBody_length (s := c) body v payload).symm ▸ hb)

theorem answering (hne : h ≠ r) :
    Answering c (s.answer h r body v) h r v (octetAt body 4) (c.replyBody body v payload) := by
  have hj := joined_answer (body := body) (v := v) (payload := payload) hs hb
  rw [answer_octets hc]
  have hrec : ChangesOnly [.agent] c (c.recordedAgent v (octetAt body 4)) := by simp [ChangesOnly, recordedAgent]
  generalize c.replied v (octetAt body 4) r (c.replyBody body v payload) = p at hj
  obtain ⟨hgrowsN, hlimN⟩ := grows_noticesAfterReply hj.stores s.part.noticeTag v
  have hframeN := changesOnly_noticesAfterReply (s := p) s.part.noticeTag v
  generalize p.noticesAfterReply s.part.noticeTag v = p' at hgrowsN hlimN hframeN
  have hagent : p'.agent = (c.recordedAgent v (octetAt body 4)).agent :=
    (hframeN.agent (by decide)).trans (hj.frame.agent (by decide))
  obtain ⟨hgrows, hlim, hagent', -, -, hframe⟩ := releaseRequest_spec hgrowsN.stores h
  obtain ⟨x, hx, hfit⟩ := hj.fits
  have hrh : r ∉ [h] := fun e => hne (List.mem_singleton.1 e).symm
  have hcar : Carries [h] p (p'.releaseRequest h) := (hgrowsN.carries.mono (List.nil_subset _)).trans hgrows.carries
  refine ⟨?_, ?_, hgrows.keepsQueued r (hgrowsN.keepsQueued r hj.queued), (hcar.body hrh hx hfit).trans hj.body, ?_, ?_⟩
  · refine Grows.trans (t := c.recordedAgent v (octetAt body 4)) (.of_buf hrec (by decide) hs) ?_
    refine ((Grows.of_joined hj).mono (by simp)).trans ?_
    exact (hgrowsN.mono (List.nil_subset _)).trans (hgrows.mono (by simp))
  · exact (KeepsLimits.of_queues (t := c.recordedAgent v (octetAt body 4)) rfl).trans
      (hj.limits.trans (hlimN.trans hlim))
  · rw [hagent', hagent]
    rfl
  · exact (((hrec.mono (by decide)).trans (hj.frame.mono (by decide))).trans (hframeN.mono (by decide))).trans hframe

/-- An answer after whose reply the notice queue does not act. -/
theorem answering_quiet (hq : (c.replied v (octetAt body 4) r (c.replyBody body v payload)).noticesAfterReply
      s.part.noticeTag v = c.replied v (octetAt body 4) r (c.replyBody body v payload)) :
    ((s.answer h r body v).notices.pending = c.notices.pending → (s.answer h r body v).handle? h = none) ∧
      (c.notices.pending = false → (s.answer h r body v).notices = c.notices) := by
  have hj := joined_answer (body := body) (v := v) (payload := payload) hs hb
  rw [answer_octets hc, hq]
  generalize c.replied v (octetAt body 4) r (c.replyBody body v payload) = p at hj
  have hnotices : p.notices = c.notices := hj.frame.notices (by decide)
  obtain ⟨-, -, -, hfreed, hkeeps, -⟩ := releaseRequest_spec hj.stores h
  exact ⟨fun hpend => hfreed (hpend.trans (by rw [hnotices])),
    fun hpend => (hkeeps (by rw [hnotices]; exact hpend)).trans hnotices⟩

end Answer
end State
end Sys2Proof.Machine
end

section
/-! PROOFS. How a request comes to be answered, at each of its turns (R13, R149, R150): the state at which its effect is
carried out, and what an answer is then. -/

namespace Sys2Proof.Machine

/-- The state at which the effect of a request is carried out: its handle `k` heads the inbox, and the reply of `n`
octets has its handle `r` and its cells (R150). -/
structure Begins (w : Turn) (s u : State) (k r n : Nat) : Prop where
  stores : StoresOk u
  ne : k ≠ r
  fresh : s.handle? r = none
  asked : w.asked = [] ∧ s.handle? k = none ∨ w.asked = [k] ∧ ∃ q, s.handle? k = some q ∧ q.holder = .inbox
  head : ∃ q, u.handle? k = some q
  building : u.Building r n
  carries : Carries [] s u
  keeps : KeepsHandles [k, r] s u
  agent : u.agent = { s.agent with inbox := k :: w.behind }
  handles : u.freeHandles + (2 - w.asked.length) = s.freeHandles
  frame : ChangesOnly [.buf, .agent] s u

namespace State

variable {s t : State}

/-- The attempt on a head whose reply has room (R150). -/
theorem attempt_begins (hs : StoresOk s) {k : Nat} {behind : List Nat} {q : Handle} (hin : s.agent.inbox = k :: behind)
    (hk : s.handle? k = some q) (hq : q.holder = .inbox) (hh : 1 ≤ s.freeHandles)
    (hc : cellsFor (s.verdict (s.bodyOf k)).replyLength ≤ s.freeCells) :
    ∃ u r, s.attempt = u.answer k r (s.bodyOf k) (s.verdict (s.bodyOf k)) ∧
      Begins (.attempt k behind) s u k r (s.verdict (s.bodyOf k)).replyLength ∧
      u.handle? k = s.handle? k ∧ u.freeCells + cellsFor (s.verdict (s.bodyOf k)).replyLength = s.freeCells ∧
      ChangesOnly [.buf] s u := by
  obtain ⟨u, r, cells, hattempt, hus, hne, hfree, hr, hlen, hother, hoct, hcount, hheld, hframe⟩ :=
    attempt_answers hs hin hk hh hc
  refine ⟨u, r, hattempt, ⟨hus, hne, hfree, .inr ⟨rfl, q, hk, hq⟩, ⟨q, (hother k hne).trans hk⟩,
    ⟨_, hr, rfl, rfl, hlen⟩, ?_, fun j hj => hother j fun e => hj (by simp [e]), ?_, ?_, hframe.mono (by decide)⟩,
    hother k hne, ?_, hframe⟩
  · refine Carries.trans_new (n := r) (.refl [] s) hfree (.of_octets hoct fun j hj => hother j ?_)
    exact fun e => hj (List.mem_singleton.2 e)
  · rw [hframe.agent (by decide), Turn.behind, ← hin]
  · simp only [freeHandles, Config.handleCount, Turn.asked, List.length_singleton] at hh ⊢
    omega
  · simp only [freeCells, Config.cellCount] at hc ⊢
    omega

/-- The attempt on a request just delivered to an IDLE agent with an empty inbox (R139, R149). -/
theorem deliver_begins (hs : StoresOk s) {tier : Tier} {body : List Byte} (hlen : 8 ≤ body.length ∧ body.length ≤ 2048)
    (hidle : s.agent.state = .idle) (hin : s.agent.inbox = []) (hh : 2 ≤ s.freeHandles)
    (hc : cellsFor body.length + cellsFor (s.verdict body).replyLength ≤ s.freeCells) :
    ∃ u k r, s.deliverRequest tier body = u.answer k r body (s.verdict body) ∧
      Begins .arrival s u k r (s.verdict body).replyLength ∧ (∃ q, u.handle? k = some q ∧ 1 ≤ q.chain.length) ∧
      u.freeCells + cellsFor (s.verdict body).replyLength + cellsFor body.length = s.freeCells := by
  obtain ⟨u, q, hoffer, hus, hfree, hq, ⟨-, -, hfit⟩, hub, hkeep, hcar, hfh, hfc, hframe⟩ :=
    deliverRequest_stored (q := tier) hlen hs (by omega) (by omega)
  have hagent : u.agent = s.agent := hframe.agent (by decide)
  generalize s.lowestHandle = k at *
  obtain ⟨hja, hjh, hjk, hjo, hjf⟩ := inboxJoined_spec hq
  obtain ⟨hjs, hjfh, hjfc, hjb, hjc⟩ := inboxJoined_keeps hus hq
  have hall : ChangesOnly [.buf, .agent] s (u.inboxJoined k) := (hframe.mono (by decide)).trans hjf
  have hbody : (u.inboxJoined k).bodyOf k = body := hjb.trans hub
  have hverdict : (u.inboxJoined k).verdict body = s.verdict body := by
    refine verdict_congr body ?_ ?_ (hall.metering (by decide)) (hall.streams (by decide)) (hall.notices (by decide))
    · rw [hja, hagent]
    · rw [hja, hagent]
  have hjin : (u.inboxJoined k).agent.inbox = k :: [] := by rw [hja, hagent, hin]; rfl
  obtain ⟨v, r, hattempt, hb, hkv, hvc, hvframe⟩ := attempt_begins hjs hjin hjh rfl (by omega)
    (by rw [hbody, hverdict]; omega)
  rw [hbody, hverdict] at hattempt hb hvc
  have hoffer' : u.offerInbox k = (u.inboxJoined k).attempt := by
    rw [offerInbox_of_room (by rw [hagent, hin]; decide), if_pos (by rw [hagent]; exact ⟨hin, hidle⟩)]
  have hrk : r ∉ [k] := fun e => hb.ne (List.mem_singleton.1 e).symm
  refine ⟨v, k, r, hoffer.trans (hoffer'.trans hattempt), ⟨hb.stores, hb.ne, ?_, .inl ⟨rfl, hfree⟩, hb.head,
    hb.building, (hcar.trans hjc).trans hb.carries, fun j hj => ?_, ?_, ?_, hall.trans (hvframe.mono (by decide))⟩,
    ⟨_, hkv.trans hjh, ?_⟩, ?_⟩
  · exact (hkeep r hrk).symm.trans ((hjk r hrk).symm.trans hb.fresh)
  · have hjk' : j ∉ [k] := fun e => hj (by simp [List.mem_singleton.1 e])
    exact (hb.keeps j hj).trans ((hjk j hjk').trans (hkeep j hjk'))
  · rw [hvframe.agent (by decide), hja, hagent, hin]
    rfl
  · have := hb.handles
    simp only [Turn.asked, List.length_singleton, List.length_nil] at this ⊢
    omega
  · dsimp only
    have hlength : body.length = q.bodyLength := by rw [← hub, bodyOf_eq hq, bodySlice]; simp
    rw [hfit, ← hlength]
    simp only [cellsFor, Config.cellSize]
    omega
  · omega

end State

/-! ## The kind of a request -/

/-- The kind code of a request (R199). -/
def RequestOp.kind : RequestOp → Byte
  | .select _ _ => 0x01
  | .release => 0x02
  | .read _ _ => 0x03
  | .write _ _ _ => 0x04
  | .append _ _ => 0x05
  | .acknowledge _ => 0x06
  | .status => 0x07
  | .restart => 0x08
  | .portReset _ => 0x09

theorem decodeOp_kind {body : List Byte} {op : RequestOp} (h : decodeOp body = some op) : octetAt body 6 = op.kind := by
  have hkind (n : Nat) (hn : (octetAt body 6).toNat = n) (b : Byte) (hb : b.toNat = n) : octetAt body 6 = b :=
    BitVec.eq_of_toNat_eq (hn.trans hb.symm)
  unfold decodeOp at h
  split at h
  case h_1 hn =>
    split at h
    · cases h
    · obtain ⟨t, -, rfl⟩ := Option.map_eq_some_iff.1 h
      exact hkind 1 hn _ rfl
  case h_2 hn => cases h; exact hkind 2 hn _ rfl
  case h_3 hn =>
    split at h
    · cases h
    · cases h; exact hkind 3 hn _ rfl
  case h_4 hn =>
    split at h
    · cases h
    · cases h; exact hkind 4 hn _ rfl
  case h_5 hn =>
    split at h
    · cases h
    · cases h; exact hkind 5 hn _ rfl
  case h_6 hn =>
    split at h
    · cases h
    · cases h; exact hkind 6 hn _ rfl
  case h_7 hn => cases h; exact hkind 7 hn _ rfl
  case h_8 hn => cases h; exact hkind 8 hn _ rfl
  case h_9 hn =>
    split at h
    · cases h
    · cases h; exact hkind 9 hn _ rfl
  case h_10 => cases h

/-- The controller, number and kind octets of a request that is not malformed. -/
theorem decodeRequest_octets {body : List Byte} {q : Request} (h : decodeRequest body = some q) :
    octetAt body 4 = BitVec.ofNat 8 q.controller.val ∧ octetAt body 5 = q.number ∧ octetAt body 6 = q.op.kind ∧
      1 ≤ body.length := by
  unfold decodeRequest at h
  split at h
  case isFalse => cases h
  case isTrue hc =>
    obtain ⟨op, hop, rfl⟩ := Option.map_eq_some_iff.1 h
    refine ⟨by simp, rfl, decodeOp_kind hop, ?_⟩
    cases body with
    | nil => cases hop
    | cons b l => exact Nat.succ_pos _

theorem requestOf_kind (s : State) {x : Instr} {h : ReqHeader} {kind : Byte} {args : List Byte} {q : Request}
    (hx : requestParts x = some (h, kind, args)) (hq : requestOf x = some q) :
    q.op.kind = kind ∧ q.controller = h.controller ∧ q.number = h.number := by
  obtain ⟨⟨op, hop, hreq⟩, -, -⟩ := requestParts_spec hx s
  obtain rfl : q = ⟨h.controller, h.number, op⟩ := Option.some.inj (hq.symm.trans hreq)
  exact ⟨(decodeOp_kind hop).symm, rfl, rfl⟩

namespace State

variable {s t : State}

/-! ## The turn of a request that its controller has not numbered last -/

/-- A fresh request is executed. -/
theorem verdict_of_fresh {body : List Byte} {q : Request} (hq : decodeRequest body = some q)
    (hr : ∀ r, s.agent.records.get q.controller = some r → r.number ≠ q.number) :
    s.verdict body = .fresh q (s.judge q) := by
  simp only [verdict, hq]
  split
  · rename_i r hc
    simp [hr r hc]
  · rfl

/-- What the answering of request `q` to `h` starts from. -/
structure Executes (w : Turn) (s t : State) (h : ReqHeader) (kind : Byte) (q : Request) (u : State) (k r : Nat)
    (body : List Byte) : Prop where
  eq : t = u.answer k r body (.fresh q (s.judge q))
  begins : Begins w s u k r (Verdict.fresh q (s.judge q)).replyLength
  chain : ∃ x, u.handle? k = some x ∧ 1 ≤ x.chain.length
  tag : word16At body 2 = h.replyTag
  decoded : decodeRequest body = some q
  kind : q.op.kind = kind
  controller : q.controller = h.controller
  number : q.number = h.number

theorem head_chain {k : Nat} {x : Handle} {q : Request} (hx : s.handle? k = some x) (hfit : x.Fits)
    (hq : decodeRequest (s.bodyOf k) = some q) : 1 ≤ x.chain.length := by
  obtain ⟨-, -, -, hlen⟩ := decodeRequest_octets hq
  rw [bodyOf_eq hx, bodySlice, List.length_map, List.length_range'] at hlen
  rw [hfit]
  simp only [cellsFor, Config.cellSize]
  omega

/-- At each of its turns a request is executed, and answered (R149, R150, R151). -/
theorem exec_executes {turn : Turn} {x : Instr} {h : ReqHeader} {n : Nat} {kind : Byte} {args : List Byte} {q : Request}
    (ha : s.Answers turn x h n) (hx : requestParts x = some (h, kind, args)) (hq : requestOf x = some q)
    (hn : cellsFor (Verdict.fresh q (s.judge q)).replyLength ≤ cellsFor n) :
    ∃ t u k r body, exec (turn.command x) s = .next t ∧ Executes turn s t h kind q u k r body ∧
      u.freeCells + cellsFor (Verdict.fresh q (s.judge q)).replyLength +
        (if turn = .arrival then cellsFor (s.bodyOfRequest x).length else 0) = s.freeCells := by
  obtain ⟨hkind, hctl, hnum⟩ := requestOf_kind s hx hq
  obtain ⟨hs, hev, hrec, hturn⟩ := ha
  rw [← hctl, ← hnum] at hrec
  have hattempt {k : Nat} {behind : List Nat} (hd : s.Heads x h n k behind) : ∃ t u r,
      s.attempt = t ∧ Executes (.attempt k behind) s t h kind q u k r (s.bodyOf k) ∧
        u.freeCells + cellsFor (Verdict.fresh q (s.judge q)).replyLength = s.freeCells := by
    obtain ⟨y, hy, hyi⟩ := heads_held hd
    obtain ⟨-, hfit, hin, hb, htag, hh, hc⟩ := hd
    rw [hq] at hb
    have hv := verdict_of_fresh hb hrec
    obtain ⟨u, r, he, hbegin, hk, hcells, -⟩ := attempt_begins hs hin hy hyi hh (by rw [hv]; omega)
    rw [hv] at he hbegin hcells
    have hyfit : y.Fits := hfit (k, y) (mem_of_handle? hy)
    exact ⟨_, u, r, he, ⟨rfl, hbegin, ⟨y, hk.trans hy, head_chain hy hyfit hb⟩, htag, hb, hkind, hctl, hnum⟩, hcells⟩
  cases turn with
  | arrival =>
    obtain ⟨hlen, hidle, hin, hh, hc⟩ := hturn
    obtain ⟨-, hargs, hexec⟩ := requestParts_spec hx s
    have hbody : s.bodyOfRequest x = requestBody s.part.node h kind args := bodyOfRequest_eq hx
    have hmin : 8 ≤ (s.bodyOfRequest x).length := by rw [hbody, requestBody_length]; omega
    obtain ⟨hdec, -, -, htag, -⟩ := requestBodiesDecode x s h kind args hx
    have hdec' := hdec.trans hq
    have hv := verdict_of_fresh hdec' hrec
    obtain ⟨u, k, r, he, hbegin, hchain, hcells⟩ := deliver_begins (tier := h.tier) hs ⟨hmin, hlen⟩ hidle hin hh
      (by rw [hv]; omega)
    rw [hv] at he hbegin hcells
    have huv : u.verdict (s.bodyOfRequest x) = .fresh q (s.judge q) := by
      rw [← hv]
      exact verdict_congr _ (by rw [hbegin.agent]) (by rw [hbegin.agent]) (hbegin.frame.metering (by decide))
        (hbegin.frame.streams (by decide)) (hbegin.frame.notices (by decide))
    have hfinal : (u.answer k r (s.bodyOfRequest x) (.fresh q (s.judge q))).releaseEvents = 0 := by
      have hadmits := verdict_admits u (s.bodyOfRequest x)
      rw [huv] at hadmits
      rw [(lawful_answer (h := k) (r := r) (body := s.bodyOfRequest x) hadmits).frame.releaseEvents (by decide),
        hbegin.frame.releaseEvents (by decide), hev]
    refine ⟨_, u, k, r, s.bodyOfRequest x, ?_, ⟨rfl, hbegin, hchain, htag, hdec', hkind, hctl, hnum⟩, ?_⟩
    · show exec x s = _
      rw [hexec, request, ← hbody, he, settle_none hfinal]
    · rw [if_pos rfl]
      exact hcells
  | attempt k behind =>
    obtain ⟨hidle, hd⟩ := hturn
    obtain ⟨t, u, r, he, hexec, hcells⟩ := hattempt hd
    refine ⟨t, u, k, r, _, ?_, hexec, by rw [if_neg nofun]; exact hcells⟩
    show Host.Outcome.next (if s.agent.state = .idle then s.attempt else s) = _
    rw [if_pos hidle, he]
  | retry k behind =>
    obtain ⟨hwait, hd⟩ := hturn
    obtain ⟨t, u, r, he, ⟨heq, hb, hchain, htag, hdec, hk, hc, hn⟩, hcells⟩ := hattempt hd
    refine ⟨t, u, k, r, _, ?_, ⟨heq, ⟨hb.stores, hb.ne, hb.fresh, hb.asked, hb.head, hb.building, hb.carries, hb.keeps,
      hb.agent, hb.handles, hb.frame⟩, hchain, htag, hdec, hk, hc, hn⟩, by rw [if_neg nofun]; exact hcells⟩
    show Host.Outcome.next (if s.agent.state = .waiting then s.attempt else s) = _
    rw [if_pos hwait, he]

end State
end Sys2Proof.Machine
end

section
/-! PROOFS. The answers of the requests that change at most the window (O46, O47, O48). -/

namespace Sys2Proof.Machine

/-- An answer, relative to the state `c` at which the request's effect has been carried out. -/
structure Served (w : Turn) (gone : List Nat) (s t : State) (h : ReqHeader) (kind : Byte) (st : Status)
    (payload : List Byte) (c : State) : Prop where
  records : RecordsAnswer w s t h st
  replies : Replies s t h kind st false payload
  answerFrame : AnswerFrame (w.asked ++ gone) s t
  window : t.agent.window = touched h.controller.val c.agent.window
  limits : KeepsLimits c t
  frame : ChangesOnly answerBlocks c t

theorem Begins.not_mem {w : Turn} {s u : State} {k r n : Nat} (hb : Begins w s u k r n) {j : Nat} {x : Handle}
    (hj : j ∉ w.asked) (hx : s.handle? j = some x) : j ≠ k ∧ j ≠ r := by
  refine ⟨?_, ?_⟩
  · rintro rfl
    obtain ⟨-, hfree⟩ | ⟨hasked, -⟩ := hb.asked
    · rw [hfree] at hx
      cases hx
    · exact hj (hasked ▸ List.mem_singleton_self _)
  · rintro rfl
    rw [hb.fresh] at hx
    cases hx

theorem Begins.grows {w : Turn} {s u : State} {k r n : Nat} (hb : Begins w s u k r n) : Grows w.asked s u := by
  have hqueue (x : Tier) : u.queue x = s.queue x := State.queue_of_queues (hb.frame.queues (by decide)) x
  refine ⟨hb.stores, hb.carries.mono (List.nil_subset _), fun j hj => hj.congr (by rw [hqueue])
    (hb.frame.tx (by decide)), by rw [hb.frame.line (by decide)], fun _ => ⟨hb.frame.tx (by decide),
    hb.frame.line (by decide), fun x _ => by rw [hqueue], by rw [hqueue], fun j x hj hx => ?_⟩⟩
  obtain ⟨hjk, hjr⟩ := hb.not_mem hj hx
  exact (hb.keeps j (by simp [hjk, hjr])).trans hx

/-- The request's handle and the reply's are its own, or were FREE. -/
theorem Begins.drop {w : Turn} {s u t : State} {k r n : Nat} {gone : List Nat} (hb : Begins w s u k r n)
    (h : Grows (k :: r :: (w.asked ++ gone)) s t) : Grows (w.asked ++ gone) s t := by
  have hr : Grows (k :: (w.asked ++ gone)) s t :=
    Grows.drop_new (n := r) (h.mono fun j hj => by simp only [List.mem_cons] at hj ⊢; tauto) hb.fresh
  obtain ⟨-, hfree⟩ | ⟨hasked, -⟩ := hb.asked
  · exact hr.drop_new hfree
  · exact hr.mono fun j hj => by
      rcases List.mem_cons.1 hj with rfl | hj
      · exact List.mem_append_left _ (hasked ▸ List.mem_singleton_self _)
      · exact hj

theorem Begins.answerFrame {w : Turn} {s u c t : State} {k r n : Nat} {gone : List Nat} (hb : Begins w s u k r n)
    (hc : Grows gone u c) (ht : Grows [k, r] c t) : AnswerFrame (w.asked ++ gone) s t := by
  have hgrows : Grows (w.asked ++ gone) s t := by
    refine hb.drop ((hb.grows.mono ?_).trans ((hc.mono ?_).trans (ht.mono ?_)))
    · exact fun j hj => by simp [hj]
    · exact fun j hj => by simp [hj]
    · simp
  exact hgrows.frame

/-- The request's handle is FREE, unless the release event of its release sent a notice (R13, R151). -/
theorem Begins.freed {w : Turn} {s u c t : State} {k r n : Nat} (hb : Begins w s u k r n)
    (hpend : c.notices.pending = true → u.notices.pending = true)
    (hkeep : c.notices.pending = false → t.notices = c.notices)
    (hfreed : t.notices.pending = c.notices.pending → t.handle? k = none) (hn : t.notices = s.notices) :
    ∀ x ∈ w.asked, t.handle? x = none := by
  intro x hx
  obtain ⟨hasked, -⟩ | ⟨hasked, -⟩ := hb.asked
  · rw [hasked] at hx
    cases hx
  · rw [hasked, List.mem_singleton] at hx
    refine hx ▸ hfreed ?_
    cases hp : c.notices.pending with
    | false => rw [hkeep hp, hp]
    | true => rw [hn, ← hb.frame.notices (by decide), hpend hp]

namespace State

variable {w : Turn} {s t u c : State} {h : ReqHeader} {kind : Byte} {q : Request} {k r : Nat} {body : List Byte}

/-- The reply octets of an executed request (R201). -/
theorem Executes.replyOctets (hx : Executes w s t h kind q u k r body) (hnode : c.part.node = s.part.node) (a : Answer)
    (payload : List Byte) :
    c.replyBody body (.fresh q a) payload = s.replyOctets h kind a.status false payload := by
  obtain ⟨hctl, hnum, hkind, -⟩ := decodeRequest_octets hx.decoded
  rw [replyBody, State.replyOctets, hx.tag, hctl, hnum, hkind, hx.kind, hx.controller, hx.number, hnode]
  rfl

theorem Executes.controller_octet (hx : Executes w s t h kind q u k r body) :
    (octetAt body 4).toNat = h.controller.val := by
  obtain ⟨hctl, -⟩ := decodeRequest_octets hx.decoded
  rw [hctl, hx.controller, BitVec.toNat_ofNat]
  omega

/-- What the carrying out of a request has to leave for its answer to be one (R151). -/
structure CarriesOut (gone : List Nat) (u c : State) (r : Nat) : Prop where
  grows : Grows gone u c
  reply : ∀ n, u.Building r n → c.Building r n
  inbox : c.agent.inbox = u.agent.inbox
  records : c.agent.records = u.agent.records
  node : c.part.node = u.part.node

theorem carriesOut_refl (hs : StoresOk u) : CarriesOut [] u u r := ⟨.refl [] hs, fun _ => id, rfl, rfl, rfl⟩

theorem carriesOut_window (hs : StoresOk u) (v : Option Window) :
    CarriesOut [] u (u.withAgent { u.agent with window := v }) r :=
  ⟨.of_buf (bs := [.agent]) (by simp [ChangesOnly]) (by decide) hs,
    fun _ hb => hb.congr rfl, rfl, rfl, rfl⟩

section Serve

variable {gone : List Nat} {payload : List Byte} (hx : Executes w s t h kind q u k r body)
  (hcarry : u.carryVerdict (.fresh q (s.judge q)) = (c, payload)) (hc : CarriesOut gone u c r)
include hx hcarry hc

theorem Executes.building : c.Building r (8 + payload.length) := by
  have hlen : (Verdict.fresh q (s.judge q)).replyLength = 8 + payload.length := by
    rw [Verdict.replyLength, ← payload_length (s := u), hcarry]
  exact hlen ▸ hc.reply _ hx.begins.building

theorem Executes.served : Served w gone s t h kind (s.judge q).status payload c := by
  have hb := hx.begins
  have hagent := hb.agent
  have hans : Answering c t k r (.fresh q (s.judge q)) (octetAt body 4)
      (c.replyBody body (.fresh q (s.judge q)) payload) := by
    rw [hx.eq]
    exact answering hcarry hc.grows.stores (hx.building hcarry hc) hb.ne
  refine ⟨⟨?_, ?_, ?_⟩, ⟨r, hans.queued.or_active, hans.body.trans ?_⟩, hb.answerFrame hc.grows hans.grows, ?_,
    hans.limits, hans.frame⟩
  · rw [hans.agent]
  · rw [hans.agent, hc.inbox, hagent]
    rfl
  · rw [hans.agent]
    simp only [Verdict.recorded, hc.records, hagent, hx.controller, hx.number]
  · exact hx.replyOctets (hc.node.trans (by rw [hb.frame.part (by decide)])) _ _
  · rw [hans.agent]
    exact congrArg (touched · _) hx.controller_octet

/-- An answer after whose reply the notice queue does not act: the request's handle and the notice queue. -/
theorem Executes.served_quiet (hpend : c.notices.pending = true → u.notices.pending = true)
    (hq : (c.replied (.fresh q (s.judge q)) (octetAt body 4) r
        (c.replyBody body (.fresh q (s.judge q)) payload)).noticesAfterReply u.part.noticeTag (.fresh q (s.judge q)) =
      c.replied (.fresh q (s.judge q)) (octetAt body 4) r (c.replyBody body (.fresh q (s.judge q)) payload)) :
    Answered w gone s t h kind (s.judge q).status payload ∧ (c.notices.pending = false → t.notices = c.notices) := by
  have hserved := hx.served hcarry hc
  obtain ⟨hfreed, hkeep⟩ := answering_quiet (h := k) hcarry hc.grows.stores (hx.building hcarry hc) hq
  rw [← hx.eq] at hfreed hkeep
  exact ⟨⟨hserved.records, hserved.replies, hserved.answerFrame, hx.begins.freed hpend hkeep hfreed⟩, hkeep⟩

theorem Executes.served_unwoken (hwakes : (Verdict.fresh q (s.judge q)).wakes = false)
    (hpend : c.notices.pending = true → u.notices.pending = true) :
    Answered w gone s t h kind (s.judge q).status payload ∧ (c.notices.pending = false → t.notices = c.notices) :=
  hx.served_quiet hcarry hc hpend (noticesAfterReply_of_not_wakes hwakes _)

end Serve

/-- The answer of a request that changes no block but the agent. -/
theorem Executes.served_agent {payload : List Byte} (hx : Executes w s t h kind q u k r body)
    (hcarry : u.carryVerdict (.fresh q (s.judge q)) = (c, payload))
    (hwakes : (Verdict.fresh q (s.judge q)).wakes = false) (hc : CarriesOut [] u c r) (hf : ChangesOnly [.agent] u c) :
    Answered w [] s t h kind (s.judge q).status payload ∧
      t.agent.window = touched h.controller.val c.agent.window ∧ KeepsLimits s t ∧ KeepsNotices s t ∧
      ChangesOnly answerBlocks s t := by
  have hserved := hx.served hcarry hc
  obtain ⟨hans, hkeep⟩ := hx.served_unwoken hcarry hc hwakes (by rw [hf.notices (by decide)]; exact id)
  have hall : ChangesOnly [.buf, .agent] s c := hx.begins.frame.trans (hf.mono (by decide))
  refine ⟨hans, hserved.window, (KeepsLimits.of_queues (hall.queues (by decide))).trans hserved.limits,
    fun hp => ?_, (hall.mono (by decide)).trans hserved.frame⟩
  have hn : c.notices = s.notices := hall.notices (by decide)
  exact (hkeep (by rwa [hn])).trans hn

/-- The answer of a request that changes nothing. -/
theorem Executes.served_unchanged {payload : List Byte} (hx : Executes w s t h kind q u k r body)
    (hcarry : u.carryVerdict (.fresh q (s.judge q)) = (u, payload))
    (hwakes : (Verdict.fresh q (s.judge q)).wakes = false) :
    Answered w [] s t h kind (s.judge q).status payload ∧
      t.agent.window = touched h.controller.val s.agent.window ∧ KeepsLimits s t ∧ KeepsNotices s t ∧
      ChangesOnly answerBlocks s t := by
  have hserved := hx.served_agent hcarry hwakes (carriesOut_refl hx.begins.stores) (.refl [.agent] u)
  rwa [show u.agent.window = s.agent.window by rw [hx.begins.agent]] at hserved

/-- A refusal changes nothing. -/
theorem Executes.served_refuse (hx : Executes w s t h kind q u k r body) {st : Status} (hj : s.judge q = .refuse st) :
    Answered w [] s t h kind st [] ∧ t.agent.window = touched h.controller.val s.agent.window ∧ KeepsLimits s t ∧
      KeepsNotices s t ∧ ChangesOnly answerBlocks s t := by
  have hserved := hx.served_unchanged (payload := []) (by rw [hj]; rfl) (by rw [hj]; rfl)
  rwa [hj] at hserved

/-! ## SELECT and RELEASE (R159, R160) -/

/-- The answer of a SELECT. -/
def selectStatus (s : State) (c : Controller) (table : TableName) (base : Nat) : Status :=
  if tableEntries table ≤ base then .range else
    match s.agent.window with
    | none => .done
    | some w => if w.holder = c then .done else .windowHeld

theorem judge_select (s : State) (c : Controller) (n : Byte) (table : TableName) (base : Nat) :
    s.judge ⟨c, n, .select table base⟩ = .done (.select table base) ∧ s.selectStatus c table base = .done ∨
      s.judge ⟨c, n, .select table base⟩ = .refuse (s.selectStatus c table base) ∧
        s.selectStatus c table base ≠ .done := by
  by_cases hbase : tableEntries table ≤ base
  · simp [judge, selectStatus, hbase]
  · cases hw : s.agent.window with
    | none => simp [judge, selectStatus, hbase, hw]
    | some w =>
      by_cases hc : w.holder = c
      · simp [judge, selectStatus, hbase, hw, hc]
      · simp [judge, selectStatus, hbase, hw, hc]

/-- The answer of a RELEASE. -/
def releaseStatus (s : State) (c : Controller) : Status :=
  match s.agent.window with
  | none => .notHolder
  | some w => if w.holder = c then .done else .notHolder

theorem judge_release (s : State) (c : Controller) (n : Byte) :
    s.judge ⟨c, n, .release⟩ = .done .release ∧ s.releaseStatus c = .done ∨
      s.judge ⟨c, n, .release⟩ = .refuse (s.releaseStatus c) ∧ s.releaseStatus c ≠ .done ∧
        touched c.val s.agent.window = s.agent.window := by
  cases hw : s.agent.window with
  | none => simp [judge, releaseStatus, hw, touched]
  | some w =>
    by_cases hc : w.holder = c
    · simp [judge, releaseStatus, hw, hc]
    · have hne : ¬ c.val = w.holder.val := fun e => hc (Fin.ext e.symm)
      simp [judge, releaseStatus, hw, hc, touched, hne]

/-- The answer of a request that writes the window alone. -/
theorem Executes.served_window (hx : Executes w s t h kind q u k r body) (v : Option Window) {e : Effect}
    (hj : s.judge q = .done e) (hcarry : u.carryOut q.controller e = (u.withAgent { u.agent with window := v }, []))
    (hwakes : (Verdict.fresh q (.done e)).wakes = false) :
    Answered w [] s t h kind .done [] ∧ t.agent.window = touched h.controller.val v ∧ KeepsLimits s t ∧
      KeepsNotices s t ∧ ChangesOnly answerBlocks s t := by
  have hserved := hx.served_agent (payload := []) (by rw [hj]; exact hcarry) (by rw [hj]; exact hwakes)
    (carriesOut_window hx.begins.stores v) (by simp [ChangesOnly])
  rwa [hj] at hserved

end State

open State in
/-- Settles O46: a SELECT or a RELEASE that is DONE writes the window, and any other answer is a refusal. -/
theorem selectAndReleaseMoveTheWindow : Obligations.SelectAndReleaseMoveTheWindow := by
  refine ⟨fun turn h table base s ha => ?_, fun turn h s ha => ?_⟩
  · obtain ⟨hj, hst⟩ | ⟨hj, hst⟩ := judge_select s h.controller h.number table base.toNat
    · obtain ⟨t, u, k, r, body, hexec, hx, -⟩ := exec_executes ha rfl rfl (by rw [hj]; exact Nat.le_refl _)
      obtain ⟨hans, hwin, hrest⟩ := hx.served_window
        (some { holder := h.controller, table := table, base := base.toNat, idle := 0 }) hj rfl rfl
      refine ⟨t, s.selectStatus h.controller table base.toNat, hexec, rfl, by rw [hst]; exact hans, ?_, hrest⟩
      rw [if_pos hst, hwin]
      simp [touched]
    · obtain ⟨t, u, k, r, body, hexec, hx, -⟩ := exec_executes ha rfl rfl (by rw [hj]; exact Nat.le_refl _)
      obtain ⟨hans, hwin, hrest⟩ := hx.served_refuse hj
      exact ⟨t, s.selectStatus h.controller table base.toNat, hexec, rfl, hans, by rw [if_neg hst, hwin], hrest⟩
  · obtain ⟨hj, hst⟩ | ⟨hj, hst, hheld⟩ := judge_release s h.controller h.number
    · obtain ⟨t, u, k, r, body, hexec, hx, -⟩ := exec_executes ha rfl rfl (by rw [hj]; exact Nat.le_refl _)
      obtain ⟨hans, hwin, hrest⟩ := hx.served_window none hj rfl rfl
      refine ⟨t, s.releaseStatus h.controller, hexec, rfl, by rw [hst]; exact hans, ?_, hrest⟩
      rw [if_pos hst, hwin]
      rfl
    · obtain ⟨t, u, k, r, body, hexec, hx, -⟩ := exec_executes ha rfl rfl (by rw [hj]; exact Nat.le_refl _)
      obtain ⟨hans, hwin, hrest⟩ := hx.served_refuse hj
      exact ⟨t, s.releaseStatus h.controller, hexec, rfl, hans, by rw [if_neg hst, hwin, hheld], hrest⟩

end Sys2Proof.Machine
end

section
/-! PROOFS. The judgement of a WRITE (R162), and the answers that store nothing (O48). -/

namespace Sys2Proof.Machine

theorem chunks_getElem? {size n k : Nat} (hk : k < n) (l : List Byte) :
    (chunks size n l)[k]? = some ((l.drop (k * size)).take size) := by
  induction n generalizing k l with
  | zero => exact absurd hk (Nat.not_lt_zero k)
  | succ n ih =>
    cases k with
    | zero => simp [chunks]
    | succ k =>
      rw [chunks, List.getElem?_cons_succ, ih (Nat.lt_of_succ_lt_succ hk), List.drop_drop, Nat.succ_mul, Nat.add_comm]

/-- The judgement of entries stops at the first that fails (R162 step 6). -/
theorem parseAll_error_of {α : Type} {f : List Byte → Option α} {ls : List (List Byte)} (i : Nat) {k : Nat}
    {l : List Byte} (hk : ls[k]? = some l) (hfail : f l = none)
    (hbefore : ∀ j x, j < k → ls[j]? = some x → f x ≠ none) : parseAll f i ls = .error (i + k) := by
  induction ls generalizing i k with
  | nil => cases hk
  | cons x ls ih =>
    cases k with
    | zero =>
      obtain rfl : x = l := Option.some.inj hk
      simp [parseAll, hfail]
    | succ k =>
      obtain ⟨a, ha⟩ := Option.ne_none_iff_exists'.1 (hbefore 0 x (Nat.succ_pos k) rfl)
      have hrest := ih (i + 1) hk fun j y hj hy => hbefore (j + 1) y (Nat.succ_lt_succ hj) hy
      simp only [parseAll, ha, hrest]
      congr 1
      omega

/-- The judgement of entries that all pass reads every one of them. -/
theorem parseAll_of_map {α : Type} {f : List Byte → Option α} {ls : List (List Byte)} {as : List α} (i : Nat)
    (h : ls.map f = as.map some) : parseAll f i ls = .ok as := by
  induction ls generalizing i as with
  | nil =>
    obtain rfl : as = [] := by simpa using h.symm
    rfl
  | cons l ls ih =>
    cases as with
    | nil => cases h
    | cons a as =>
      obtain ⟨ha, hrest⟩ := List.cons.inj h
      simp only [parseAll, ha, ih (i + 1) hrest]

theorem rangeOk_iff {w : Window} {offset count most : Nat} :
    rangeOk w offset count most = true ↔ InWindow w.table w.base offset count most := by
  unfold rangeOk InWindow Config.windowSpan
  simp only [Bool.and_eq_true, decide_eq_true_eq, and_assoc]

/-- A refusal, and an INVALID_ENTRY, have a reply of one cell. -/
theorem cellsFor_reply_le {q : Request} {a : Answer} (h : a.payloadLength ≤ 2) {n : Nat} (hn : 8 ≤ n) :
    cellsFor (Verdict.fresh q a).replyLength ≤ cellsFor n := by
  show (8 + a.payloadLength + 63) / 64 ≤ (n + 63) / 64
  omega

namespace State

variable {s : State}

section Judge

variable (c : Controller) (n : Byte) (offset count : Nat) (data : List Byte)

theorem judge_write_no_window (hw : s.agent.window = none) :
    s.judge ⟨c, n, .write offset count data⟩ = .refuse .noWindow := by
  simp [judge, hw]

variable {c} {v : Window} (hw : s.agent.window = some v)
include hw

theorem judge_write_held (hc : v.holder ≠ c) : s.judge ⟨c, n, .write offset count data⟩ = .refuse .windowHeld := by
  simp [judge, hw, hc]

variable (hc : v.holder = c)
include hc

theorem judge_write_notices (ht : v.table = .notices) :
    s.judge ⟨c, n, .write offset count data⟩ = .refuse .readOnly := by
  simp [judge, hw, hc, ht]

variable (ht : v.table ≠ .notices)
include ht

theorem judge_write_range (hr : ¬ InWindow v.table v.base offset count 8) :
    s.judge ⟨c, n, .write offset count data⟩ = .refuse .range := by
  have hno : rangeOk v offset count Config.writeMax = false := Bool.eq_false_iff.2 fun h => hr (rangeOk_iff.1 h)
  simp [judge, hw, hc, ht, hno]

variable (hr : InWindow v.table v.base offset count 8)
include hr

theorem judge_write_short (hd : data.length < count * entrySize v.table) :
    s.judge ⟨c, n, .write offset count data⟩ = .refuse .badRequest := by
  have hyes : rangeOk v offset count Config.writeMax = true := rangeOk_iff.2 hr
  simp [judge, hw, hc, ht, hyes, hd]

theorem judge_write_valid (hd : count * entrySize v.table ≤ data.length) :
    s.judge ⟨c, n, .write offset count data⟩ = s.validate v.table (v.base + offset) count data := by
  have hyes : rangeOk v offset count Config.writeMax = true := rangeOk_iff.2 hr
  simp [judge, hw, hc, ht, hyes, Nat.not_lt.2 hd]

end Judge

/-- The validation by the owning table names the first entry whose codes fail (R162 step 6, R205). -/
theorem validate_invalid {table : TableName} (first : Nat) {count k : Nat} {data : List Byte} (hk : k < count)
    (hfail : entryFails table (writtenEntry table data k))
    (hbefore : ∀ j, j < k → ¬ entryFails table (writtenEntry table data j)) :
    s.validate table first count data = .invalid (first + k) := by
  have hget {j : Nat} (hj : j < count) : (chunks (entrySize table) count data)[j]? = some (writtenEntry table data j) :=
    chunks_getElem? hj data
  have herror {α : Type} (f : List Byte → Option α) (hf : ∀ l, entryFails table l ↔ f l = none) :
      parseAll f first (chunks (entrySize table) count data) = .error (first + k) :=
    parseAll_error_of first (hget hk) ((hf _).1 hfail) fun j x hj hx => by
      obtain rfl : writtenEntry table data j = x := Option.some.inj ((hget (hj.trans hk)).symm.trans hx)
      exact fun h => hbefore j hj ((hf _).2 h)
  cases table with
  | stream => simp only [validate, herror parseStream fun _ => Iff.rfl]
  | allot => simp only [validate, herror parseAllot fun _ => Iff.rfl]
  | tier => simp only [validate, herror parseTier fun _ => Iff.rfl]
  | port => simp only [validate, herror parsePort fun _ => Iff.rfl]
  | streamTally => exact hfail.elim
  | part => exact hfail.elim
  | discard => exact hfail.elim
  | notices => exact hfail.elim

end State

open State in
/-- Settles O48: each refusal is one branch of the judgement, and none of them changes anything. -/
theorem refusedWritesStoreNothing : Obligations.RefusedWritesStoreNothing := by
  refine ⟨fun turn h offset count es s base ha hheld => ?_, fun turn x s h args offset count data hx hq ha => ?_⟩
  · obtain ⟨idle, hw⟩ := hheld
    have hj := judge_write_notices h.number offset.toNat count.toNat (es.flatMap octets8) hw rfl rfl
    obtain ⟨t, u, k, r, body, hexec, hx, -⟩ := exec_executes ha rfl rfl (by rw [hj]; exact Nat.le_refl _)
    exact ⟨t, hexec, hx.served_refuse hj⟩
  · intro refused
    have hrefuse {st : Status} (hj : s.judge ⟨h.controller, h.number, .write offset count data⟩ = .refuse st) :
        refused st [] := by
      have hlen : (s.judge ⟨h.controller, h.number, .write offset count data⟩).payloadLength ≤ 2 := by
        rw [hj]
        exact Nat.zero_le _
      obtain ⟨t, u, k, r, body, hexec, hx', -⟩ := exec_executes ha hx hq (cellsFor_reply_le hlen (by decide))
      exact ⟨t, hexec, hx'.served_refuse hj⟩
    refine ⟨fun hw => hrefuse (judge_write_no_window _ _ _ _ _ hw), fun v hw => ⟨fun hc =>
      hrefuse (judge_write_held _ _ _ _ hw hc), fun hc ht => hrefuse (judge_write_notices _ _ _ _ hw hc ht),
      fun hc ht hr => hrefuse (judge_write_range _ _ _ _ hw hc ht hr), fun hc ht hr => ⟨fun hd =>
      hrefuse (judge_write_short _ _ _ _ hw hc ht hr hd), fun hd k hk hfail hbefore => ?_⟩⟩⟩
    have hj := (judge_write_valid h.number offset count data hw hc ht hr hd).trans
      (validate_invalid (v.base + offset) hk hfail hbefore)
    have hlen : (s.judge ⟨h.controller, h.number, .write offset count data⟩).payloadLength ≤ 2 := by
      rw [hj]
      exact Nat.le_refl _
    obtain ⟨t, u, k', r, body, hexec, hx', -⟩ := exec_executes ha hx hq (cellsFor_reply_le hlen (by decide))
    have hserved := hx'.served_unchanged (payload := count2 (v.base + offset + k)) (by rw [hj]; rfl) (by rw [hj]; rfl)
    rw [hj] at hserved
    exact ⟨t, hexec, hserved⟩

end Sys2Proof.Machine
end

section
/-! PROOFS. READ and STATUS: what they report, and the octets of every table entry (O47). -/

namespace Sys2Proof.Machine

/-! ## The octets of the entries (R165, R199, R204, R205) -/

theorem runtimeOctets_eq (rt : Runtime) : runtimeOctets rt = runtimeReads rt := by
  cases rt with
  | unmetered => rfl
  | metered c b =>
    cases b with
    | unbounded => rfl
    | octets n => rfl
  | exhausted c => rfl

theorem Runtime.unboundedMark_iff {rt : Runtime} : rt.unboundedMark = true ↔ ∃ c, rt = .metered c .unbounded := by
  cases rt with
  | unmetered => simp [Runtime.unboundedMark]
  | metered c b => cases b <;> simp [Runtime.unboundedMark]
  | exhausted c => simp [Runtime.unboundedMark]

theorem octets2_recordCode (o : Option RecordIx) : octets2 (recordCode o) = indexReads o := by
  cases o with
  | none => rfl
  | some r => rfl

theorem endActionCode_eq (a : EndAction) : endActionCode a = if a = .drop then 0x00 else 0x01 := by
  cases a with
  | drop => rfl
  | demote => rfl

theorem causeCode_eq (c : ResetCause) : causeCode c = if c = .power then 0x01 else 0x02 := by
  cases c with
  | power => rfl
  | soft => rfl

theorem flagCode_busy (v : Ingress) : flagCode v.busy = if v = .idle then 0x00 else 0x01 := by
  cases v with
  | idle => rfl
  | tagWait _ => rfl
  | receiving _ _ => rfl
  | skipping => rfl

theorem noticeEntry_eq (r : NoticeRecord) : noticeEntry r = noticeReads r := by
  obtain ⟨n, x⟩ := r
  cases n with
  | announce c node =>
    simp only [noticeEntry, noticeReads, noticeKindCode, noticeSubject, noticeDetail, causeCode_eq]
    cases x with
    | queued => rfl
    | sent q k l => rfl
  | chainEnd i a =>
    cases x with
    | queued => rfl
    | sent q k l => rfl
  | sequenceFault q f =>
    cases x with
    | queued => cases f <;> rfl
    | sent q k l => cases f <;> rfl
  | trunkRestored a b c =>
    cases x with
    | queued => rfl
    | sent q k l => rfl

theorem causeOrder_ix {k : Nat} {c : Cause} (h : causeOrder[k]? = some c) : Fin.ofNat 20 k = c.ix := by
  have hk : k < 20 := by
    by_contra hk
    rw [List.getElem?_eq_none (by simpa [causeOrder] using hk)] at h
    cases h
  have hall : ∀ j : Fin 20, causeOrder[j.val]?.map Cause.ix = some j := by decide
  have hj := hall ⟨k, hk⟩
  rw [h, Option.map_some, Option.some_inj] at hj
  rw [hj]
  exact Fin.ext (Nat.mod_eq_of_lt hk)

namespace State

variable {s t : State}

theorem entriesRead (s : State) : s.EntriesRead := by
  refine ⟨fun i => ?_, fun r => ?_, fun i => rfl, fun q => ?_, fun p => ?_, ?_, fun k c hk => ?_, fun k => ?_⟩
  · obtain ⟨hvalid, hwhole, hmark, hlt⟩ := streamFlags_getLsbD (s.stream i.val) (s.runtime i.val)
    refine ⟨streamFlags (s.stream i.val) (s.runtime i.val), ?_, hlt, hvalid, hwhole, ?_⟩
    · rw [entryOctets, streamOctets, tierCode, endActionCode_eq, octets2_recordCode, runtimeOctets_eq]
    · rw [hmark, Runtime.unboundedMark_iff]
  · show allotOctets (s.record r) = _
    rw [allotOctets, octets2_recordCode]
    cases (s.record r).tier with
    | none => rfl
    | some q => rfl
  · cases q with
    | t0 => rfl
    | t1 => rfl
    | t2 => rfl
    | t3 => rfl
  · have hp : Fin.ofNat 8 p.val = p := Fin.ext (Nat.mod_eq_of_lt p.isLt)
    rw [entryOctets, hp, flagCode_busy]
    rfl
  · rw [entryOctets, causeCode_eq]
    cases s.line.link with
    | down => rfl
    | aligning => rfl
    | up => rfl
  · rw [entryOctets, causeOrder_ix hk]
    rfl
  · rw [entryOctets]
    cases s.notices.records[k]? with
    | none => rfl
    | some r => exact noticeEntry_eq r

/-- An entry reads the same in a state of the same tables, ports, queues and records. -/
theorem entryOctets_of_frame (h : ChangesOnly [.buf, .agent] s t) (table : TableName) (i : Nat) :
    t.entryOctets table i = s.entryOctets table i := by
  have hstreams := h.streams (by decide)
  have hmetering := h.metering (by decide)
  have hports := h.ports (by decide)
  have hqueues := h.queues (by decide)
  have hline := h.line (by decide)
  have hpart := h.part (by decide)
  have hnotices := h.notices (by decide)
  have htallies := h.tallies (by decide)
  cases table <;> simp only [entryOctets, stream, runtime, port, queue, hstreams, hmetering, hports, hqueues, hline,
    hpart, hnotices, htallies]

/-! ## READ (R161) -/

/-- The answer of a READ. -/
def readStatus (s : State) (c : Controller) (offset count : Nat) : Status :=
  match s.agent.window with
  | none => .noWindow
  | some w =>
    if w.holder ≠ c then .windowHeld
    else if 1 ≤ count ∧ count ≤ 16 ∧ offset + count ≤ 64 ∧ w.base + offset + count - 1 < tableEntries w.table then .done
    else .range

theorem judge_read (s : State) (c : Controller) (n : Byte) (offset count : Nat) :
    (∃ w, s.agent.window = some w ∧ s.readStatus c offset count = .done ∧
      s.judge ⟨c, n, .read offset count⟩ = .done (.read w.table (w.base + offset) count)) ∨
    s.readStatus c offset count ≠ .done ∧
      s.judge ⟨c, n, .read offset count⟩ = .refuse (s.readStatus c offset count) := by
  cases hw : s.agent.window with
  | none => exact .inr (by simp [judge, readStatus, hw])
  | some w =>
    by_cases hc : w.holder = c
    · by_cases hr : rangeOk w offset count Config.readMax = true
      · have hr' : 1 ≤ count ∧ count ≤ 16 ∧ offset + count ≤ 64 ∧ w.base + offset + count - 1 < tableEntries w.table :=
          rangeOk_iff.1 hr
        exact .inl ⟨w, rfl, by simp [readStatus, hw, hc, hr'], by simp [judge, hw, hc, hr]⟩
      · have hr' : ¬ (1 ≤ count ∧ count ≤ 16 ∧ offset + count ≤ 64 ∧
            w.base + offset + count - 1 < tableEntries w.table) := fun h => hr (rangeOk_iff.2 h)
        refine .inr ?_
        simp only [judge, readStatus, hw, hc, hr', ne_eq, not_true_eq_false, if_false, hr, Bool.false_eq_true]
        exact ⟨nofun, trivial⟩
    · exact .inr (by simp [judge, readStatus, hw, hc])

/-! ## STATUS (R168) -/

/-- A STATUS reports the state at its execution, with the request and the reply held. -/
theorem statusPayload_of {u : State} {k : Nat} {behind : List Nat} {claimed : Nat}
    (hf : ChangesOnly [.buf, .agent] s u) (ha : u.agent = { s.agent with inbox := k :: behind })
    (hh : u.freeHandles = s.freeHandles - claimed) (hc : u.freeCells = s.freeCells - claimed) :
    u.statusPayload = [linkCode s.line.link] ++ octets2 (BitVec.ofNat 16 (s.freeHandles - claimed)) ++
      octets2 (BitVec.ofNat 16 (s.freeCells - claimed)) ++
      octets2 (BitVec.ofNat 16 (s.queue .t0).members.length) ++
      octets2 (BitVec.ofNat 16 (s.queue .t1).members.length) ++
      octets2 (BitVec.ofNat 16 (s.queue .t2).members.length) ++
      octets2 (BitVec.ofNat 16 (s.queue .t3).members.length) ++
      [BitVec.ofNat 8 s.tx.stack.length, contextCode (s.context .t0), contextCode (s.context .t1),
        contextCode (s.context .t2), contextCode (s.context .t3), BitVec.ofNat 8 (1 + behind.length)] ++
      windowCodes s.agent.window ++ [BitVec.ofNat 8 s.notices.records.length, s.part.node.setWidth 8] := by
  have hqueue (x : Tier) : u.queue x = s.queue x := queue_of_queues (hf.queues (by decide)) x
  have hcontext (x : Tier) : u.context x = s.context x := by rw [context, context, hf.rx (by decide)]
  rw [statusPayload, hh, hc, ha]
  simp only [Tier.all, List.flatMap_cons, List.flatMap_nil, List.map_cons, List.map_nil, hqueue, hcontext,
    hf.line (by decide), hf.tx (by decide), hf.notices (by decide), hf.part (by decide), count1, count2,
    List.length_cons, Nat.add_comm behind.length 1, List.append_assoc, List.cons_append, List.nil_append,
    List.append_nil]

end State

open State in
/-- Settles O47: a READ and a STATUS change nothing, and their payloads are read at the state in which the request and
the reply are held. -/
theorem readAndStatusReport : Obligations.ReadAndStatusReport := by
  refine ⟨?_, ?_, entriesRead⟩
  · intro turn h offset count s st payload ha
    have hst : st = s.readStatus h.controller offset.toNat count.toNat := rfl
    obtain ⟨v, hw, hdone, hj⟩ | ⟨hne, hj⟩ := judge_read s h.controller h.number offset.toNat count.toNat
    · have hpayload : payload = count2 (v.base + offset.toNat) ++
          (List.range' (v.base + offset.toNat) count.toNat).flatMap (s.entryOctets v.table) := by
        simp only [payload, hw, hst, hdone, if_true]
        rfl
      have hlen : (Answer.done (.read v.table (v.base + offset.toNat) count.toNat)).payloadLength = payload.length := by
        have := payload_length (s := s) (.fresh ⟨h.controller, h.number, .read offset.toNat count.toNat⟩
          (.done (.read v.table (v.base + offset.toNat) count.toNat)))
        rw [hpayload]
        exact this.symm
      obtain ⟨t, u, k, r, body, hexec, hx, -⟩ := exec_executes ha rfl rfl (by
        rw [hj]
        exact Nat.div_le_div_right (Nat.add_le_add_right (Nat.add_le_add_left hlen.le 8) _))
      have hentries : u.entryOctets v.table = s.entryOctets v.table :=
        funext (entryOctets_of_frame hx.begins.frame v.table)
      have hserved := hx.served_unchanged (payload := payload) (by rw [hj, hpayload, ← hentries]; rfl) (by rw [hj]; rfl)
      rw [hj] at hserved
      exact ⟨t, hexec, by rw [hst, hdone]; exact hserved⟩
    · have hpayload : payload = [] := by
        cases hw : s.agent.window with
        | none => simp only [payload, hw]
        | some v => simp only [payload, hw, hst, if_neg hne]
      obtain ⟨t, u, k, r, body, hexec, hx, -⟩ := exec_executes ha rfl rfl
        (cellsFor_reply_le (by rw [hj]; exact Nat.zero_le _) (Nat.le_add_right _ _))
      refine ⟨t, hexec, ?_⟩
      rw [hpayload, hst]
      exact hx.served_refuse hj
  · intro turn h s ha claimed
    have hj : s.judge ⟨h.controller, h.number, .status⟩ = .done .status := rfl
    obtain ⟨t, u, k, r, body, hexec, hx, hcells⟩ := exec_executes ha rfl rfl (by rw [hj]; exact Nat.le_refl _)
    have hfreeCells : u.freeCells = s.freeCells - (2 - turn.asked.length) := by
      rw [hj] at hcells
      have hreply : cellsFor (Verdict.fresh ⟨h.controller, h.number, .status⟩ (.done .status)).replyLength = 1 := by
        simp [Verdict.replyLength, Verdict.payloadLength, Answer.payloadLength, cellsFor, Config.cellSize]
      rw [hreply] at hcells
      cases turn with
      | arrival =>
        have hbody : cellsFor (s.bodyOfRequest (.status h)).length = 1 := by
          rw [bodyOfRequest_eq (show requestParts (.status h) = some (h, 0x07, [0x00]) from rfl), requestBody_length]
          rfl
        rw [if_pos rfl, hbody] at hcells
        simp only [Turn.asked, List.length_nil]
        omega
      | attempt => simp only [Turn.asked, List.length_singleton]; simp only [reduceCtorEq, if_false] at hcells; omega
      | retry => simp only [Turn.asked, List.length_singleton]; simp only [reduceCtorEq, if_false] at hcells; omega
    have hpayload := statusPayload_of hx.begins.frame hx.begins.agent (Nat.eq_sub_of_add_eq hx.begins.handles)
      hfreeCells
    have hserved := hx.served_unchanged (payload := u.statusPayload) rfl rfl
    rw [hpayload, hj] at hserved
    refine ⟨t, hexec, ?_⟩
    cases hw : s.agent.window with
    | none => rwa [hw] at hserved
    | some v => rwa [hw] at hserved

end Sys2Proof.Machine
end

section
/-! PROOFS. Malformed and repeated requests (O56), and the attempts on the head of the inbox (O58). -/

namespace Sys2Proof.Machine

/-- An answer that changes at most the window, with the octets of its reply. -/
structure PlainAnswer (w : Turn) (s t : State) (k : Nat) (body : List Byte) (v : Verdict) (x : Option Window) :
    Prop where
  reply : ∃ r, (r ∈ (t.queue .t0).members ∨ t.tx.active = some r) ∧
    t.bodyOf r = [octetAt body 2, octetAt body 3, s.part.node.setWidth 8, octetAt body 4, octetAt body 5,
      octetAt body 6, statusCode v.status, flagCode v.isRepeat]
  agent : t.agent = { state := .idle, inbox := w.behind, window := touched (octetAt body 4).toNat x
                      records := v.recorded s.agent.records }
  freed : s.notices.pending = false → t.handle? k = none
  frame : AnswerFrame w.asked s t
  limits : KeepsLimits s t
  notices : KeepsNotices s t
  changes : ChangesOnly answerBlocks s t

theorem octets2_word16 (a b : Byte) : octets2 (word16 a b) = [a, b] := by
  have ha : (a ++ b).extractLsb' 8 8 = a := by
    ext i hi
    rw [BitVec.getElem_extractLsb', BitVec.getLsbD_append]
    simp [hi]
  have hb : (a ++ b).extractLsb' 0 8 = b := by
    ext i hi
    rw [BitVec.getElem_extractLsb', BitVec.getLsbD_append]
    simp [hi]
  show [(a ++ b).extractLsb' 8 8, (a ++ b).extractLsb' 0 8] = _
  rw [ha, hb]

namespace State

variable {s u : State}

/-- What a plain verdict makes of the window (R151, R159, R160). -/
def plainWindow (v : Verdict) (x : Option Window) : Option Window :=
  match v with
  | .fresh q (.done (.select table base)) => some { holder := q.controller, table := table, base := base, idle := 0 }
  | .fresh _ (.done .release) => none
  | _ => x

theorem carryVerdict_plain {v : Verdict} (hv : v.plain = true) :
    u.carryVerdict v = (u.withAgent { u.agent with window := plainWindow v u.agent.window }, []) := by
  unfold Verdict.plain at hv
  split at hv
  · rfl
  · rfl
  · rfl
  · rfl
  · rfl
  · cases hv

theorem plain_payloadLength {v : Verdict} (hv : v.plain = true) : v.payloadLength = 0 := by
  unfold Verdict.plain at hv
  split at hv
  · rfl
  · rfl
  · rfl
  · rfl
  · rfl
  · cases hv

theorem plain_wakes {v : Verdict} (hv : v.plain = true) : v.wakes = false := by
  unfold Verdict.plain at hv
  split at hv
  · rfl
  · rfl
  · rfl
  · rfl
  · rfl
  · cases hv

theorem answer_plain {w : Turn} {k r : Nat} {v : Verdict} (hb : Begins w s u k r v.replyLength) (hv : v.plain = true)
    (body : List Byte) :
    PlainAnswer w s (u.answer k r body v) k body v (plainWindow v s.agent.window) := by
  have hc : CarriesOut [] u (u.withAgent { u.agent with window := plainWindow v u.agent.window }) r :=
    carriesOut_window hb.stores _
  have hbuild : u.Building r (8 + ([] : List Byte).length) := by
    have := hb.building
    rwa [Verdict.replyLength, plain_payloadLength hv] at this
  have hans := answering (body := body) (carryVerdict_plain hv) hc.grows.stores (hc.reply _ hbuild) hb.ne
  obtain ⟨hfreed, hkeep⟩ := answering_quiet (h := k) (body := body) (carryVerdict_plain hv) hc.grows.stores
    (hc.reply _ hbuild) (noticesAfterReply_of_not_wakes (plain_wakes hv) _)
  have hagent := hb.agent
  have hall : ChangesOnly [.buf, .agent] s (u.withAgent { u.agent with window := plainWindow v u.agent.window }) :=
    hb.frame.trans (by simp [ChangesOnly])
  have hn : u.notices = s.notices := hb.frame.notices (by decide)
  generalize hcu : u.withAgent { u.agent with window := plainWindow v u.agent.window } = c at *
  have hca : c.agent = { u.agent with window := plainWindow v u.agent.window } := by rw [← hcu]; rfl
  have hcn : c.notices = s.notices := hall.notices (by decide)
  refine ⟨⟨r, hans.queued.or_active, hans.body.trans ?_⟩, ?_, fun hp => hfreed ?_, ?_,
    (KeepsLimits.of_queues (hall.queues (by decide))).trans hans.limits, fun hp => ?_,
    (hall.mono (by decide)).trans hans.frame⟩
  · rw [replyBody, word16At, octets2_word16, hall.part (by decide)]
    rfl
  · rw [hans.agent, hca, hagent]
    rfl
  · rw [hkeep (by rwa [hcn])]
  · have hframe := hb.answerFrame hc.grows hans.grows
    rwa [List.append_nil] at hframe
  · exact (hkeep (by rwa [hcn])).trans hcn

theorem attempt_of_empty (h : s.agent.inbox = []) : s.attempt = s := by simp only [attempt, h]

theorem recorded_fresh_get (q : Request) (a : Answer) (m : Vector (Option CtlRecord) 4) (c : Controller) :
    ((Verdict.fresh q a).recorded m).get c = if q.controller = c ∧ a.status ≠ .badRequest then
      some { number := q.number, status := a.status } else m.get c := by
  have hval : q.controller.val = c.val ↔ q.controller = c := Fin.val_inj
  by_cases hst : a.status = .badRequest
  · simp [Verdict.recorded, hst]
  · simp only [Verdict.recorded, hst, ne_eq, not_false_eq_true, and_true, if_false, ← hval]
    exact Vector.getElem_set q.controller.isLt c.isLt

theorem touched_own (n : Nat) (c : Controller) (table : TableName) (base : Nat) :
    touched n (some { holder := c, table := table, base := base, idle := 0 }) =
      some { holder := c, table := table, base := base, idle := 0 } := by
  simp [touched]

end State

open State in
/-- Settles O58: with its reply claim granted the head is answered, and its verdict says what with. -/
theorem attemptsAnswerTheHead : Obligations.AttemptsAnswerTheHead := by
  have hattempt (s : State) : exec .agentAttemptEvent s = .next (if s.agent.state = .idle then s.attempt else s) := rfl
  have hretry (s : State) : exec .agentRetry s = .next (if s.agent.state = .waiting then s.attempt else s) := rfl
  intro s
  refine ⟨fun h => ?_, fun h => ?_, fun h => ?_, fun x k rest hs hh hin hx => ?_⟩
  · rw [hattempt, hretry, attempt_of_empty h, ite_self, ite_self]
    exact ⟨rfl, rfl⟩
  · rw [hattempt, if_neg (by rw [h]; exact nofun)]
  · rw [hretry, if_neg (by rw [h]; exact nofun)]
  · have hexec : exec x s = .next s.attempt := by
      obtain ⟨rfl, h⟩ | ⟨rfl, h⟩ := hx
      · rw [hattempt, if_pos h]
      · rw [hretry, if_pos h]
    refine ⟨fun hroom => ⟨s.attempt, hexec, ?_⟩, fun hfh hfc hplain => ?_⟩
    · rw [attempt_of_refused hin (by omega)]
      exact ⟨rfl, by simp [ChangesOnly]⟩
    · intro body v
      obtain ⟨y, hy, hyi⟩ := hh.2.1 (k, .inbox) (by simp [members, hin])
      have hcells : cellsFor v.replyLength ≤ s.freeCells := by
        have hlen : v.replyLength = 8 := by rw [Verdict.replyLength, plain_payloadLength hplain]
        rw [hlen]
        exact hfc
      obtain ⟨u, r, he, hb, -⟩ := attempt_begins hs hin hy hyi hfh hcells
      obtain ⟨⟨r', hr, hbody⟩, hagent, hfreed, hframe, hlim, hnotices, hchanges⟩ := answer_plain hb hplain body
      rw [← he] at hr hbody hagent hfreed hframe hlim hnotices hchanges
      refine ⟨s.attempt, r', hexec, hr, hbody, by rw [hagent], by rw [hagent]; rfl, fun c => ?_, ?_, hfreed, hframe,
        hlim, hnotices, hchanges⟩
      · rw [hagent]
        show (v.recorded s.agent.records).get c = _
        cases hv : v with
        | malformed => rfl
        | repeated st => rfl
        | fresh q a => exact recorded_fresh_get q a s.agent.records c
      · rw [hagent]
        show touched (octetAt body 4).toNat (plainWindow v s.agent.window) = _
        clear_value v
        cases v with
        | malformed => rfl
        | repeated st => rfl
        | fresh q a =>
          cases a with
          | invalid i => rfl
          | refuse st => rfl
          | done e =>
            cases e with
            | select table base => exact touched_own ..
            | _ => rfl

/-! ## Malformed and repeated requests (R154, R156) -/

/-- A malformed body with a controller octet below 4 is too short for its kind, or names no table. -/
theorem malformedRest_cases {rest : List Byte} (h : malformedRest rest = true) (hc : (rest.getD 2 0).toNat < 4)
    {m n : Nat} (hm : (rest.getD 4 0).toNat = m) (hn : kindArguments m = some n) :
    rest.length < 5 + n ∨ m = 1 ∧ tableOfCode (rest.getD 5 0) = none := by
  simp only [malformedRest, hm, hn, Bool.or_eq_true, Bool.and_eq_true, decide_eq_true_eq] at h
  rcases h with (h | h) | ⟨hk, h⟩
  · omega
  · exact .inl h
  · refine .inr ⟨by rw [← hm, hk]; rfl, ?_⟩
    have ht : (rest.getD 5 0).toNat = 0 ∨ 8 < (rest.getD 5 0).toNat := h.imp_left fun e => by rw [e]; rfl
    unfold tableOfCode
    split
    case h_9 => rfl
    all_goals omega

theorem decodeOp_malformed (tag : BitVec 16) {rest : List Byte} (h : malformedRest rest = true)
    (hc : (rest.getD 2 0).toNat < 4) : decodeOp (octets2 tag ++ rest) = none := by
  have hcases := fun m n => malformedRest_cases (m := m) (n := n) h hc
  have hlong (hk : (rest.getD 4 0).toNat ≠ 0) : 5 ≤ rest.length := by
    by_contra hlt
    rw [List.getD_eq_default _ _ (by omega)] at hk
    exact hk rfl
  have h6 : octetAt (octets2 tag ++ rest) 6 = rest.getD 4 0 := rfl
  have h7 : octetAt (octets2 tag ++ rest) 7 = rest.getD 5 0 := rfl
  have hlen : (octets2 tag ++ rest).length = 2 + rest.length := by simp [octets2]; omega
  unfold decodeOp
  rw [h6, h7, hlen]
  split
  case h_1 hk =>
    obtain hlt | ⟨-, ht⟩ := hcases 1 3 hk rfl
    · rw [if_pos (by omega)]
    · rw [ht]
      simp
  case h_2 hk =>
    obtain hlt | ⟨h1, -⟩ := hcases 2 0 hk rfl
    · have := hlong (by omega); omega
    · omega
  case h_3 hk =>
    obtain hlt | ⟨h1, -⟩ := hcases 3 2 hk rfl
    · rw [if_pos (by omega)]
    · omega
  case h_4 hk =>
    obtain hlt | ⟨h1, -⟩ := hcases 4 2 hk rfl
    · rw [if_pos (by omega)]
    · omega
  case h_5 hk =>
    obtain hlt | ⟨h1, -⟩ := hcases 5 4 hk rfl
    · rw [if_pos (by omega)]
    · omega
  case h_6 hk =>
    obtain hlt | ⟨h1, -⟩ := hcases 6 1 hk rfl
    · rw [if_pos (by omega)]
    · omega
  case h_7 hk =>
    obtain hlt | ⟨h1, -⟩ := hcases 7 0 hk rfl
    · have := hlong (by omega); omega
    · omega
  case h_8 hk =>
    obtain hlt | ⟨h1, -⟩ := hcases 8 0 hk rfl
    · have := hlong (by omega); omega
    · omega
  case h_9 hk =>
    obtain hlt | ⟨h1, -⟩ := hcases 9 1 hk rfl
    · rw [if_pos (by omega)]
    · omega
  case h_10 => rfl

theorem decodeRequest_malformed (tag : BitVec 16) {rest : List Byte} (h : malformedRest rest = true) :
    decodeRequest (octets2 tag ++ rest) = none := by
  have h4 : octetAt (octets2 tag ++ rest) 4 = rest.getD 2 0 := rfl
  unfold decodeRequest
  split
  case isTrue hc => rw [decodeOp_malformed tag h (by rwa [h4] at hc)]; rfl
  case isFalse => rfl

/-- A well-formed request command has a body no longer than a frame's (R132). -/
theorem wellFormed_length {x : Instr} {h : ReqHeader} {kind : Byte} {args : List Byte}
    (hx : requestParts x = some (h, kind, args)) (hw : x.wellFormed = true) : 7 + args.length ≤ 2048 := by
  have hwrite {α : Type} {f : α → List Byte} {es : List α} {n : Nat} (hn : ∀ e, (f e).length = n) (a b : Byte)
      (hfit : writeFits es.length n = true) : 7 + ([a, b] ++ es.flatMap f).length ≤ 2048 := by
    unfold writeFits bodyFits Config.maxBody at hfit
    rw [Bool.and_eq_true, decide_eq_true_eq, decide_eq_true_eq] at hfit
    rw [List.length_append, flatMap_length_const hn]
    simp only [List.length_cons, List.length_nil]
    omega
  cases x with
  | select h table base => cases hx; simp [octets2]
  | release h => cases hx; simp
  | read h offset count => cases hx; simp
  | writeStream h offset count es => cases hx; exact hwrite StreamWords.octets_length _ _ hw
  | writeAllot h offset count es => cases hx; exact hwrite AllotWords.octets_length _ _ hw
  | writeStreamTally h offset count es => cases hx; exact hwrite TallyWords.octets_length _ _ hw
  | writeTier h offset count es => cases hx; exact hwrite TierWords.octets_length _ _ hw
  | writePort h offset count es => cases hx; exact hwrite PortWords.octets_length _ _ hw
  | writePart h offset count es => cases hx; exact hwrite PartWords.octets_length _ _ hw
  | writeDiscard h offset count es => cases hx; exact hwrite (f := octets4) (n := 4) (fun _ => rfl) _ _ hw
  | writeNotices h offset count es => cases hx; exact hwrite (f := octets8) (n := 8) (fun _ => rfl) _ _ hw
  | append h tail new => cases hx; simp [octets2]
  | acknowledge h sequence => cases hx; simp
  | status h => cases hx; simp
  | restart h => cases hx; simp
  | portReset h port => cases hx; simp
  | _ => cases hx

theorem RequestOp.filtered_of_kind {op : RequestOp} (hr : op.kind ≠ 0x03) (hs : op.kind ≠ 0x07) :
    op.unfiltered = false := by
  cases op with
  | read => exact absurd rfl hr
  | status => exact absurd rfl hs
  | _ => rfl

namespace State

variable {s : State}

/-- A request delivered to an IDLE agent and answered at once, with a plain verdict. -/
theorem deliver_plain (hs : StoresOk s) {tier : Tier} {body : List Byte} (hlen : 8 ≤ body.length ∧ body.length ≤ 2048)
    (hidle : s.agent.state = .idle) (hin : s.agent.inbox = []) (hev : s.releaseEvents = 0) (hh : 2 ≤ s.freeHandles)
    (hc : cellsFor body.length + 1 ≤ s.freeCells) (hv : (s.verdict body).plain = true) :
    ∃ k, PlainAnswer .arrival s (s.deliverRequest tier body).settle k body (s.verdict body)
      (plainWindow (s.verdict body) s.agent.window) := by
  have hreply : (s.verdict body).replyLength = 8 := by rw [Verdict.replyLength, plain_payloadLength hv]
  obtain ⟨u, k, r, he, hb, -⟩ := deliver_begins (tier := tier) hs hlen hidle hin hh (by rw [hreply]; exact hc)
  have hans := answer_plain hb hv body
  have hzero : (u.answer k r body (s.verdict body)).releaseEvents = 0 := by
    rw [hans.changes.releaseEvents (by decide), hev]
  exact ⟨k, by rwa [he, settle_none hzero]⟩

end State

open State in
/-- Settles O56: neither verdict records anything or touches more of the window than its idle timer. -/
theorem malformedAndRepeatedRequests : Obligations.MalformedAndRepeatedRequests := by
  refine ⟨fun tier broadcast rest s hw hs hidle hin hev hh hc => ?_,
    fun x s h kind args last hx hr hst hw hlast hnum hs hidle hin hev hh hc => ?_⟩
  · unfold Instr.wellFormed bodyFits Config.minBody Config.maxBody at hw
    simp only [Bool.and_eq_true, decide_eq_true_eq] at hw
    obtain ⟨hlen, hbad⟩ := hw
    generalize htag : requestTag s.part.node broadcast = tag
    have hlength : (octets2 tag ++ rest).length = 2 + rest.length := by simp [octets2]; omega
    have hverdict : s.verdict (octets2 tag ++ rest) = .malformed := by
      simp only [verdict, decodeRequest_malformed tag hbad]
    obtain ⟨k, ⟨⟨r, hr, hbody⟩, hagent, -, hframe, hlim, hnotices, hchanges⟩⟩ := deliver_plain (tier := tier)
      (body := octets2 tag ++ rest) hs (by rwa [hlength]) hidle hin hev hh (by rwa [hlength]) (by rw [hverdict]; rfl)
    rw [hverdict] at hagent hbody
    refine ⟨_, r, ?_, hr, hbody, ?_, hframe, hlim, hnotices, hchanges⟩
    · rw [← htag]
      rfl
    · rw [hagent, ← hidle, Turn.behind, ← hin]
      rfl
  · have hbody : s.bodyOfRequest x = requestBody s.part.node h kind args := bodyOfRequest_eq hx
    obtain ⟨⟨op, hop, hreq⟩, hargs, hexec⟩ := requestParts_spec hx s
    have hkind : op.kind = kind := (decodeOp_kind hop).symm
    have hdec : decodeRequest (s.bodyOfRequest x) = some ⟨h.controller, h.number, op⟩ := by
      rw [hbody, decodeRequest_requestBody, hop]
      rfl
    have hverdict : s.verdict (s.bodyOfRequest x) = .repeated last.status := by
      simp only [verdict, hdec, hlast, RequestOp.filtered_of_kind (hkind ▸ hr) (hkind ▸ hst), hnum, Bool.not_false,
        decide_true, Bool.and_self, if_true]
    obtain ⟨hctl, hnumber, hkindOctet, -⟩ := decodeRequest_octets hdec
    have hlen : (s.bodyOfRequest x).length = 7 + args.length := by rw [hbody, requestBody_length]
    have hmax := wellFormed_length hx hw
    obtain ⟨k, ⟨⟨r, hr, hreply⟩, hagent, -, hframe, hlim, hnotices, hchanges⟩⟩ := deliver_plain (tier := h.tier)
      (body := s.bodyOfRequest x) hs (by omega) hidle hin hev hh hc (by rw [hverdict]; rfl)
    rw [hverdict] at hagent hreply
    refine ⟨_, by rw [hexec, request, ← hbody], ⟨r, hr, hreply.trans ?_⟩, ?_, hframe, hlim, hnotices, hchanges⟩
    · have htag : [octetAt (s.bodyOfRequest x) 2, octetAt (s.bodyOfRequest x) 3] = octets2 h.replyTag := by
        rw [← octets2_word16, hbody]
        exact congrArg octets2 (requestBody_replyTag ..)
      rw [hctl, hnumber, hkindOctet, hkind, replyOctets, ← htag]
      rfl
    · rw [hagent, ← hidle, Turn.behind, ← hin, hctl, BitVec.toNat_ofNat, Nat.mod_eq_of_lt (by omega)]
      rfl

end Sys2Proof.Machine
end

section
/-! PROOFS. The writes of table entries (R162, R163): what the octets of a WRITE spell, and what each of its entries
stores (O50). -/

namespace Sys2Proof.Machine

/-! ## Reading the entries of a WRITE -/

/-- An entry of a WRITE is where its index says. -/
theorem take_drop_flatMap {α : Type} {f : α → List Byte} {size : Nat} (h : ∀ a, (f a).length = size) {l : List α}
    {k : Nat} {a : α} (ha : l[k]? = some a) : ((l.flatMap f).drop (k * size)).take size = f a := by
  induction l generalizing k with
  | nil => cases ha
  | cons b l ih =>
    cases k with
    | zero =>
      obtain rfl : b = a := Option.some.inj ha
      rw [Nat.zero_mul, List.drop_zero, List.flatMap_cons, List.take_left' (h b)]
    | succ k =>
      rw [List.flatMap_cons, Nat.succ_mul, Nat.add_comm, ← List.drop_drop, List.drop_left' (h b)]
      exact ih ha

/-- The octets that spell the written values hold them all, and parse to them. -/
theorem Spell.parses {α β : Type} {parse : List Byte → Option β} {octets : α → List Byte} {es : List α} {count : Nat}
    {l : List β} (h : Spell parse octets es count l) {size : Nat} (hsize : ∀ a, (octets a).length = size)
    (first : Nat) : count * size ≤ (es.flatMap octets).length ∧
      parseAll parse first (chunks size count (es.flatMap octets)) = .ok l := by
  obtain ⟨hlen, hget⟩ := h
  refine ⟨?_, parseAll_of_map first (List.ext_getElem? fun k => ?_)⟩
  · rw [flatMap_length_const hsize]
    refine Nat.mul_le_mul_right _ ?_
    rcases Nat.eq_zero_or_pos count with h0 | hpos
    · exact h0 ▸ Nat.zero_le _
    · obtain ⟨v, hv⟩ : ∃ v, l[count - 1]? = some v := ⟨_, List.getElem?_eq_getElem (by omega)⟩
      obtain ⟨e, he, -⟩ := hget _ v hv
      have := (List.getElem?_eq_some_iff.1 he).1
      omega
  · by_cases hk : k < count
    · obtain ⟨v, hv⟩ : ∃ v, l[k]? = some v := ⟨_, List.getElem?_eq_getElem (by omega)⟩
      obtain ⟨e, he, hp⟩ := hget k v hv
      rw [List.getElem?_map, List.getElem?_map, chunks_getElem? hk, take_drop_flatMap hsize he, hv]
      simp only [Option.map_some, hp]
    · rw [List.getElem?_eq_none (by rw [List.length_map, chunks_length]; omega),
        List.getElem?_eq_none (by rw [List.length_map]; omega)]

namespace State

variable {s t u c : State}

/-- A WRITE whose octets spell values that pass their codes is judged by its table (R162). -/
theorem judge_spelled {α β : Type} {parse : List Byte → Option β} {octets : α → List Byte} {es : List α} {l : List β}
    {ctl : Controller} (n : Byte) {table : TableName} {base offset count : Nat} (hheld : s.Holds ctl table base)
    (ht : table ≠ .notices) (hr : InWindow table base offset count 8)
    (hsize : ∀ a, (octets a).length = entrySize table) (hsp : Spell parse octets es count l) :
    s.judge ⟨ctl, n, .write offset count (es.flatMap octets)⟩ =
        s.validate table (base + offset) count (es.flatMap octets) ∧
      parseAll parse (base + offset) (chunks (entrySize table) count (es.flatMap octets)) = .ok l := by
  obtain ⟨idle, hw⟩ := hheld
  obtain ⟨hlen, hparse⟩ := hsp.parses hsize (base + offset)
  exact ⟨judge_write_valid n offset count _ hw rfl ht hr hlen, hparse⟩

/-! ## Writing entries one by one (R163) -/

theorem changesOnly_writeFrom {α : Type} {bs : List Block} {f : State → Nat → α → State}
    (hf : ∀ s i a, ChangesOnly bs s (f s i a)) (l : List α) (i : Nat) : ChangesOnly bs s (writeFrom f s i l) := by
  induction l generalizing s i with
  | nil => exact .refl ..
  | cons a l ih => exact (hf s i a).trans (ih (i + 1))

/-- What is kept of one index after a writing of all the entries from another on, where a write of that index makes of
it what `v` says and every other write leaves it, while `P` holds. -/
theorem writeFrom_get_while {α β : Type} {f : State → Nat → α → State} (P : State → Prop)
    (hP : ∀ s i a, P s → P (f s i a)) (get : State → β) (v : β → α → β) {p n : Nat}
    (hself : ∀ s a, P s → get (f s p a) = v (get s) a)
    (hother : ∀ s i a, i < n → i ≠ p → get (f s i a) = get s) (l : List α) {i : Nat} (hi : i + l.length ≤ n)
    (hs : P s) : get (writeFrom f s i l) = if i ≤ p then (l[p - i]?).elim (get s) (v (get s)) else get s := by
  induction l generalizing s i with
  | nil => simp [writeFrom]
  | cons a l ih =>
    simp only [List.length_cons] at hi
    rw [writeFrom, ih (by omega) (hP s i a hs)]
    by_cases hp : i = p
    · subst hp
      rw [if_neg (by omega), if_pos (Nat.le_refl i), Nat.sub_self, hself s a hs]
      rfl
    · rw [hother s i a (by omega) hp]
      by_cases hle : i ≤ p
      · obtain ⟨d, rfl⟩ : ∃ d, p = i + 1 + d := ⟨p - (i + 1), by omega⟩
        rw [if_pos (by omega), if_pos hle, show i + 1 + d - (i + 1) = d by omega, show i + 1 + d - i = d + 1 by omega]
        rfl
      · rw [if_neg (by omega), if_neg hle]

theorem writeFrom_get {α β : Type} {f : State → Nat → α → State} (get : State → β) (v : β → α → β) {p n : Nat}
    (hself : ∀ s a, get (f s p a) = v (get s) a) (hother : ∀ s i a, i < n → i ≠ p → get (f s i a) = get s) (l : List α)
    {i : Nat} (hi : i + l.length ≤ n) :
    get (writeFrom f s i l) = if i ≤ p then (l[p - i]?).elim (get s) (v (get s)) else get s :=
  writeFrom_get_while (fun _ => True) (fun _ _ _ _ => trivial) get v (fun s a _ => hself s a) hother l hi trivial

/-- What no single write changes. -/
theorem writeFrom_keeps {α β : Type} {f : State → Nat → α → State} (get : State → β)
    (hf : ∀ s i a, get (f s i a) = get s) (l : List α) (i : Nat) : get (writeFrom f s i l) = get s := by
  induction l generalizing s i with
  | nil => rfl
  | cons a l ih => rw [writeFrom, ih, hf]

theorem getD_eq_elim {α : Type} (l : List α) (k : Nat) (d : α) : l.getD k d = (l[k]?).elim d id := by
  rw [List.getD_eq_getElem?_getD]
  cases l[k]? with
  | none => rfl
  | some a => rfl

/-! ## The answer of a WRITE that stores its entries -/

/-- What a carrying out that touches none of the trunk, the frames, the agent and the notice queue leaves. -/
theorem carriesOut_of_frame {bs : List Block} {r : Nat} (hs : StoresOk u) (h : ChangesOnly bs u c)
    (hb : (Block.buf ∉ bs ∧ Block.queues ∉ bs ∧ Block.tx ∉ bs ∧ Block.line ∉ bs) ∧ Block.agent ∉ bs ∧
      Block.part ∉ bs) : CarriesOut [] u c r := by
  obtain ⟨htrunk, hagent, hpart⟩ := hb
  exact ⟨.of_buf h htrunk hs, fun _ hb => hb.congr (handle?_of_buf (h.buf htrunk.1) r),
    by rw [h.agent hagent], by rw [h.agent hagent], by rw [h.part hpart]⟩

/-- The answer of a request judged DONE whose effect leaves the agent and the notice queue. -/
theorem Executes.served_done {w : Turn} {h : ReqHeader} {kind : Byte} {q : Request} {k r : Nat} {body : List Byte}
    {gone : List Nat} {bs : List Block} {e : Effect} {payload : List Byte} (hx : Executes w s t h kind q u k r body)
    (hj : s.judge q = .done e) (hcarry : u.carryOut q.controller e = (c, payload))
    (hwakes : (Verdict.fresh q (.done e)).wakes = false) (hc : CarriesOut gone u c r) (hf : ChangesOnly bs u c)
    (hb : Block.agent ∉ bs ∧ Block.notices ∉ bs) :
    Answered w gone s t h kind .done payload ∧ t.agent.window = touched h.controller.val s.agent.window ∧
      KeepsNotices s t ∧ KeepsLimits c t ∧ ChangesOnly answerBlocks c t ∧ ChangesOnly (answerBlocks ++ bs) s t := by
  have hcarry' : u.carryVerdict (.fresh q (s.judge q)) = (c, payload) := by rw [hj]; exact hcarry
  have hserved := hx.served hcarry' hc
  obtain ⟨hans, hkeep⟩ := hx.served_unwoken hcarry' hc (by rw [hj]; exact hwakes)
    (by rw [hf.notices hb.2]; exact id)
  rw [hj] at hans
  have hall : ChangesOnly ([.buf, .agent] ++ bs) s c :=
    (hx.begins.frame.mono (List.subset_append_left ..)).trans (hf.mono (List.subset_append_right ..))
  have hn : c.notices = s.notices := (hf.notices hb.2).trans (hx.begins.frame.notices (by decide))
  have hwindow : c.agent.window = s.agent.window := by rw [hf.agent hb.1, hx.begins.agent]
  refine ⟨hans, hwindow ▸ hserved.window, fun hp => (hkeep (by rwa [hn])).trans hn,
    hserved.limits, hserved.frame, (hall.mono ?_).trans (hserved.frame.mono (List.subset_append_left ..))⟩
  exact List.append_subset.2 ⟨fun b hb => List.mem_append_left _ (by revert b; decide), List.subset_append_right ..⟩

/-! ## WRITE_ALLOT, WRITE_TIER, WRITE_STREAM_TALLY and WRITE_DISCARD -/

theorem tier_ofNat (q : Tier) : Tier.ofIx (Fin.ofNat 4 q.ix.val) = q := by
  rw [show Fin.ofNat 4 q.ix.val = q.ix from Fin.ext (Nat.mod_eq_of_lt q.ix.isLt), Tier.ofIx_ix]

theorem tier_ofNat_ne {q : Tier} {i : Nat} (hi : i < 4) (hne : i ≠ q.ix.val) : q ≠ Tier.ofIx (Fin.ofNat 4 i) := by
  rintro rfl
  rw [Tier.ix_ofIx] at hne
  exact hne (Nat.mod_eq_of_lt hi).symm

/-- One limit written (R81). -/
def writeLimit (s : State) (i n : Nat) : State :=
  s.setQueue (Tier.ofIx (Fin.ofNat 4 i)) { s.queue (Tier.ofIx (Fin.ofNat 4 i)) with limit := n }

theorem writeLimit_members (i n : Nat) (x : Tier) : ((s.writeLimit i n).queue x).members = (s.queue x).members := by
  by_cases hx : x = Tier.ofIx (Fin.ofNat 4 i)
  · subst hx
    rw [writeLimit, setQueue_queue_self]
  · rw [writeLimit, setQueue_queue_other _ _ hx]

theorem writeLimits_members (l : List Nat) (i : Nat) (x : Tier) :
    ((writeFrom writeLimit s i l).queue x).members = (s.queue x).members := by
  induction l generalizing s i with
  | nil => rfl
  | cons n l ih => rw [writeFrom, ih, writeLimit_members]

theorem carriesOut_writeLimits {r : Nat} (hs : StoresOk u) (l : List Nat) (i : Nat) :
    CarriesOut [] u (writeFrom writeLimit u i l) r ∧ ChangesOnly [.queues] u (writeFrom writeLimit u i l) := by
  have hf : ChangesOnly [.queues] u (writeFrom writeLimit u i l) :=
    changesOnly_writeFrom (fun s i n => by simp [ChangesOnly, writeLimit]) l i
  have hmem := writeLimits_members (s := u) l i
  have hbuf := hf.buf (by decide)
  refine ⟨⟨⟨storesOk_of_buf hs hbuf, .of_buf hbuf, fun k hk => hk.congr (hmem .t0) (hf.tx (by decide)),
    by rw [hf.line (by decide)], fun _ => ⟨hf.tx (by decide), hf.line (by decide), fun x _ => hmem x, by rw [hmem],
    fun k x _ hx => (handle?_of_buf hbuf k).trans hx⟩⟩, fun _ hb => hb.congr (handle?_of_buf hbuf r),
    by rw [hf.agent (by decide)], by rw [hf.agent (by decide)], by rw [hf.part (by decide)]⟩, hf⟩

/-- One discard count written (R192). -/
def writeCount (s : State) (i : Nat) (v : BitVec 32) : State := s.setDiscardCount (Fin.ofNat 20 i) v

end State

open State in
/-- Settles O50: the octets spell the values, and each value is what its own index holds after all are written. -/
theorem writesStoreTableEntries : Obligations.WritesStoreTableEntries := by
  intro turn h offset count s base first
  have hend {table : TableName} {α : Type} {l : List α} (hr : InWindow table base offset.toNat count.toNat 8)
      (hl : l.length = count.toNat) : base + offset.toNat + l.length ≤ tableEntries table := by
    obtain ⟨h1, -, -, h4⟩ := hr
    omega
  refine ⟨fun es l ha hheld hr hsp => ?_, fun es l ha hheld hr hsp => ?_, fun es l ha hheld hr hsp => ?_,
    fun es l ha hheld hr hsp => ?_⟩
  · obtain ⟨hj, hparse⟩ := judge_spelled h.number hheld (by decide) hr AllotWords.octets_length hsp
    simp only [validate, hparse] at hj
    obtain ⟨t, u, k, r, body, hexec, hx, -⟩ := exec_executes ha rfl rfl (by rw [hj]; exact Nat.le_refl _)
    have hu := hx.begins.frame
    have hf : ChangesOnly [.metering] u (writeFrom State.setRecord u (base + offset.toNat) l) :=
      changesOnly_writeFrom (fun s i a => by simp [ChangesOnly]) l _
    obtain ⟨hans, hwin, hnot, hlim, hframe, hall⟩ :=
      hx.served_done hj rfl rfl (carriesOut_of_frame hx.begins.stores hf (by decide)) hf (by decide)
    have hkeeps : KeepsLimits s (writeFrom State.setRecord u (base + offset.toNat) l) :=
      .of_queues ((hf.queues (by decide)).trans (hu.queues (by decide)))
    have hmetering := hframe.metering (by decide)
    refine ⟨t, hexec, hans, hkeeps.trans hlim, hnot, hwin, fun a => ?_, ?_, ?_, hall⟩
    · rw [record_of_metering hmetering, ← record_of_metering (hu.metering (by decide)), getD_eq_elim]
      exact writeFrom_get (f := State.setRecord) (fun x => x.record a) (fun _ => id) (p := a.val) (n := 1024)
        (fun _ v => setRecord_record_self _ a v) (fun _ _ v _ hi => setRecord_record_other _ v hi.symm) l
        (hend hr hsp.1)
    · rw [hmetering, ← congrArg Metering.runtimes (hu.metering (by decide))]
      exact writeFrom_keeps (f := State.setRecord) (fun x => x.metering.runtimes) (fun _ _ _ => rfl) l _
    · rw [hmetering, ← congrArg Metering.epochElapsed (hu.metering (by decide))]
      exact writeFrom_keeps (f := State.setRecord) (fun x => x.metering.epochElapsed) (fun _ _ _ => rfl) l _
  · obtain ⟨hj, hparse⟩ := judge_spelled h.number hheld (by decide) hr TierWords.octets_length hsp
    simp only [validate, hparse] at hj
    obtain ⟨t, u, k, r, body, hexec, hx, -⟩ := exec_executes ha rfl rfl (by rw [hj]; exact Nat.le_refl _)
    have hu := hx.begins.frame
    obtain ⟨hc, hf⟩ := carriesOut_writeLimits (r := r) hx.begins.stores l (base + offset.toNat)
    obtain ⟨hans, hwin, hnot, hlim, hframe, hall⟩ := hx.served_done hj rfl rfl hc hf (by decide)
    refine ⟨t, hexec, hans, hnot, hwin, fun q => ?_, hall.mono (by decide)⟩
    rw [hlim q]
    refine (writeFrom_get (f := writeLimit) (fun x => (x.queue q).limit) (fun _ => id) (p := q.ix.val) (n := 4)
      (fun x n => ?_) (fun x i n hi hne => ?_) l (hend hr hsp.1)).trans ?_
    · rw [writeLimit, tier_ofNat, setQueue_queue_self]
      rfl
    · rw [writeLimit, setQueue_queue_other _ _ (tier_ofNat_ne hi hne)]
    · rw [queue_of_queues (hu.queues (by decide)), ← getD_eq_elim]
  · obtain ⟨hj, hparse⟩ := judge_spelled h.number hheld (by decide) hr TallyWords.octets_length hsp
    simp only [validate, hparse] at hj
    obtain ⟨t, u, k, r, body, hexec, hx, -⟩ := exec_executes ha rfl rfl (by rw [hj]; exact Nat.le_refl _)
    have hu := hx.begins.frame
    have hf : ChangesOnly [.tallies] u (writeFrom State.setTally u (base + offset.toNat) l) :=
      changesOnly_writeFrom (fun s i a => by simp [ChangesOnly]) l _
    obtain ⟨hans, hwin, hnot, hlim, hframe, hall⟩ :=
      hx.served_done hj rfl rfl (carriesOut_of_frame hx.begins.stores hf (by decide)) hf (by decide)
    have hkeeps : KeepsLimits s (writeFrom State.setTally u (base + offset.toNat) l) :=
      .of_queues ((hf.queues (by decide)).trans (hu.queues (by decide)))
    have htallies := hframe.tallies (by decide)
    refine ⟨t, hexec, hans, hkeeps.trans hlim, hnot, hwin, fun i => ?_, fun c => ?_, hall⟩
    · rw [tally_of_tallies htallies, ← tally_of_tallies (hu.tallies (by decide)), getD_eq_elim]
      exact writeFrom_get (f := State.setTally) (fun x => x.tally i) (fun _ => id) (p := i.val) (n := 256)
        (fun _ v => setTally_tally_self _ i v) (fun _ _ v _ hi => setTally_tally_other _ v hi.symm) l (hend hr hsp.1)
    · rw [discardCount_of_tallies htallies, ← discardCount_of_tallies (hu.tallies (by decide))]
      exact writeFrom_keeps (f := State.setTally) (fun x => x.discardCount c) (fun _ _ _ => rfl) l _
  · obtain ⟨hj, hparse⟩ := judge_spelled h.number hheld (by decide) hr (fun _ => rfl) hsp
    simp only [validate, hparse] at hj
    obtain ⟨t, u, k, r, body, hexec, hx, -⟩ := exec_executes ha rfl rfl (by rw [hj]; exact Nat.le_refl _)
    have hu := hx.begins.frame
    have hf : ChangesOnly [.tallies] u (writeFrom writeCount u (base + offset.toNat) l) :=
      changesOnly_writeFrom (fun s i a => by simp [ChangesOnly, writeCount]) l _
    obtain ⟨hans, hwin, hnot, hlim, hframe, hall⟩ :=
      hx.served_done hj rfl rfl (carriesOut_of_frame hx.begins.stores hf (by decide)) hf (by decide)
    have hkeeps : KeepsLimits s (writeFrom writeCount u (base + offset.toNat) l) :=
      .of_queues ((hf.queues (by decide)).trans (hu.queues (by decide)))
    have htallies := hframe.tallies (by decide)
    refine ⟨t, hexec, hans, hkeeps.trans hlim, hnot, hwin, fun c => ?_, fun i => ?_, hall⟩
    · rw [discardCount_of_tallies htallies, ← discardCount_of_tallies (hu.tallies (by decide)), getD_eq_elim]
      refine writeFrom_get (f := writeCount) (fun x => x.discardCount c) (fun _ => id) (p := c.ix.val) (n := 20)
        (fun x v => ?_) (fun x i v hi hne => ?_) l (hend hr hsp.1)
      · rw [writeCount, show Fin.ofNat 20 c.ix.val = c.ix from Fin.ext (Nat.mod_eq_of_lt c.ix.isLt)]
        exact setDiscardCount_discards_self x c.ix v
      · refine setDiscardCount_discards_other x v fun e => hne ?_
        rw [e]
        exact (Nat.mod_eq_of_lt hi).symm
    · rw [tally_of_tallies htallies, ← tally_of_tallies (hu.tallies (by decide))]
      exact writeFrom_keeps (f := writeCount) (fun x => x.tally i) (fun _ _ _ => rfl) l _

end Sys2Proof.Machine
end

section
/-! PROOFS. WRITE_STREAM: the tags of the table after the write, and what each entry and runtime becomes (O49). -/

namespace Sys2Proof.Machine

theorem Table.pairwise_of_rising {α : Type} {m : List (Nat × α)} {n : Nat} (h : Table.risingFrom n m = true) :
    m.Pairwise (fun a b => a.1 < b.1) ∧ ∀ e ∈ m, n ≤ e.1 := by
  induction m generalizing n with
  | nil => exact ⟨.nil, nofun⟩
  | cons e m ih =>
    obtain ⟨j, a⟩ := e
    simp only [Table.risingFrom, Bool.and_eq_true, decide_eq_true_eq] at h
    obtain ⟨hj, hrest⟩ := h
    obtain ⟨hpair, hall⟩ := ih hrest
    refine ⟨List.pairwise_cons.2 ⟨fun e he => hall e he, hpair⟩, fun e he => ?_⟩
    rcases List.mem_cons.1 he with rfl | he
    · exact hj
    · exact (hj.trans (Nat.le_succ j)).trans (hall e he)

/-- Two valid entries of a table hold one tag. -/
def TagClash (entry : Nat → StreamEntry) : Prop :=
  ∃ i j, i < j ∧ j < 256 ∧ (entry i).valid = true ∧ (entry j).valid = true ∧ (entry i).tag = (entry j).tag

/-- A table holds one tag twice exactly when two of its valid entries do (R24). -/
theorem validTags_nodup_iff {m : List (Nat × StreamEntry)}
    (hm : Table.wf StreamEntry.invalid m = true ∧ ∀ e ∈ m, e.1 < 256) :
    (validTags m).Nodup ↔ ¬ TagClash (Table.get StreamEntry.invalid m) := by
  obtain ⟨hwf, hlt⟩ := hm
  obtain ⟨hsorted, -⟩ := Table.pairwise_of_rising (Table.risingFrom_zero_of_wf hwf)
  have hmem {i : Nat} (hv : (Table.get StreamEntry.invalid m i).valid = true) :
      (i, Table.get StreamEntry.invalid m i) ∈ m := by
    cases hf : Table.find m i with
    | none =>
      rw [Table.get, hf] at hv
      cases hv
    | some e =>
      rw [Table.get, hf]
      exact Table.mem_of_find hf
  rw [validTags, List.Nodup, List.pairwise_filterMap]
  constructor
  · rintro hpair ⟨i, j, hij, -, hi, hj, htag⟩
    have hsymm : Std.Symm (α := Nat × StreamEntry)
        (fun a b => a.2.valid = true → b.2.valid = true → a.2.tag ≠ b.2.tag) :=
      ⟨fun a b hab ha hb => (hab hb ha).symm⟩
    have hne : (i, Table.get StreamEntry.invalid m i) ≠ (j, Table.get StreamEntry.invalid m j) := fun e =>
      absurd (congrArg Prod.fst e) hij.ne
    refine (List.Pairwise.imp (S := fun a b => a.2.valid = true → b.2.valid = true → a.2.tag ≠ b.2.tag) ?_ hpair).forall
      (hmem hi) (hmem hj) hne hi hj htag
    exact fun hab ha hb => hab _ (by simp [ha]) _ (by simp [hb])
  · intro hclash
    refine hsorted.imp_of_mem fun {a b} ha hb hab x hx y hy hxy => hclash ⟨a.1, b.1, hab, hlt b hb, ?_⟩
    have ha' : Table.get StreamEntry.invalid m a.1 = a.2 := Table.get_of_mem hwf ha
    have hb' : Table.get StreamEntry.invalid m b.1 = b.2 := Table.get_of_mem hwf hb
    rw [ha', hb']
    split at hx
    · split at hy
      · cases hx
        cases hy
        exact ⟨‹_›, ‹_›, hxy⟩
      · cases hy
    · cases hx

namespace State

variable {s t u : State}

theorem rewrittenRuntime_of_records (h : t.metering.records = s.metering.records) (old new : StreamEntry)
    (rt : Runtime) : t.rewrittenRuntime old new rt = s.rewrittenRuntime old new rt := by
  simp only [rewrittenRuntime, freshRuntime, loaded_of_records h]

section WriteStreams

variable (l : List StreamEntry) {first : Nat}

/-- The entries after the writing of some. -/
theorem writeStreams_stream (i : Nat) : (writeFrom State.writeStreamEntry s first l).stream i =
    (if first ≤ i then l[i - first]? else none).getD (s.stream i) := by
  rw [writeFrom_get (f := State.writeStreamEntry) (fun x => x.stream i) (fun _ => id) (p := i) (n := first + l.length)
    (fun x a => ?_) (fun x j a _ hj => ?_) l (Nat.le_refl _)]
  · split
    · cases l[i - first]? with
      | none => rfl
      | some a => rfl
    · rfl
  · rw [writeStreamEntry, setRuntime_stream, setStream_stream_self]
    rfl
  · rw [writeStreamEntry, setRuntime_stream, setStream_stream_other _ _ hj.symm]

theorem writeStreams_records :
    (writeFrom State.writeStreamEntry s first l).metering.records = s.metering.records :=
  writeFrom_keeps (f := State.writeStreamEntry) (fun x => x.metering.records) (fun _ _ _ => rfl) l first

theorem writeStreams_elapsed :
    (writeFrom State.writeStreamEntry s first l).metering.epochElapsed = s.metering.epochElapsed :=
  writeFrom_keeps (f := State.writeStreamEntry) (fun x => x.metering.epochElapsed) (fun _ _ _ => rfl) l first

/-- The runtimes after the writing of some entries (R31). -/
theorem writeStreams_runtime (i : Nat) : (writeFrom State.writeStreamEntry s first l).runtime i =
    (if first ≤ i then l[i - first]? else none).elim (s.runtime i)
      fun e => s.rewrittenRuntime (s.stream i) e (s.runtime i) := by
  have hget := writeFrom_get_while (f := State.writeStreamEntry) (s := s)
    (fun x => x.metering.records = s.metering.records) (fun _ _ _ h => h) (fun x => (x.stream i, x.runtime i))
    (fun b e => (e, s.rewrittenRuntime b.1 e b.2)) (p := i) (n := first + l.length) (fun x e hx => ?_)
    (fun x j e _ hj => ?_) l (Nat.le_refl _) rfl
  · have hrt := congrArg Prod.snd hget
    dsimp only at hrt
    rw [hrt]
    split
    · cases l[i - first]? with
      | none => rfl
      | some e => rfl
    · rfl
  · rw [writeStreamEntry, setRuntime_stream, setStream_stream_self, setRuntime_runtime_self,
      rewrittenRuntime_of_records hx]
  · rw [writeStreamEntry, setRuntime_stream, setStream_stream_other _ _ hj.symm, setRuntime_runtime_other _ _ hj.symm]
    rfl

end WriteStreams

/-- The written entries are in canonical form. -/
theorem spell_streams {es : List StreamWords} {count : Nat} {l : List StreamEntry}
    (h : Spell parseStream StreamWords.octets es count l) :
    ∀ e ∈ l, e = StreamEntry.invalid ∨ e.valid = true ∧ e.tag ≠ 0 := by
  intro e he
  obtain ⟨k, hk⟩ := List.mem_iff_getElem?.1 he
  obtain ⟨x, -, hx⟩ := h.2 k e hk
  exact parseStream_spec hx

end State

open State in
/-- Settles O49: the judgement refuses the table that would hold one tag twice, and each entry and runtime is what its
own write makes of it. -/
theorem writeStreamStoresEntries : Obligations.WriteStreamStoresEntries := by
  intro turn h offset count es s base l ha hok hheld hr hsp first written entry clash
  obtain ⟨hj, hparse⟩ := judge_spelled h.number hheld (by decide) hr StreamWords.octets_length hsp
  have hend : first + l.length ≤ 256 := by
    obtain ⟨h1, -, -, h4⟩ := hr
    have hl := hsp.1
    have h4' : base + offset.toNat + count.toNat - 1 < 256 := h4
    omega
  have hentries := entriesOk_writeStreams l ⟨hok.1, hok.2.2⟩ hend (spell_streams hsp)
  have htags : hasRepeat (validTags (overwrite s.streams first l)) = false ↔ ¬ clash := by
    rw [hasRepeat_eq_false, ← writeFrom_streams, validTags_nodup_iff hentries.1.1]
    have hentry : Table.get StreamEntry.invalid (writeFrom State.writeStreamEntry s first l).streams = entry :=
      funext (writeStreams_stream l)
    rw [hentry]
    rfl
  by_cases hc : clash
  · have hrepeat : hasRepeat (validTags (overwrite s.streams first l)) = true := by
      by_contra hno
      exact htags.1 (Bool.eq_false_iff.2 hno) hc
    simp only [validate, hparse] at hj
    rw [if_pos hrepeat] at hj
    obtain ⟨t, u, k, r, body, hexec, hx, -⟩ := exec_executes ha rfl rfl (by rw [hj]; exact Nat.le_refl _)
    obtain ⟨hans, hwin, hlim, hnot, hframe⟩ := hx.served_refuse hj
    exact ⟨t, hexec, hlim, hnot, hwin, fun _ => ⟨hans, hframe⟩, fun hno => absurd hc hno⟩
  · simp only [validate, hparse] at hj
    rw [if_neg (by rw [htags.2 hc]; exact nofun)] at hj
    obtain ⟨t, u, k, r, body, hexec, hx, -⟩ := exec_executes ha rfl rfl (by rw [hj]; exact Nat.le_refl _)
    have hu := hx.begins.frame
    have hf : ChangesOnly [.streams, .metering] u (writeFrom State.writeStreamEntry u first l) :=
      writeStreams_frame l first
    obtain ⟨hans, hwin, hnot, hlim, hframe, hall⟩ :=
      hx.served_done hj rfl rfl (carriesOut_of_frame hx.begins.stores hf (by decide)) hf (by decide)
    have hkeeps : KeepsLimits s (writeFrom State.writeStreamEntry u first l) :=
      .of_queues ((hf.queues (by decide)).trans (hu.queues (by decide)))
    have hmetering : t.metering = (writeFrom State.writeStreamEntry u first l).metering := hframe.metering (by decide)
    have hstreams : t.streams = (writeFrom State.writeStreamEntry u first l).streams := hframe.streams (by decide)
    have humetering := hu.metering (by decide)
    have hustream (i : Nat) : u.stream i = s.stream i := stream_of_streams (hu.streams (by decide)) i
    have huruntime (i : Nat) : u.runtime i = s.runtime i := runtime_of_metering humetering i
    refine ⟨t, hexec, hkeeps.trans hlim, hnot, hwin, fun hyes => absurd hyes hc, fun _ => ⟨hans, hall, ?_, ?_,
      fun i => ⟨?_, ?_⟩⟩⟩
    · rw [hmetering, writeStreams_records, humetering]
    · rw [hmetering, writeStreams_elapsed, humetering]
    · rw [stream_of_streams hstreams, writeStreams_stream, hustream]
    · rw [runtime_of_metering hmetering, writeStreams_runtime, hustream, huruntime]
      show (written i).elim _ _ = _
      cases written i with
      | none => rfl
      | some e =>
        rw [Option.elim_some, rewrittenRuntime_of_records (congrArg Metering.records humetering)]
        simp only [rewrittenRuntime, Bool.and_eq_true, decide_eq_true_eq, and_assoc]
        split
        · rfl
        · unfold freshRuntime
          cases e.valid with
          | false => rfl
          | true =>
            cases e.chainHead with
            | none => rfl
            | some r => rfl

end Sys2Proof.Machine
end

section
/-! PROOFS. APPEND and ACKNOWLEDGE: the streams revived, and the notice frame that follows the reply (O53). -/

namespace Sys2Proof.Machine

/-- The entries of a table for which a test holds that the power-on value fails, counted by index. -/
theorem Table.filter_length {α : Type} [DecidableEq α] {d : α} {m : List (Nat × α)} {n : Nat} (p : α → Bool)
    (hm : Table.wf d m = true ∧ ∀ e ∈ m, e.1 < n) (hd : p d = false) :
    (m.filter fun e => p e.2).length = ((List.range n).filter fun i => p (Table.get d m i)).length := by
  obtain ⟨hwf, hlt⟩ := hm
  obtain ⟨hsorted, -⟩ := Table.pairwise_of_rising (Table.risingFrom_zero_of_wf hwf)
  have hnodup : ((m.filter fun e => p e.2).map Prod.fst).Nodup :=
    List.pairwise_map.2 ((hsorted.sublist List.filter_sublist).imp fun h => h.ne)
  have hperm := (List.perm_ext_iff_of_nodup hnodup (List.nodup_range.filter fun i => p (Table.get d m i))).2 fun i => by
    constructor
    · intro hi
      obtain ⟨e, he, rfl⟩ := List.mem_map.1 hi
      obtain ⟨he, hp⟩ := List.mem_filter.1 he
      rw [List.mem_filter, List.mem_range, Table.get_of_mem hwf (show (e.1, e.2) ∈ m from he)]
      exact ⟨hlt e he, hp⟩
    · intro hi
      obtain ⟨-, hp⟩ := List.mem_filter.1 hi
      cases hf : Table.find m i with
      | none =>
        rw [Table.get, hf, Option.getD_none, hd] at hp
        cases hp
      | some a =>
        rw [Table.get, hf] at hp
        exact List.mem_map.2 ⟨(i, a), List.mem_filter.2 ⟨Table.mem_of_find hf, hp⟩, rfl⟩
  rw [← hperm.length_eq, List.length_map]

theorem Runtime.exhaustedAt_eq (r : RecordIx) (rt : Runtime) : rt.exhaustedAt r = decide (rt = .exhausted r) := by
  cases rt with
  | unmetered => rfl
  | metered c b => rfl
  | exhausted c => simp [Runtime.exhaustedAt]

namespace State

variable {s t u : State}

/-- The streams that an APPEND revives, counted over the stream table (R70). -/
theorem revived_eq (ht : TablesOk s) (r : RecordIx) :
    s.revived r = ((List.range 256).filter fun i => decide (s.runtime i = .exhausted r)).length := by
  have hlen := Table.filter_length (Runtime.exhaustedAt r) ht.2.2.1 rfl
  rw [revived, hlen]
  exact congrArg List.length (List.filter_congr fun i _ => Runtime.exhaustedAt_eq r _)

theorem judge_append (s : State) (c : Controller) (n : Byte) {a b : Nat} :
    (1024 ≤ a ∨ 1024 ≤ b → s.judge ⟨c, n, .append a b⟩ = .refuse .range) ∧
    ∀ r x : RecordIx, r.val = a → x.val = b →
      ((s.record r).next ≠ none → s.judge ⟨c, n, .append a b⟩ = .refuse .chainNotEnd) ∧
      ((s.record r).next = none → s.judge ⟨c, n, .append a b⟩ = .done (.append r x)) := by
  refine ⟨fun h => ?_, ?_⟩
  · by_cases ha : a < 1024
    · have hb : ¬ b < 1024 := by omega
      simp [judge, ha, hb]
    · simp [judge, ha]
  · rintro r x rfl rfl
    refine ⟨fun hnext => ?_, fun hnext => ?_⟩
    · obtain ⟨y, hy⟩ := Option.ne_none_iff_exists'.1 hnext
      simp [judge, hy]
    · simp [judge, hnext]

/-- What an APPEND makes of a record and of a runtime (R69). -/
theorem appendRecord_record (r n : RecordIx) :
    (s.appendRecord r n).record r = { s.record r with next := some n } ∧
      ∀ q, q ≠ r → (s.appendRecord r n).record q = s.record q :=
  ⟨setRecord_record_self .., fun _ hq => setRecord_record_other _ _ fun e => hq (Fin.ext e)⟩

theorem appendRecord_metering (h : u.metering = s.metering) (r n : RecordIx) :
    (u.appendRecord r n).metering = (s.appendRecord r n).metering := by
  simp only [appendRecord, setRecord, withMetering, h, loaded, record]
  rfl

/-- The next of a record is not in what it loads (R62). -/
theorem loaded_setNext (r n : RecordIx) (x : Option RecordIx) :
    (s.setRecord r.val { s.record r with next := x }).loaded n = s.loaded n := by
  have hbudget : ((s.setRecord r.val { s.record r with next := x }).record n).budget = (s.record n).budget := by
    by_cases hn : n = r
    · rw [hn, setRecord_record_self]
    · rw [setRecord_record_other _ _ fun e => hn (Fin.ext e)]
  rw [loaded, loaded, hbudget]

/-! ## A notice frame behind the reply (R13, R151, R177) -/

/-- A first send is made, at the reply or, where it found no room, at the release of the request `k`; its frame has one
cell. -/
structure SendsBehind (p t : State) (k h : Nat) (n : NoticeRecord) (rest : List NoticeRecord) : Prop where
  free : p.handle? h = none ∨ h = k
  freed : h = k ∨ t.handle? k = none
  notices : t.notices = {
    records := { n with state := .sent p.notices.counter 1 (BitVec.ofNat 8 p.notices.lost) } :: rest
    counter := p.notices.counter + 1, lost := p.notices.lost, timer := .running 0, pending := false }
  body : t.bodyOf h = t.noticeFrame n.notice p.notices.counter 1 (BitVec.ofNat 8 p.notices.lost)
  others : ∀ j, j ≠ h → p.handle? j = none → t.handle? j = none
  joins : p.tx.mode ≠ .idle → (t.queue .t0).members = (p.queue .t0).members ++ [h] ∧
    ∃ y, t.handle? h = some y ∧ y.chain.length = 1

section Behind

variable {p : State} {k : Nat} {n : NoticeRecord} {rest : List NoticeRecord}

theorem releaseRequest_of_not_pending (h : p.notices.pending = false) : p.releaseRequest k =
    (p.withAgent { p.agent with state := .idle, inbox := p.agent.inbox.tail }).freeHandle k :=
  noticeRetry_of_not_pending
    (s := (p.withAgent { p.agent with state := .idle, inbox := p.agent.inbox.tail }).freeHandle k) h

variable {x : Handle} (hs : StoresOk p) (hx : p.handle? k = some x) (hr : p.notices.records = n :: rest)
include hs hx hr

theorem sendsBehind_of_room (hroom : 1 ≤ p.freeHandles ∧ 1 ≤ p.freeCells) :
    ∃ h, SendsBehind p ((p.sendOldest p.notices.counter 1 (BitVec.ofNat 8 p.notices.lost)
      (p.notices.counter + 1)).releaseRequest k) k h n rest := by
  obtain ⟨h, u, hfree, hu, -, hkeep, hframe, hnotices, ⟨chain, hlen, hh⟩, hj⟩ := sendOldest_joins hs hr hroom
    p.notices.counter 1 (BitVec.ofNat 8 p.notices.lost) (p.notices.counter + 1)
  generalize p.sendOldest p.notices.counter 1 (BitVec.ofNat 8 p.notices.lost) (p.notices.counter + 1) = v at hj
  have hvn : v.notices = u.notices := hj.frame.notices (by decide)
  have hvp : v.notices.pending = false := by rw [hvn, hnotices]
  have hpart : v.part = p.part := (hj.frame.part (by decide)).trans (hframe.part (by decide))
  obtain ⟨hgrows, -⟩ := releaseRequest_spec hj.stores k
  obtain ⟨y, hy, hfit⟩ := hj.fits
  have hne : h ∉ [k] := fun e => by
    rw [List.mem_singleton.1 e, hx] at hfree
    cases hfree
  have hbody := (hgrows.carries.body hne hy hfit).trans hj.body
  rw [releaseRequest_of_not_pending hvp] at hbody ⊢
  refine ⟨h, .inl hfree, .inr (freeHandle_handle?_self ..), ?_, hbody.trans ?_, fun j hj' hjf => ?_, fun hmode => ?_⟩
  · show v.notices = _
    rw [hvn, hnotices]
  · rw [noticeFrame, noticeFrame]
    show _ = octets2 v.part.noticeTag ++ [v.part.node.setWidth 8, _, _, _] ++ _ ++ _
    rw [hpart]
  · have hjk : j ≠ k := by
      rintro rfl
      rw [hx] at hjf
      cases hjf
    refine (freeHandle_handle?_other _ hjk).trans (hj.free j ?_)
    exact (hkeep j fun e => hj' (List.mem_singleton.1 e)).trans hjf
  · have htx : u.tx = p.tx := hframe.tx (by decide)
    obtain ⟨hmem, -, -, -, -, hrec⟩ := hj.waits (by rwa [htx])
    refine ⟨?_, _, (freeHandle_handle?_other _ fun e => hne (List.mem_singleton.2 e)).trans (hrec _ hh), hlen⟩
    show (v.queue .t0).members = _
    rw [hmem, queue_of_queues (hframe.queues (by decide))]

theorem sendsBehind_of_no_room (hcell : 1 ≤ x.chain.length) (hn : n.state = .queued) (ho : p.noticesOpen = true)
    (hroom : ¬ (1 ≤ p.freeHandles ∧ 1 ≤ p.freeCells)) :
    ∃ h, SendsBehind p ((p.sendOldest p.notices.counter 1 (BitVec.ofNat 8 p.notices.lost)
      (p.notices.counter + 1)).releaseRequest k) k h n rest := by
  rw [sendOldest_refused hr hroom]
  let v := ((p.withNotices { p.notices with pending := true, timer := .stopped }).withAgent
    { p.agent with state := .idle, inbox := p.agent.inbox.tail }).freeHandle k
  obtain ⟨hvs, hcount⟩ := storesOk_freeHandle (s := (p.withNotices { p.notices with
    pending := true, timer := .stopped }).withAgent { p.agent with state := .idle, inbox := p.agent.inbox.tail })
    (storesOk_of_buf hs rfl) k
  obtain ⟨hcells, hhandles⟩ := hcount x hx
  have hle := handles_length_le hs
  have hle' := heldCells_length_le hs
  have hroom' : 1 ≤ v.freeHandles ∧ 1 ≤ v.freeCells := by
    have hc : v.heldCells.length + x.chain.length = p.heldCells.length := hcells
    have hh : v.buf.handles.length + 1 = p.buf.handles.length := hhandles
    simp only [freeHandles, freeCells, Config.handleCount, Config.cellCount]
    omega
  obtain ⟨h, u, hfree, hu, -, hkeep, hframe, hnotices, ⟨chain, hlen, hh⟩, hj⟩ := sendOldest_joins (s := v) hvs hr hroom'
    p.notices.counter 1 (BitVec.ofNat 8 p.notices.lost) (p.notices.counter + 1)
  have hretry : v.noticeRetry = v.sendOldest p.notices.counter 1 (BitVec.ofNat 8 p.notices.lost)
      (p.notices.counter + 1) := noticeRetry_of_queued (s := v) ho rfl hr hn
  have hgoal : (p.withNotices { p.notices with pending := true, timer := .stopped }).releaseRequest k =
      v.sendOldest p.notices.counter 1 (BitVec.ofNat 8 p.notices.lost) (p.notices.counter + 1) := hretry
  rw [hgoal]
  generalize v.sendOldest p.notices.counter 1 (BitVec.ofNat 8 p.notices.lost) (p.notices.counter + 1) = t at hj
  have hpart : t.part = v.part := (hj.frame.part (by decide)).trans (hframe.part (by decide))
  refine ⟨h, ?_, ?_, ?_, hj.body.trans ?_, fun j hj' hjf => ?_, fun hmode => ?_⟩
  · by_cases hk : h = k
    · exact .inr hk
    · exact .inl ((freeHandle_handle?_other _ hk).symm.trans hfree)
  · by_cases hk : h = k
    · exact .inl hk
    · refine .inr (hj.free k ((hkeep k fun e => hk (List.mem_singleton.1 e).symm).trans ?_))
      exact freeHandle_handle?_self ..
  · rw [hj.frame.notices (by decide), hnotices]
    rfl
  · rw [noticeFrame, noticeFrame, hpart]
  · have hjk : j ≠ k := by
      rintro rfl
      rw [hx] at hjf
      cases hjf
    refine hj.free j ((hkeep j fun e => hj' (List.mem_singleton.1 e)).trans ?_)
    exact (freeHandle_handle?_other _ hjk).trans hjf
  · have htx : u.tx = p.tx := hframe.tx (by decide)
    obtain ⟨hmem, -, -, -, -, hrec⟩ := hj.waits (by rwa [htx])
    refine ⟨?_, _, hrec _ hh, hlen⟩
    rw [hmem, queue_of_queues (hframe.queues (by decide))]
    rfl

/-- A first send that is open is made behind the reply (R177). -/
theorem sendsBehind (hcell : 1 ≤ x.chain.length) (hp : p.notices.pending = false)
    (hq : ∀ y ∈ p.notices.records, y.state = .queued)
    (ho : p.noticesOpen = true) : ∃ h, SendsBehind p (p.noticeAttempt.releaseRequest k) k h n rest := by
  have hready : p.firstSendReady = true :=
    firstSendReady_iff.2 ⟨noticesOpen_iff.1 ho, by rw [hr]; exact nofun, hq, hp⟩
  rw [noticeAttempt_of_ready hready]
  by_cases hroom : 1 ≤ p.freeHandles ∧ 1 ≤ p.freeCells
  · exact sendsBehind_of_room hs hx hr hroom
  · exact sendsBehind_of_no_room hs hx hr hcell (hq n (by rw [hr]; exact List.mem_cons_self)) ho hroom

end Behind

section Notify

variable {w : Turn} {c : State} {h : ReqHeader} {kind : Byte} {q : Request} {k r : Nat} {body : List Byte}
  {payload : List Byte} {bs : List Block}

/-- The answer of a request that lets the oldest record be sent: its reply, and the notice frame behind it (R177). -/
theorem Executes.notifies (hx : Executes w s t h kind q u k r body)
    (hcarry : u.carryVerdict (.fresh q (s.judge q)) = (c, payload)) (hc : CarriesOut [] u c r)
    (hf : ChangesOnly bs u c) (hb : Block.queues ∉ bs ∧ Block.tx ∉ bs)
    (hq : ∀ p : State, p.notices = c.notices → p.part = c.part →
      p.noticesAfterReply u.part.noticeTag (.fresh q (s.judge q)) = p.noticeAttempt)
    {n : NoticeRecord} {rest : List NoticeRecord} (hr : c.notices.records = n :: rest)
    (hp : c.notices.pending = false) (hqueued : ∀ y ∈ c.notices.records, y.state = .queued)
    (ho : c.noticesOpen = true) :
    t.notices = {
      records := { n with state := .sent c.notices.counter 1 (BitVec.ofNat 8 c.notices.lost) } :: rest
      counter := c.notices.counter + 1, lost := c.notices.lost, timer := .running 0, pending := false } ∧
    RepliesThenNotifies w s t (s.replyOctets h kind (s.judge q).status false payload)
      (t.noticeFrame n.notice c.notices.counter 1 (BitVec.ofNat 8 c.notices.lost)) := by
  have hbegin := hx.begins
  have hbuilding := hx.building hcarry hc
  have hj := joined_answer (body := body) (v := .fresh q (s.judge q)) hc.grows.stores hbuilding
  have hans : Answering c t k r (.fresh q (s.judge q)) (octetAt body 4)
      (c.replyBody body (.fresh q (s.judge q)) payload) := by
    rw [hx.eq]
    exact answering hcarry hc.grows.stores hbuilding hbegin.ne
  have hreply := hx.replyOctets (hc.node.trans (by rw [hbegin.frame.part (by decide)])) (s.judge q) payload
  have heq := hx.eq.trans (answer_octets hcarry)
  generalize c.replied (.fresh q (s.judge q)) (octetAt body 4) r (c.replyBody body (.fresh q (s.judge q)) payload) = p
    at hj heq
  have hpn : p.notices = c.notices := hj.frame.notices (by decide)
  have hpp : p.part = c.part := hj.frame.part (by decide)
  have hpl : p.line.link = c.line.link := by rw [hj.line]; rfl
  rw [hq p hpn hpp] at heq
  obtain ⟨x, hxk, hcell⟩ := hx.chain
  obtain ⟨y, hy, hyc, -⟩ := hc.grows.carries k x nofun hxk
  obtain ⟨z, hz, hzc, -⟩ := hj.carries k y (fun e => hbegin.ne (List.mem_singleton.1 e)) hy
  obtain ⟨h', hsends⟩ := sendsBehind hj.stores hz (by rwa [hpn]) (by rw [hzc, hyc]; exact hcell) (by rwa [hpn])
    (by rwa [hpn]) ((noticesOpen_congr hpl (by rw [hpp])).trans ho)
  have hgrows : Grows [k] p t := by
    obtain ⟨hattempt, -⟩ := grows_noticeAttempt hj.stores
    rw [heq]
    exact (hattempt.mono (List.nil_subset _)).trans (releaseRequest_spec hattempt.stores k).1
  rw [← heq] at hsends
  obtain ⟨o, ho', -⟩ := hj.fits
  have hrh : r ≠ h' := by
    rintro rfl
    rcases hsends.free with hfree | hk
    · rw [hfree] at ho'
      cases ho'
    · exact hbegin.ne hk.symm
  have hcs : ChangesOnly ([.buf, .agent] ++ bs) s c :=
    (hbegin.frame.mono (List.subset_append_left ..)).trans (hf.mono (List.subset_append_right ..))
  have hctx : c.tx = s.tx := hcs.tx (by simpa using hb.2)
  have hcq (x : Tier) : c.queue x = s.queue x := queue_of_queues (hcs.queues (by simpa using hb.1)) x
  refine ⟨by rw [hsends.notices, hpn], r, h', hrh, hans.body.trans hreply, by rw [hsends.body, hpn], hbegin.fresh, ?_,
    fun a ha => ?_, fun hmode => ?_, fun hmode hempty hstack => ?_⟩
  · rcases hsends.free with hfree | rfl
    · by_cases ha : h' ∈ w.asked
      · exact .inr ha
      · refine .inl (Option.eq_none_iff_forall_ne_some.2 fun a hsa => ?_)
        obtain ⟨b, hb', -⟩ := hbegin.carries h' a nofun hsa
        obtain ⟨d, hd, -⟩ := hc.grows.carries h' b nofun hb'
        obtain ⟨e, he, -⟩ := hj.carries h' d (fun e => hrh (List.mem_singleton.1 e).symm) hd
        rw [hfree] at he
        cases he
    · rcases hbegin.asked with ⟨-, hfree⟩ | ⟨hasked, -⟩
      · exact .inl hfree
      · exact .inr (hasked ▸ List.mem_singleton_self _)
  · rcases hbegin.asked with ⟨hasked, -⟩ | ⟨hasked, -⟩
    · rw [hasked] at ha
      cases ha
    · rw [hasked, List.mem_singleton] at ha
      exact ha ▸ hsends.freed.imp_left Eq.symm
  · have hcmode : (c.recordedAgent (.fresh q (s.judge q)) (octetAt body 4)).tx.mode ≠ .idle := by
      show c.tx.mode ≠ .idle
      rwa [hctx]
    obtain ⟨hmem, -, -, htx, -⟩ := hj.waits hcmode
    rw [(hsends.joins (by rw [htx]; exact hcmode)).1, hmem]
    show (c.queue .t0).members ++ _ ++ _ = _
    rw [hcq, List.append_assoc]
    rfl
  · obtain ⟨hactive, hnone, hbusy⟩ := hj.goes (show c.tx.mode = .idle by rwa [hctx])
      (show (c.queue .t0).members = [] by rwa [hcq]) (show c.tx.stack = [] by rwa [hctx])
    obtain ⟨htx, -⟩ := hgrows.busy hbusy
    exact ⟨by rw [htx, hactive], by rw [(hsends.joins hbusy).1, hnone]; rfl⟩

/-- The answer of a request after whose reply no first send is open. -/
theorem Executes.served_closed (hx : Executes w s t h kind q u k r body)
    (hcarry : u.carryVerdict (.fresh q (s.judge q)) = (c, payload)) (hc : CarriesOut [] u c r)
    (hpend : c.notices.pending = true → u.notices.pending = true) (hno : c.firstSendReady = false)
    (hq : ∀ p : State, p.notices = c.notices → p.part = c.part →
      p.noticesAfterReply u.part.noticeTag (.fresh q (s.judge q)) = p.noticeAttempt) :
    Answered w [] s t h kind (s.judge q).status payload ∧ (c.notices.pending = false → t.notices = c.notices) := by
  have hj := joined_answer (body := body) (v := .fresh q (s.judge q)) hc.grows.stores (hx.building hcarry hc)
  refine hx.served_quiet hcarry hc hpend ?_
  generalize c.replied (.fresh q (s.judge q)) (octetAt body 4) r (c.replyBody body (.fresh q (s.judge q)) payload) = p
    at hj
  have hpn : p.notices = c.notices := hj.frame.notices (by decide)
  have hpp : p.part = c.part := hj.frame.part (by decide)
  have hpl : p.line.link = c.line.link := by rw [hj.line]; rfl
  rw [hq p hpn hpp]
  refine noticeAttempt_of_not_ready ?_
  have hopen : p.noticesOpen = c.noticesOpen := noticesOpen_congr hpl (by rw [hpp])
  rw [firstSendReady, hpn, hopen, ← firstSendReady, hno]
  exact nofun

end Notify

/-! ## ACKNOWLEDGE (R167, R182) -/

/-- The record that an ACKNOWLEDGE finds is the SENT one with its sequence number. -/
theorem acknowledged_some {sequence lost : Byte} (h : s.acknowledged sequence = some lost) :
    ∃ n k rest, s.notices.records = { notice := n, state := .sent sequence k lost } :: rest := by
  unfold acknowledged at h
  split at h
  · rename_i n q k l rest hr
    split at h
    · rename_i hq
      cases h
      exact ⟨n, k, rest, by rw [hr, hq]⟩
    · cases h
  · cases h

theorem acknowledged_of_records {n : Notice} {sequence lost : Byte} {k : Nat} {rest : List NoticeRecord}
    (h : s.notices.records = { notice := n, state := .sent sequence k lost } :: rest) :
    s.acknowledged sequence = some lost := by
  simp [acknowledged, h]

/-- The notice queue after an acknowledged record has left it. -/
theorem acknowledge_notices {r : NoticeRecord} {rest : List NoticeRecord} (h : s.notices.records = r :: rest)
    (lost : Byte) : (s.acknowledge lost).notices = {
      records := rest, counter := s.notices.counter, lost := if lost = 0 then s.notices.lost else 0
      timer := .stopped, pending := false } := by
  unfold acknowledge
  split
  · simp [dropOldest, h]
  · simp [dropOldest, h]

section Found

variable {w : Turn} {h : ReqHeader} {kind : Byte} {q : Request} {k r : Nat} {body : List Byte}

/-- The answer of an ACKNOWLEDGE that finds its record. -/
theorem Executes.acknowledges (hx : Executes w s t h kind q u k r body) {sequence lost : Byte}
    (hj : s.judge q = .done (.acknowledge lost)) {n : Notice} {m : Nat} {rest : List NoticeRecord}
    (hr : s.notices.records = { notice := n, state := .sent sequence m lost } :: rest)
    (hqueued : ∀ y ∈ rest, y.state = .queued) :
    let left := if lost = 0 then s.notices.lost else 0
    Answered w [] s t h kind .done [] ∧ KeepsLimits s t ∧ t.agent.window = touched h.controller.val s.agent.window ∧
      ChangesOnly answerBlocks s t ∧
      ((rest = [] ∨ s.line.link ≠ .up ∨ s.part.noticeTag = 0) → t.notices = {
        records := rest, counter := s.notices.counter, lost := left, timer := .stopped, pending := false }) ∧
      ∀ x more, rest = x :: more → s.line.link = .up → s.part.noticeTag ≠ 0 →
        t.notices = {
          records := { x with state := .sent s.notices.counter 1 (BitVec.ofNat 8 left) } :: more
          counter := s.notices.counter + 1, lost := left, timer := .running 0, pending := false } ∧
        RepliesThenNotifies w s t (s.replyOctets h kind .done false [])
          (t.noticeFrame x.notice s.notices.counter 1 (BitVec.ofNat 8 left)) := by
  intro left
  have hu := hx.begins.frame
  have hf : ChangesOnly [.notices] u (u.acknowledge lost) := (lawful_acknowledge lost).frame
  have hcarry : u.carryVerdict (.fresh q (s.judge q)) = (u.acknowledge lost, []) := by rw [hj]; rfl
  have hc : CarriesOut [] u (u.acknowledge lost) r := carriesOut_of_frame hx.begins.stores hf (by decide)
  have hcn : (u.acknowledge lost).notices = {
      records := rest, counter := s.notices.counter, lost := left, timer := .stopped, pending := false } := by
    have hun : u.notices = s.notices := hu.notices (by decide)
    rw [acknowledge_notices (by rw [hun]; exact hr), hun]
  have hlink : (u.acknowledge lost).line.link = s.line.link := by rw [hf.line (by decide), hu.line (by decide)]
  have htag : (u.acknowledge lost).part = s.part := by rw [hf.part (by decide), hu.part (by decide)]
  have hattempt (p : State) : p.noticesAfterReply u.part.noticeTag (.fresh q (s.judge q)) = p.noticeAttempt := by
    rw [hj]
    rfl
  have hserved := hx.served hcarry hc
  rw [hj] at hserved
  have hanswered (hlen : t.notices.records.length = rest.length) : Answered w [] s t h kind .done [] := by
    refine ⟨hserved.records, hserved.replies, hserved.answerFrame, fun hn => ?_⟩
    rw [hn, hr, List.length_cons] at hlen
    omega
  have hrest : KeepsLimits s t ∧ t.agent.window = touched h.controller.val s.agent.window ∧
      ChangesOnly answerBlocks s t := by
    refine ⟨(KeepsLimits.of_queues ((hf.queues (by decide)).trans (hu.queues (by decide)))).trans hserved.limits, ?_,
      ((hu.mono (by decide)).trans (hf.mono (by decide))).trans hserved.frame⟩
    rw [hserved.window, hf.agent (by decide), hx.begins.agent]
  by_cases hsend : rest ≠ [] ∧ s.line.link = .up ∧ s.part.noticeTag ≠ 0
  · obtain ⟨hne, hup, h0⟩ := hsend
    obtain ⟨x, more, rfl⟩ := List.exists_cons_of_ne_nil hne
    have hopen : (u.acknowledge lost).noticesOpen = true :=
      noticesOpen_iff.2 ⟨hlink.trans hup, by rw [htag]; exact h0⟩
    obtain ⟨htn, hnotifies⟩ := hx.notifies hcarry hc hf (by decide) (fun p _ _ => hattempt p) (by rw [hcn])
      (by rw [hcn]) (by rw [hcn]; exact hqueued) hopen
    rw [hcn] at htn hnotifies
    rw [hj] at hnotifies
    refine ⟨hanswered (by rw [htn]; rfl), hrest.1, hrest.2.1, hrest.2.2, fun hno => ?_, fun x' more' he _ _ => ?_⟩
    · rcases hno with hnil | hdown | hzero
      · cases hnil
      · exact absurd hup hdown
      · exact absurd hzero h0
    · obtain ⟨rfl, rfl⟩ := List.cons.inj he
      exact ⟨htn, hnotifies⟩
  · have hno : (u.acknowledge lost).firstSendReady = false := by
      refine Bool.eq_false_iff.2 fun hready => hsend ?_
      obtain ⟨⟨hup, h0⟩, hne, -⟩ := firstSendReady_iff.1 hready
      rw [hcn] at hne
      exact ⟨hne, hlink.symm.trans hup, by rw [← htag]; exact h0⟩
    obtain ⟨-, hkeep⟩ := hx.served_closed hcarry hc (by rw [hcn]; exact nofun) hno fun p _ _ => hattempt p
    have htn := (hkeep (by rw [hcn])).trans hcn
    exact ⟨hanswered (by rw [htn]), hrest.1, hrest.2.1, hrest.2.2, fun _ => htn,
      fun x more he hup h0 => absurd ⟨by rw [he]; exact nofun, hup, h0⟩ hsend⟩

/-- The answer of an APPEND that is judged DONE. -/
theorem Executes.appends (hx : Executes w s t h kind q u k r body) {a b : RecordIx}
    (hj : s.judge q = .done (.append a b)) (ht : TablesOk s) :
    KeepsLimits s t ∧ KeepsNotices s t ∧ t.agent.window = touched h.controller.val s.agent.window ∧
      Answered w [] s t h kind .done (octets2 (BitVec.ofNat 16
        ((List.range 256).filter fun i => decide (s.runtime i = .exhausted a)).length)) ∧
      t.metering = (s.appendRecord a b).metering ∧ ChangesOnly (answerBlocks ++ [.metering]) s t := by
  have hu := hx.begins.frame
  have humetering := hu.metering (by decide)
  have hf : ChangesOnly [.metering] u (u.appendRecord a b) := (lawful_appendRecord a b).frame
  obtain ⟨hans, hwin, hnot, hlim, hframe, hall⟩ :=
    hx.served_done hj rfl rfl (carriesOut_of_frame hx.begins.stores hf (by decide)) hf (by decide)
  have hkeeps : KeepsLimits s (u.appendRecord a b) := .of_queues ((hf.queues (by decide)).trans (hu.queues (by decide)))
  refine ⟨hkeeps.trans hlim, hnot, hwin, ?_, (hframe.metering (by decide)).trans (appendRecord_metering humetering a b),
    hall⟩
  rwa [show u.revived a = s.revived a by rw [revived, revived, humetering], revived_eq ht] at hans

end Found

end State

open State in
/-- Settles O53: an APPEND writes the tail and the runtimes EXHAUSTED there; an acknowledged record leaves the queue,
and what is then the oldest is sent behind the reply where sending is open. -/
theorem appendAndAcknowledge : Obligations.AppendAndAcknowledge := by
  refine ⟨fun turn h tail new s ha ht => ?_, fun turn h sequence s ha hok => ?_⟩
  · obtain ⟨hrange, hfit⟩ := judge_append s h.controller h.number (a := tail.toNat) (b := new.toNat)
    by_cases hbig : 1024 ≤ tail.toNat ∨ 1024 ≤ new.toNat
    · have hj := hrange hbig
      obtain ⟨t, u, k, r, body, hexec, hx, -⟩ := exec_executes ha rfl rfl
        (cellsFor_reply_le (by rw [hj]; exact Nat.zero_le _) (by decide))
      obtain ⟨hans, hwin, hlim, hnot, hframe⟩ := hx.served_refuse hj
      exact ⟨t, hexec, hlim, hnot, hwin, fun _ => ⟨hans, hframe⟩, fun a b ha hb => by omega⟩
    · obtain ⟨a, ha'⟩ : ∃ a : RecordIx, a.val = tail.toNat := ⟨⟨tail.toNat, by omega⟩, rfl⟩
      obtain ⟨b, hb'⟩ : ∃ b : RecordIx, b.val = new.toNat := ⟨⟨new.toNat, by omega⟩, rfl⟩
      have hown {a' b' : RecordIx} (h1 : a'.val = tail.toNat) (h2 : b'.val = new.toNat) : a' = a ∧ b' = b :=
        ⟨Fin.ext (h1.trans ha'.symm), Fin.ext (h2.trans hb'.symm)⟩
      obtain ⟨hrefused, hdone⟩ := hfit a b ha' hb'
      by_cases hnext : (s.record a).next = none
      · have hj := hdone hnext
        obtain ⟨t, u, k, r, body, hexec, hx, -⟩ := exec_executes ha rfl rfl
          (cellsFor_reply_le (by rw [hj]; exact Nat.le_refl _) (by decide))
        obtain ⟨hlim, hnot, hwin, hans, hmetering, hall⟩ := hx.appends hj ht
        refine ⟨t, hexec, hlim, hnot, hwin, fun hno => absurd hno hbig, fun a' b' h1 h2 => ?_⟩
        obtain ⟨rfl, rfl⟩ := hown h1 h2
        refine ⟨fun hne => absurd hnext hne, fun _ => ⟨hans, ?_, fun q hq => ?_, fun i => ?_, ?_, hall⟩⟩
        · rw [record_of_metering hmetering]
          exact (appendRecord_record a' b').1
        · rw [record_of_metering hmetering]
          exact (appendRecord_record a' b').2 q hq
        · rw [runtime_of_metering hmetering, appendRecord_runtime, loaded_setNext, Runtime.exhaustedAt_eq]
          simp only [decide_eq_true_eq]
          rfl
        · rw [hmetering]
          rfl
      · have hj := hrefused hnext
        obtain ⟨t, u, k, r, body, hexec, hx, -⟩ := exec_executes ha rfl rfl
          (cellsFor_reply_le (by rw [hj]; exact Nat.zero_le _) (by decide))
        obtain ⟨hans, hwin, hlim, hnot, hframe⟩ := hx.served_refuse hj
        refine ⟨t, hexec, hlim, hnot, hwin, fun hno => absurd hno hbig, fun a' b' h1 h2 => ?_⟩
        obtain ⟨rfl, rfl⟩ := hown h1 h2
        exact ⟨fun _ => ⟨hans, hframe⟩, fun hno => absurd hno hnext⟩
  · cases hack : s.acknowledged sequence with
    | none =>
      have hj : s.judge ⟨h.controller, h.number, .acknowledge sequence⟩ = .refuse .notFound := by simp [judge, hack]
      obtain ⟨t, u, k, r, body, hexec, hx, -⟩ := exec_executes ha rfl rfl (by rw [hj]; exact Nat.le_refl _)
      obtain ⟨hans, hwin, hlim, hnot, hframe⟩ := hx.served_refuse hj
      refine ⟨t, hexec, hlim, hwin, hframe, fun _ => ⟨hans, hnot⟩, fun n k lost rest hr => ?_⟩
      rw [acknowledged_of_records hr] at hack
      cases hack
    | some lost =>
      obtain ⟨n, m, rest, hr⟩ := acknowledged_some hack
      have hqueued : ∀ y ∈ rest, y.state = .queued := by
        have := hok.2.1
        rwa [hr] at this
      have hj : s.judge ⟨h.controller, h.number, .acknowledge sequence⟩ = .done (.acknowledge lost) := by
        simp [judge, hack]
      obtain ⟨t, u, k, r, body, hexec, hx, -⟩ := exec_executes ha rfl rfl (by rw [hj]; exact Nat.le_refl _)
      obtain ⟨hans, hlim, hwin, hframe, hclosed, hopen⟩ := hx.acknowledges hj hr hqueued
      have hmem : { notice := n, state := .sent sequence m lost } ∈ s.notices.records := by simp [hr]
      refine ⟨t, hexec, hlim, hwin, hframe, fun hno => absurd rfl (hno _ hmem _ _ _ rfl),
        fun n' m' lost' rest' hr' => ?_⟩
      obtain ⟨he, rfl⟩ := List.cons.inj (hr.symm.trans hr')
      obtain ⟨rfl, hst⟩ := NoticeRecord.mk.inj he
      obtain ⟨-, rfl, rfl⟩ := NoticeState.sent.inj hst
      exact ⟨hans, hclosed, hopen⟩

end Sys2Proof.Machine
end

section
/-! PROOFS. WRITE_PART: the period, the notice tag, and the notice queue that follows it (O52). -/

namespace Sys2Proof.Machine
namespace State

variable {s t u c : State}

/-! ## What a written PART entry leaves (R164) -/

theorem changesOnly_syncTimer : ChangesOnly [.notices] s s.syncTimer := by
  unfold syncTimer
  split
  · exact .refl ..
  · split
    · exact .refl ..
    · exact changesOnly_withNotices _
  · split
    · exact changesOnly_withNotices _
    · exact .refl ..

/-- The resend timer as the link and a notice tag ask (R184). -/
def syncedTimer (s : State) (tag : Tag) : ResendTimer :=
  match s.notices.timer with
  | .stopped => .stopped
  | .running e => if s.line.link = .up ∧ tag ≠ 0 then .running e else .held e
  | .held e => if s.line.link = .up ∧ tag ≠ 0 then .running e else .held e

theorem withNotices_timer {x : ResendTimer} (h : s.notices.timer = x) : s.notices = { s.notices with timer := x } := by
  rw [← h]

theorem syncedTimer_of_stopped (h : s.notices.timer = .stopped) (tag : Tag) : s.syncedTimer tag = .stopped := by
  rw [syncedTimer, h]

theorem syncedTimer_of_counting {e : Nat} (h : s.notices.timer = .running e ∨ s.notices.timer = .held e) (tag : Tag) :
    s.syncedTimer tag = if s.line.link = .up ∧ tag ≠ 0 then .running e else .held e := by
  rcases h with h | h
  · rw [syncedTimer, h]
  · rw [syncedTimer, h]

theorem syncTimer_notices : s.syncTimer.notices = { s.notices with timer := s.syncedTimer s.part.noticeTag } := by
  cases ht : s.notices.timer with
  | stopped => rw [syncTimer_of_stopped ht, syncedTimer_of_stopped ht, ← withNotices_timer ht]
  | running e =>
    rw [syncedTimer_of_counting (.inl ht)]
    cases ho : s.noticesOpen with
    | true => rw [syncTimer_of_running ht ho, if_pos (noticesOpen_iff.1 ho), ← withNotices_timer ht]
    | false =>
      rw [syncTimer_of_running_closed ht ho, if_neg fun h => Bool.eq_false_iff.1 ho (noticesOpen_iff.2 h)]
      rfl
  | held e =>
    rw [syncedTimer_of_counting (.inr ht)]
    cases ho : s.noticesOpen with
    | true =>
      rw [syncTimer_of_held ht ho, if_pos (noticesOpen_iff.1 ho)]
      rfl
    | false =>
      rw [syncTimer_of_held_closed ht ho, if_neg fun h => Bool.eq_false_iff.1 ho (noticesOpen_iff.2 h),
        ← withNotices_timer ht]

theorem writePart_spec (period : BitVec 16) (tag : Tag) :
    ChangesOnly [.part, .metering, .notices] s (s.writePart period tag) ∧
    (s.writePart period tag).part = { s.part with epochPeriod := period, noticeTag := tag } ∧
    (s.writePart period tag).metering = { s.metering with epochElapsed := 0 } ∧
    (s.writePart period tag).notices = { s.notices with timer := s.syncedTimer tag } := by
  let v := (s.withPart { s.part with epochPeriod := period, noticeTag := tag }).withMetering
    { s.metering with epochElapsed := 0 }
  have hv : ChangesOnly [.part, .metering] s v := by simp [ChangesOnly, v]
  have hsync : ChangesOnly [.notices] v v.syncTimer := changesOnly_syncTimer
  exact ⟨(hv.mono (by decide)).trans (hsync.mono (by decide)), hsync.part (by decide), hsync.metering (by decide),
    syncTimer_notices (s := v)⟩

/-! ## The answer -/

section Serve

variable {w : Turn} {gone : List Nat} {h : ReqHeader} {kind : Byte} {q : Request} {k r : Nat} {body payload : List Byte}
  (hx : Executes w s t h kind q u k r body) (hcarry : u.carryVerdict (.fresh q (s.judge q)) = (c, payload))
  (hc : CarriesOut gone u c r)
include hx hcarry hc

/-- A claim that is pending at the end was not granted at the release of the request, which is FREE. -/
theorem Executes.freed_of_pending (hp : t.notices.pending = true) : t.handle? k = none := by
  have hj := joined_answer (body := body) (v := .fresh q (s.judge q)) hc.grows.stores (hx.building hcarry hc)
  have heq := hx.eq.trans (answer_octets hcarry)
  generalize c.replied (.fresh q (s.judge q)) (octetAt body 4) r (c.replyBody body (.fresh q (s.judge q)) payload) = p
    at hj heq
  obtain ⟨hgrows, -⟩ := grows_noticesAfterReply hj.stores u.part.noticeTag (.fresh q (s.judge q))
  obtain ⟨-, -, -, hfreed, hkeeps, -⟩ := releaseRequest_spec hgrows.stores k
  rw [← heq] at hfreed hkeeps
  cases hp' : (p.noticesAfterReply u.part.noticeTag (.fresh q (s.judge q))).notices.pending with
  | true => exact hfreed (hp.trans hp'.symm)
  | false =>
    rw [hkeeps hp', hp'] at hp
    cases hp

theorem Executes.answered (hfreed : t.notices = s.notices → t.handle? k = none) :
    Answered w gone s t h kind (s.judge q).status payload := by
  have hserved := hx.served hcarry hc
  refine ⟨hserved.records, hserved.replies, hserved.answerFrame, fun hn x hxa => ?_⟩
  obtain ⟨hasked, -⟩ | ⟨hasked, -⟩ := hx.begins.asked
  · rw [hasked] at hxa
    cases hxa
  · rw [hasked, List.mem_singleton] at hxa
    exact hxa ▸ hfreed hn

/-- The answer of a request after whose reply the notice queue does not act. -/
theorem Executes.served_still (hp : c.notices.pending = false)
    (hq : ∀ p : State, p.notices = c.notices → p.part = c.part → p.line.link = c.line.link →
      p.noticesAfterReply u.part.noticeTag (.fresh q (s.judge q)) = p) :
    Answered w gone s t h kind (s.judge q).status payload ∧ t.notices = c.notices := by
  have hj := joined_answer (body := body) (v := .fresh q (s.judge q)) hc.grows.stores (hx.building hcarry hc)
  obtain ⟨hans, hkeep⟩ := hx.served_quiet hcarry hc (by rw [hp]; exact nofun)
    (hq _ (hj.frame.notices (by decide)) (hj.frame.part (by decide)) (by rw [hj.line]; rfl))
  exact ⟨hans, hkeep hp⟩

end Serve

/-- The notice queue after a reply to a WRITE of the PART entry (R184). -/
theorem noticesAfterReply_part {p : State} {before : Tag} {q : Request} {first : Nat} {l : List (BitVec 16 × Tag)} :
    p.noticesAfterReply before (.fresh q (.done (.write first (.parts l)))) =
      if before = 0 ∧ p.part.noticeTag ≠ 0 then p.noticeResume else p := rfl

theorem noticesAfterReply_part_still {p : State} {before : Tag} {q : Request} {first : Nat}
    {l : List (BitVec 16 × Tag)} (hp : p.notices.pending = false) (hready : p.firstSendReady = false) :
    p.noticesAfterReply before (.fresh q (.done (.write first (.parts l)))) = p := by
  rw [noticesAfterReply_part]
  split
  · rw [noticeResume_of_not_pending hp, noticeAttempt_of_not_ready (by rw [hready]; exact nofun)]
  · rfl

theorem firstSendReady_congr (hn : t.notices = s.notices) (hl : t.line.link = s.line.link) (hp : t.part = s.part) :
    t.firstSendReady = s.firstSendReady := by
  rw [firstSendReady, hn, noticesOpen_congr hl (by rw [hp]), ← firstSendReady]

/-- A timer that counts or is held stands beside a SENT record (R180). -/
theorem headSent_of_timer (hok : NoticesOk s) (ht : s.notices.timer ≠ .stopped) : s.notices.headSent 4 := by
  obtain ⟨-, -, -, -, htimer, -⟩ := hok
  cases hk : s.notices.timer with
  | stopped => exact absurd hk ht
  | running k =>
    simp only [hk] at htimer
    exact htimer.1
  | held k =>
    simp only [hk] at htimer
    exact htimer.1

theorem firstSendReady_of_headSent {m : Nat} (h : s.notices.headSent m) : s.firstSendReady = false := by
  obtain ⟨n, q, k, lost, rest, hr, -⟩ := h
  exact firstSendReady_of_sent (by rw [hr]; rfl)

/-- A first send that a new notice tag makes possible was not possible with the tag before (R177, R184). -/
theorem noticeTag_eq_zero (hok : NoticesOk s) (hp : s.notices.pending = false) (ht : s.notices.timer = .stopped)
    (hr : s.notices.records ≠ []) (hup : s.line.link = .up) :
    s.part.noticeTag = 0 ∧ ∀ y ∈ s.notices.records, y.state = .queued := by
  obtain ⟨-, -, -, -, htimer, hready⟩ := hok
  simp only [ht] at htimer
  have hqueued := htimer.1 hp
  refine ⟨Classical.byContradiction fun h0 => ?_, hqueued⟩
  rw [firstSendReady_iff.2 ⟨⟨hup, h0⟩, hr, hqueued, hp⟩] at hready
  cases hready

section Write

variable {w : Turn} {h : ReqHeader} {kind : Byte} {q : Request} {k r : Nat} {body : List Byte} {first : Nat}
  {period : BitVec 16} {tag : Tag}

/-- What the answer of a WRITE of the PART entry leaves, whatever the notice queue does. -/
theorem Executes.writesPart (hx : Executes w s t h kind q u k r body)
    (hj : s.judge q = .done (.write first (.parts [(period, tag)]))) :
    let c := u.writePart period tag
    u.carryVerdict (.fresh q (s.judge q)) = (c, []) ∧ CarriesOut [] u c r ∧
    ChangesOnly [.part, .metering, .notices] u c ∧ c.line = s.line ∧
    c.notices = { s.notices with timer := s.syncedTimer tag } ∧ c.part.noticeTag = tag ∧
    KeepsLimits s t ∧ t.agent.window = touched h.controller.val s.agent.window ∧
    t.part = { s.part with epochPeriod := period, noticeTag := tag } ∧
    t.metering = { s.metering with epochElapsed := 0 } ∧ ChangesOnly (answerBlocks ++ [.part, .metering]) s t := by
  intro c
  have hu := hx.begins.frame
  obtain ⟨hf, hpart, hmetering, hnotices⟩ := writePart_spec (s := u) period tag
  have hcarry : u.carryVerdict (.fresh q (s.judge q)) = (c, []) := by
    rw [hj]
    rfl
  have hc : CarriesOut [] u c r := ⟨.of_buf hf (by decide) hx.begins.stores,
    fun _ hb => hb.congr (handle?_of_buf (hf.buf (by decide)) r),
    by rw [hf.agent (by decide)], by rw [hf.agent (by decide)], by rw [hpart]⟩
  have hserved := hx.served hcarry hc
  have hline : u.line = s.line := hu.line (by decide)
  have hun : u.notices = s.notices := hu.notices (by decide)
  refine ⟨hcarry, hc, hf, (hf.line (by decide)).trans hline, ?_, by rw [hpart], ?_, ?_, ?_, ?_, ?_⟩
  · rw [hnotices, hun, syncedTimer, syncedTimer, hun, hline]
  · exact (KeepsLimits.of_queues ((hf.queues (by decide)).trans (hu.queues (by decide)))).trans hserved.limits
  · rw [hserved.window, hf.agent (by decide), hx.begins.agent]
  · rw [hserved.frame.part (by decide), hpart, hu.part (by decide)]
  · rw [hserved.frame.metering (by decide), hmetering, hu.metering (by decide)]
  · exact ((hu.mono (by decide)).trans (hf.mono (by decide))).trans (hserved.frame.mono (by decide))

/-- A WRITE of the PART entry that leaves no first send open. -/
theorem Executes.writesPart_still (hx : Executes w s t h kind q u k r body)
    (hj : s.judge q = .done (.write first (.parts [(period, tag)]))) (hp : s.notices.pending = false)
    (hready : (s.notices.headSent 4) ∨ s.line.link ≠ .up ∨ tag = 0 ∨ s.notices.records = []) :
    Answered w [] s t h kind .done [] ∧ t.notices = { s.notices with timer := s.syncedTimer tag } := by
  obtain ⟨hcarry, hc, hf, hline, hnotices, htag, -⟩ := hx.writesPart hj
  have hclosed : (u.writePart period tag).firstSendReady = false := by
    refine Bool.eq_false_iff.2 fun ho => ?_
    obtain ⟨⟨hup, h0⟩, hne, hqueued, -⟩ := firstSendReady_iff.1 ho
    rw [hline] at hup
    rw [htag] at h0
    rw [hnotices] at hne hqueued
    rcases hready with ⟨n, q, m, lost, rest, hr, -⟩ | hdown | hzero | hnil
    · cases hqueued _ (by rw [hr]; exact List.mem_cons_self)
    · exact hdown hup
    · exact h0 hzero
    · exact hne hnil
  have hstill := hx.served_still hcarry hc (by rw [hnotices]; exact hp) fun p hpn hpp hpl => by
    rw [hj]
    exact noticesAfterReply_part_still (by rw [hpn, hnotices]; exact hp)
      ((firstSendReady_congr hpn hpl hpp).trans hclosed)
  rw [hj, hnotices] at hstill
  exact hstill

/-- A WRITE of the PART entry whose notice tag lets the oldest record be sent. -/
theorem Executes.writesPart_sends (hx : Executes w s t h kind q u k r body)
    (hj : s.judge q = .done (.write first (.parts [(period, tag)]))) (hok : NoticesOk s)
    (hp : s.notices.pending = false) (ht : s.notices.timer = .stopped) (hup : s.line.link = .up) (h0 : tag ≠ 0)
    {n : NoticeRecord} {rest : List NoticeRecord} (hr : s.notices.records = n :: rest) :
    Answered w [] s t h kind .done [] ∧
    t.notices = { s.notices with
      records := { n with state := .sent s.notices.counter 1 (BitVec.ofNat 8 s.notices.lost) } :: rest
      counter := s.notices.counter + 1, timer := .running 0 } ∧
    RepliesThenNotifies w s t (s.replyOctets h kind .done false [])
      (t.noticeFrame n.notice s.notices.counter 1 (BitVec.ofNat 8 s.notices.lost)) := by
  obtain ⟨hcarry, hc, hf, hline, hnotices, htag, -⟩ := hx.writesPart hj
  obtain ⟨hzero, hqueued⟩ := noticeTag_eq_zero hok hp ht (by rw [hr]; exact nofun) hup
  have hbefore : u.part.noticeTag = 0 := by rw [hx.begins.frame.part (by decide), hzero]
  obtain ⟨htn, hnotifies⟩ := hx.notifies hcarry hc hf (by decide)
    (fun p hpn hpp => by
      rw [hj, noticesAfterReply_part, if_pos ⟨hbefore, by rw [hpp, htag]; exact h0⟩, noticeResume_of_not_pending]
      rw [hpn, hnotices]
      exact hp)
    (by rw [hnotices]; exact hr) (by rw [hnotices]; exact hp) (by rw [hnotices]; exact hqueued)
    (noticesOpen_iff.2 ⟨by rw [hline]; exact hup, by rw [htag]; exact h0⟩)
  rw [hj] at hnotifies
  simp only [hnotices] at htn hnotifies
  have hans := hx.answered hcarry hc fun hn => by
    have htimer := congrArg NoticeQueue.timer (htn.symm.trans hn)
    rw [ht] at htimer
    cases htimer
  rw [hj] at hans
  exact ⟨hans, by simp [htn, hp], hnotifies⟩

/-- A WRITE of the PART entry is answered whatever the notice queue does. -/
theorem Executes.writesPart_answered (hx : Executes w s t h kind q u k r body)
    (hj : s.judge q = .done (.write first (.parts [(period, tag)]))) (hok : NoticesOk s) :
    Answered w [] s t h kind .done [] := by
  cases hp : s.notices.pending with
  | true =>
    obtain ⟨hcarry, hc, -⟩ := hx.writesPart hj
    have hans := hx.answered hcarry hc fun hn => hx.freed_of_pending hcarry hc (by rw [hn, hp])
    rwa [hj] at hans
  | false =>
    by_cases hready : (s.notices.headSent 4) ∨ s.line.link ≠ .up ∨ tag = 0 ∨ s.notices.records = []
    · exact (hx.writesPart_still hj hp hready).1
    · obtain ⟨hhead, hup, h0, hne⟩ : ¬ s.notices.headSent 4 ∧ s.line.link = .up ∧ tag ≠ 0 ∧ s.notices.records ≠ [] := by
        simpa [not_or] using hready
      have ht : s.notices.timer = .stopped :=
        Classical.byContradiction fun ht => hhead (headSent_of_timer hok ht)
      obtain ⟨n, rest, hr⟩ := List.exists_cons_of_ne_nil hne
      exact (hx.writesPart_sends hj hok hp ht hup h0 hr).1

end Write
end State

open State in
/-- Settles O52: the PART entry, the epoch timer and the resend timer are written before the reply; what the notice
queue then sends stands behind it. -/
theorem writePartSetsPeriodAndTag : Obligations.WritePartSetsPeriodAndTag := by
  intro turn h offset count e more s base ha hok hheld hr
  have hone : count.toNat = 1 := by
    obtain ⟨h1, -, -, h4⟩ := hr
    have : tableEntries .part = 1 := rfl
    omega
  have hsp : Spell parsePart PartWords.octets (e :: more) count.toNat [(e.epochPeriod, e.noticeTag)] := by
    refine ⟨hone.symm, fun k v hv => ?_⟩
    cases k with
    | zero => exact ⟨e, rfl, (parsePart_octets _ _ _).trans hv⟩
    | succ k => cases hv
  obtain ⟨hj, hparse⟩ := judge_spelled h.number hheld (by decide) hr (fun _ => rfl) hsp
  simp only [validate, hparse] at hj
  obtain ⟨t, u, k, r, body, hexec, hx, -⟩ := exec_executes ha rfl rfl (by rw [hj]; exact Nat.le_refl _)
  obtain ⟨-, -, -, -, -, -, hlim, hwin, hpart, hmetering, hframe⟩ := hx.writesPart hj
  refine ⟨t, hexec, hx.writesPart_answered hj hok, hlim, hwin, hpart, hmetering, fun hp => ?_, hframe⟩
  refine ⟨fun m hm => ?_, fun m hm => ?_, fun hm hno => ?_, fun n rest hm hup h0 hrec => ?_⟩
  · obtain ⟨-, htn⟩ := hx.writesPart_still hj hp (.inl (headSent_of_timer hok (by rw [hm]; exact nofun)))
    obtain ⟨-, -, -, -, htimer, -⟩ := hok
    simp only [hm] at htimer
    obtain ⟨hup, -⟩ := noticesOpen_iff.1 htimer.2.2
    rw [htn, syncedTimer_of_counting (.inl hm)]
    by_cases h0 : e.noticeTag = 0
    · rw [if_neg fun h => h.2 h0, if_pos h0]
    · rw [if_pos ⟨hup, h0⟩, if_neg h0]
  · obtain ⟨-, htn⟩ := hx.writesPart_still hj hp (.inl (headSent_of_timer hok (by rw [hm]; exact nofun)))
    rw [htn, syncedTimer_of_counting (.inr hm)]
  · obtain ⟨-, htn⟩ := hx.writesPart_still hj hp (.inr hno)
    rw [htn, syncedTimer_of_stopped hm, ← withNotices_timer hm]
  · obtain ⟨-, htn, hnotifies⟩ := hx.writesPart_sends hj hok hp hm hup h0 hrec
    exact ⟨htn, hnotifies⟩

end Sys2Proof.Machine
end

section
/-! PROOFS. Frames flushed within an answer: the discards one after the other, with the retries of a refused notice
claim between them (R20, R53, R54). -/

namespace Sys2Proof.Machine

/-! ## Frames that keep what a flush and a reply read of them -/

/-- The fields of a frame that no selection changes. -/
def Handle.core (x : Handle) : Option StreamIx × Tier × List Nat × Nat := (x.stream, x.tier, x.chain, x.bodyLength)

/-- Every held handle but those in `l` stays held with its stream, tier, chain and body length. -/
def Steady (l : List Nat) (s t : State) : Prop :=
  ∀ k x, k ∉ l → s.handle? k = some x → ∃ y, t.handle? k = some y ∧ y.core = x.core

namespace Steady

variable {l l' : List Nat} {s t u : State}

theorem of_keeps (h : KeepsHandles l s t) : Steady l s t := fun k x hk hx => ⟨x, (h k hk).trans hx, rfl⟩

theorem of_buf (h : t.buf = s.buf) : Steady l s t := of_keeps fun k _ => State.handle?_of_buf h k

theorem mono (h : Steady l s t) (hl : l ⊆ l') : Steady l' s t := fun k x hk => h k x fun hk' => hk (hl hk')

theorem trans (h : Steady l s t) (g : Steady l' t u) : Steady (l ++ l') s u := by
  intro k x hk hx
  rw [List.mem_append, not_or] at hk
  obtain ⟨y, hy, hyx⟩ := h k x hk.1 hx
  obtain ⟨z, hz, hzy⟩ := g k y hk.2 hy
  exact ⟨z, hz, hzy.trans hyx⟩

theorem streamOf (h : Steady l s t) {k : Nat} (hk : k ∉ l) (hheld : ∃ x, s.handle? k = some x) :
    t.streamOf k = s.streamOf k := by
  obtain ⟨x, hx⟩ := hheld
  obtain ⟨y, hy, hyx⟩ := h k x hk hx
  rw [State.streamOf, State.streamOf, hx, hy]
  exact congrArg Prod.fst hyx

theorem building (h : Steady l s t) {k n : Nat} (hk : k ∉ l) (hb : s.Building k n) : t.Building k n := by
  obtain ⟨x, hx, htier, hlen, hchain⟩ := hb
  obtain ⟨y, hy, hyx⟩ := h k x hk hx
  simp only [Handle.core, Prod.mk.injEq] at hyx
  obtain ⟨-, ht, hc, hl⟩ := hyx
  exact ⟨y, hy, ht.trans htier, hl.trans hlen, by rw [hc, hchain]⟩

end Steady

namespace State

variable {s t u : State}

theorem steady_modHandle {l : List Nat} (h : Nat) {f : Handle → Handle} (hf : ∀ x, (f x).core = x.core) :
    Steady l s (s.modHandle h f) := by
  intro k x _ hx
  by_cases hk : k = h
  · subst hk
    exact ⟨f x, modHandle_handle?_self s f hx, hf x⟩
  · exact ⟨x, (modHandle_handle?_other s f hk).trans hx, rfl⟩

/-- A selection changes the holder of the frame it takes, and its resume hold. -/
theorem steady_select : Steady [] s s.select := by
  obtain ⟨q, h, rest, hm, -, -, he⟩ | ⟨top, below, -, he⟩ | ⟨-, -, he⟩ := select_cases s
  · rw [he]
    cases hr : s.handle? h with
    | none =>
      rw [openHead_of_free hm hr]
      exact .of_buf rfl
    | some r =>
      obtain ⟨hself, hother, -⟩ := openHead_spec hm hr
      intro k x _ hx
      by_cases hk : k = h
      · subst hk
        obtain rfl := Option.some.inj (hr.symm.trans hx)
        exact ⟨_, hself, rfl⟩
      · exact ⟨x, (hother k hk).trans hx, rfl⟩
  · rw [he]
    cases hr : s.handle? top with
    | none =>
      rw [resumeTop_of_free hr]
      exact .of_buf rfl
    | some r =>
      obtain ⟨hself, hother, -⟩ := resumeTop_spec (rest := below) hr
      intro k x _ hx
      by_cases hk : k = top
      · subst hk
        obtain rfl := Option.some.inj (hr.symm.trans hx)
        exact ⟨_, hself, rfl⟩
      · exact ⟨x, (hother k hk).trans hx, rfl⟩
  · rw [he]
    have hframe : ChangesOnly [.line] (s.withTx { s.tx with mode := .idle, active := none, fragment := none })
        s.goIdle := lawful_trunkIdle.frame
    exact .of_buf (hframe.buf (by decide))

theorem steady_joinQueue (q : Tier) (h : Nat) : Steady [] s (s.joinQueue q h) := by
  have hjoin : Steady [] s ((s.setMembers q ((s.queue q).members ++ [h])).setHolder h (.tierQueue q)) :=
    (Steady.of_buf (setMembers_buf ..)).trans (l := []) (steady_modHandle h fun _ => rfl)
  rw [joinQueue_eq]
  split
  · exact hjoin.trans steady_select
  · exact hjoin

theorem steady_sendOldest (hs : StoresOk s) (q : Byte) (k : Nat) (l c : Byte) : Steady [] s (s.sendOldest q k l c) := by
  cases hr : s.notices.records with
  | nil =>
    simp only [sendOldest, hr]
    exact .of_buf rfl
  | cons n rest =>
    by_cases hroom : 1 ≤ s.freeHandles ∧ 1 ≤ s.freeCells
    · obtain ⟨v, cells, hc, -, -, hfree, -, hother, -⟩ :=
        claimCompound_granted (n := noticeOctets) hs s.part.noticeTag hroom.1 hroom.2
      rw [sendOldest_granted hr hc]
      have hbuilt : Steady [s.lowestHandle] s ((v.withNotices { s.notices with
          records := { n with state := .sent q k l } :: rest, counter := c, pending := false
          timer := .running 0 }).storeOctets s.lowestHandle (s.noticeBody n.notice q k l)) :=
        .of_keeps fun j hj => by
          have hj' : j ≠ s.lowestHandle := fun e => hj (List.mem_singleton.2 e)
          exact (storeOctets_handle?_other _ hj').trans (hother j hj')
      intro j x _ hx
      refine (hbuilt.trans (steady_joinQueue .t0 s.lowestHandle)) j x (fun hj => ?_) hx
      rw [List.append_nil, List.mem_singleton] at hj
      rw [hj, hfree] at hx
      cases hx
    · rw [sendOldest_refused hr hroom]
      exact .of_buf rfl

theorem steady_noticeRetry (hs : StoresOk s) : Steady [] s s.noticeRetry := by
  obtain he | ⟨-, -, n, rest, q, k, l, c, -, he⟩ := noticeRetry_cases s
  · rw [he]
    exact .of_buf rfl
  · rw [he]
    exact steady_sendOldest hs q k l c

end State

/-! ## The discards of a flush -/

/-- From `s` to `t`, `n` discards are counted with one cause, those of the held frames `l` against their streams; no
other frame is lost, and a notice may have been sent only where its claim was pending. -/
structure Flushes (c : Cause) (n : Nat) (l : List Nat) (s t : State) : Prop where
  steady : Steady l s t
  count : t.discardCount c = s.discardCount c + BitVec.ofNat 32 n
  others : ∀ d, d ≠ c → t.discardCount d = s.discardCount d
  tally : ∀ i, t.tally i = { s.tally i with
    framesDiscarded := (s.tally i).framesDiscarded +
      BitVec.ofNat 32 (l.filter fun h => decide (s.streamOf h = some i)).length }
  pending : t.notices.pending = true → s.notices.pending = true
  notices : s.notices.pending = false → t.notices = s.notices
  freed : t.notices.pending = s.notices.pending → KeepsHandles l s t ∧ ∀ h ∈ l, t.handle? h = none

namespace Flushes

variable {c : Cause} {n n' : Nat} {l l' : List Nat} {s t u : State}

theorem of_eq (hb : t.buf = s.buf) (ht : t.tallies = s.tallies) (hn : t.notices = s.notices) : Flushes c 0 [] s t :=
  ⟨.of_buf hb, by rw [State.discardCount_of_tallies ht]; simp, fun d _ => State.discardCount_of_tallies ht d,
    fun i => by rw [State.tally_of_tallies ht]; simp, fun h => hn ▸ h, fun _ => hn,
    fun _ => ⟨fun k _ => State.handle?_of_buf hb k, nofun⟩⟩

/-- A count without a frame's handle. -/
theorem of_counted (hb : t.buf = s.buf) (hc : Counted s t c none) (hn : t.notices = s.notices) :
    Flushes c 1 [] s t := by
  obtain ⟨hcount, hother, htally⟩ := hc
  exact ⟨.of_buf hb, hcount, hother, fun i => (htally i).trans (by simp), fun h => hn ▸ h, fun _ => hn,
    fun _ => ⟨fun k _ => State.handle?_of_buf hb k, nofun⟩⟩

theorem of_discardQuiet (c : Cause) (h : Nat) (s : State) : Flushes c 1 [h] s (s.discardQuiet c h) := by
  obtain ⟨hcount, hother, htally⟩ : Counted s (s.discardQuiet c h) c (s.streamOf h) :=
    (State.counted_countDiscard (s := s.freeHandle h) c (s.streamOf h)).of_eq rfl
  have hkeep : KeepsHandles [h] s (s.discardQuiet c h) := fun k hk => by
    have hkh : k ≠ h := fun e => hk (List.mem_singleton.2 e)
    rw [State.discardQuiet, State.handle?_of_buf (State.countDiscard_buf ..), State.freeHandle_handle?_other s hkh]
  refine ⟨.of_keeps hkeep, hcount, hother, fun i => (htally i).trans ?_, fun hp => ?_, fun _ => ?_,
    fun _ => ⟨hkeep, ?_⟩⟩
  · by_cases hi : s.streamOf h = some i
    · simp [hi]
    · simp [hi]
  · rwa [State.discardQuiet_notices] at hp
  · exact State.discardQuiet_notices ..
  · simp only [List.mem_singleton, forall_eq]
    rw [State.discardQuiet, State.handle?_of_buf (State.countDiscard_buf ..)]
    exact State.freeHandle_handle?_self s h

theorem of_noticeRetry (c : Cause) (hs : StoresOk s) : Flushes c 0 [] s s.noticeRetry := by
  have hframe : ChangesOnly [.buf, .queues, .tx, .line, .notices] s s.noticeRetry := State.lawful_noticeRetry.frame
  have ht := hframe.tallies (by decide)
  refine ⟨State.steady_noticeRetry hs, by rw [State.discardCount_of_tallies ht]; simp,
    fun d _ => State.discardCount_of_tallies ht d, fun i => by rw [State.tally_of_tallies ht]; simp, fun hp => ?_,
    fun hp => by rw [State.noticeRetry_of_not_pending hp],
    fun hp => ⟨fun k _ => State.handle?_of_buf (State.noticeRetry_unsent hp) k, nofun⟩⟩
  cases hs : s.notices.pending with
  | true => rfl
  | false =>
    rw [State.noticeRetry_of_not_pending hs, hs] at hp
    cases hp

/-- Two flushes, of which the second takes other frames, held at the start. -/
theorem trans (h : Flushes c n l s t) (g : Flushes c n' l' t u)
    (hd : ∀ k ∈ l', k ∉ l ∧ ∃ x, s.handle? k = some x) : Flushes c (n + n') (l ++ l') s u := by
  refine ⟨h.steady.trans g.steady, ?_, fun d hne => (g.others d hne).trans (h.others d hne), fun i => ?_,
    fun hp => h.pending (g.pending hp), fun hp => ?_, fun hp => ?_⟩
  · rw [g.count, h.count, BitVec.add_assoc, ← BitVec.ofNat_add]
  · have hfilter : (l'.filter fun k => decide (t.streamOf k = some i)) =
        l'.filter fun k => decide (s.streamOf k = some i) :=
      List.filter_congr fun k hk => by rw [h.steady.streamOf (hd k hk).1 (hd k hk).2]
    rw [g.tally i, h.tally i, hfilter, List.filter_append, List.length_append, BitVec.ofNat_add, BitVec.add_assoc]
  · rw [g.notices (by rw [h.notices hp, hp]), h.notices hp]
  · have hmid : t.notices.pending = s.notices.pending := by
      cases ht : t.notices.pending with
      | true => rw [h.pending ht]
      | false => rw [← hp, g.notices ht, ht]
    obtain ⟨hkeep, hgone⟩ := h.freed hmid
    obtain ⟨gkeep, ggone⟩ := g.freed (hp.trans hmid.symm)
    refine ⟨fun k hk => ?_, fun k hk => ?_⟩
    · rw [List.mem_append, not_or] at hk
      exact (gkeep k hk.2).trans (hkeep k hk.1)
    · by_cases hk' : k ∈ l'
      · exact ggone k hk'
      · exact (gkeep k hk').trans (hgone k ((List.mem_append.1 hk).resolve_right hk'))

/-- A move before that leaves the stores, the tallies and the notice queue. -/
theorem of_start (h : Flushes c n l t u) (hb : t.buf = s.buf) (ht : t.tallies = s.tallies)
    (hn : t.notices = s.notices) : Flushes c n l s u := by
  have hheld : ∀ k x, t.handle? k = some x ↔ s.handle? k = some x := fun k x => by rw [State.handle?_of_buf hb]
  refine ⟨fun k x hk hx => h.steady k x hk ((hheld k x).2 hx), ?_, fun d hd => ?_, fun i => ?_,
    fun hp => hn ▸ h.pending hp, fun hp => (h.notices (hn ▸ hp)).trans hn, fun hp => ?_⟩
  · rw [h.count, State.discardCount_of_tallies ht]
  · rw [h.others d hd, State.discardCount_of_tallies ht]
  · rw [h.tally i, State.tally_of_tallies ht]
    simp only [State.streamOf_of_buf hb]
  · obtain ⟨hkeep, hgone⟩ := h.freed (hn ▸ hp)
    exact ⟨fun k hk => (hkeep k hk).trans (State.handle?_of_buf hb k), hgone⟩

/-- A move after that leaves the stores, the tallies and the notice queue. -/
theorem of_end (h : Flushes c n l s t) (hb : u.buf = t.buf) (ht : u.tallies = t.tallies)
    (hn : u.notices = t.notices) : Flushes c n l s u := by
  have := h.trans (of_eq (c := c) hb ht hn) nofun
  rwa [List.append_nil] at this

end Flushes

namespace State

variable {s t u : State}

/-- One frame of a flush. -/
def flushFrame (s : State) (c : Cause) (retry : Bool) (h : Nat) : State :=
  if retry then (s.discardQuiet c h).noticeRetry else s.discardQuiet c h

theorem flushFrames_cons (c : Cause) (retry : Bool) (h : Nat) (l : List Nat) :
    s.flushFrames c retry (h :: l) = (s.flushFrame c retry h).flushFrames c retry l := rfl

theorem flushes_flushFrame (c : Cause) (retry : Bool) (h : Nat) (hs : StoresOk s) :
    Flushes c 1 [h] s (s.flushFrame c retry h) := by
  cases retry with
  | false => exact .of_discardQuiet c h s
  | true =>
    have hretry := Flushes.of_noticeRetry c ((lawful_discardQuiet c h).stores hs)
    exact (Flushes.of_discardQuiet c h s).trans hretry nofun

theorem grows_discardQuiet (c : Cause) (h : Nat) (hs : StoresOk s) :
    Grows [h] s (s.discardQuiet c h) ∧ KeepsLimits s (s.discardQuiet c h) := by
  have hframe : ChangesOnly [.buf, .tallies] s (s.discardQuiet c h) := (lawful_discardQuiet c h).frame
  refine ⟨.of_frame hframe (by decide) ((lawful_discardQuiet c h).stores hs) (((Flushes.of_discardQuiet c h s).freed
    (by rw [discardQuiet_notices])).1) ?_, .of_queues (hframe.queues (by decide))⟩
  rw [discardQuiet, countDiscard_buf]
  rfl

theorem grows_flushFrame (c : Cause) (retry : Bool) (h : Nat) (hs : StoresOk s) :
    Grows [h] s (s.flushFrame c retry h) ∧ KeepsLimits s (s.flushFrame c retry h) := by
  obtain ⟨hg, hlim⟩ := grows_discardQuiet c h hs
  cases retry with
  | false => exact ⟨hg, hlim⟩
  | true =>
    obtain ⟨hg', hlim'⟩ := grows_noticeRetry hg.stores
    exact ⟨hg.trans (hg'.mono (List.nil_subset _)), hlim.trans hlim'⟩

/-- The frames of a list, held and distinct, are flushed (R20, R53). -/
theorem flushes_flushFrames (c : Cause) (retry : Bool) {l : List Nat} (hs : StoresOk s) (hl : l.Nodup)
    (hheld : ∀ h ∈ l, ∃ x, s.handle? h = some x) : Flushes c l.length l s (s.flushFrames c retry l) := by
  induction l generalizing s with
  | nil => exact .of_eq rfl rfl rfl
  | cons h l ih =>
    obtain ⟨hh, hl⟩ := List.nodup_cons.1 hl
    have hstep := flushes_flushFrame c retry h hs
    have hother : ∀ k ∈ l, k ∉ [h] ∧ ∃ x, s.handle? k = some x := fun k hk =>
      ⟨fun e => hh (List.mem_singleton.1 e ▸ hk), hheld k (List.mem_cons_of_mem _ hk)⟩
    have hrest := ih (grows_flushFrame c retry h hs).1.stores hl fun k hk => by
      obtain ⟨hne, x, hx⟩ := hother k hk
      obtain ⟨y, hy, -⟩ := hstep.steady k x hne hx
      exact ⟨y, hy⟩
    rw [flushFrames_cons, List.length_cons, Nat.add_comm]
    exact hstep.trans hrest hother

theorem grows_flushFrames (c : Cause) (retry : Bool) (l : List Nat) (hs : StoresOk s) :
    Grows l s (s.flushFrames c retry l) ∧ KeepsLimits s (s.flushFrames c retry l) := by
  induction l generalizing s with
  | nil => exact ⟨.refl [] hs, fun _ => rfl⟩
  | cons h l ih =>
    obtain ⟨hg, hlim⟩ := grows_flushFrame c retry h hs
    obtain ⟨hg', hlim'⟩ := ih hg.stores
    rw [flushFrames_cons]
    exact ⟨(hg.mono (by simp)).trans (hg'.mono (List.subset_cons_self ..)), hlim.trans hlim'⟩

end State
end Sys2Proof.Machine
end

section
/-! PROOFS. PORT_RESET: the frames of a port, and the answer of a request that flushes (O55). -/

namespace Sys2Proof.Machine
namespace State

variable {s t u c : State}

/-! ## The frames of a port -/

/-- The frames a port holds. -/
def portFrames (s : State) (p : Port) : List Nat := ((s.port p).members p).map Prod.fst

theorem mem_members_of_portFrames {p : Port} {x : Nat} (hx : x ∈ s.portFrames p) :
    (x, Holder.ingress p) ∈ s.members ∨ (x, Holder.egress p) ∈ s.members := by
  obtain ⟨m, hm, rfl⟩ := List.mem_map.1 hx
  rcases List.mem_append.1 hm with hm | hm
  · cases hi : (s.port p).ingress with
    | receiving h hold =>
      rw [hi] at hm
      obtain rfl := List.mem_singleton.1 hm
      exact .inl (mem_members_ingress hi)
    | idle => rw [hi] at hm; cases hm
    | tagWait o => rw [hi] at hm; cases hm
    | skipping => rw [hi] at hm; cases hm
  · obtain ⟨h, hh, rfl⟩ := List.mem_map.1 hm
    exact .inr (mem_members_egress hh)

theorem portFrames_sublist (s : State) : (allPorts.flatMap s.portFrames).Sublist (s.members.map Prod.fst) := by
  have hports : allPorts.flatMap s.portFrames = (allPorts.flatMap fun p => (s.port p).members p).map Prod.fst :=
    List.map_flatMap.symm
  rw [hports]
  refine List.Sublist.map _ ?_
  simp only [members, List.append_assoc]
  exact List.sublist_append_left ..

theorem portFrames_nodup (hh : HoldersOk s) (p : Port) : (s.portFrames p).Nodup := by
  have hone : (s.portFrames p).Sublist (allPorts.flatMap s.portFrames) := by
    simpa using (List.singleton_sublist.2 (mem_allPorts p)).flatMap s.portFrames
  exact hh.1.sublist (hone.trans (portFrames_sublist s))

/-! ## A port reset (R54) -/

/-- The frame that a port receives. -/
def ingressFrames (s : State) (p : Port) : List Nat :=
  match (s.port p).ingress with
  | .receiving x _ => [x]
  | _ => []

/-- Whether a port waits for the tag of a frame that has no handle yet. -/
def waitingFrames (s : State) (p : Port) : Nat :=
  match (s.port p).ingress with
  | .tagWait _ => 1
  | _ => 0

theorem portFrames_eq (s : State) (p : Port) : s.portFrames p = s.ingressFrames p ++ (s.port p).egress := by
  rw [portFrames, PortState.members, List.map_append, List.map_map, ingressFrames]
  refine congrArg₂ (· ++ ·) ?_ (List.map_id _)
  cases (s.port p).ingress with
  | idle => rfl
  | tagWait o => rfl
  | receiving h hold => rfl
  | skipping => rfl

/-- What one half of a port reset leaves. -/
structure PortFlush (p : Port) (n : Nat) (l : List Nat) (v : PortState) (s t : State) : Prop where
  flushes : Flushes .flush n l s t
  grows : Grows l s t
  limits : KeepsLimits s t
  port : t.port p = v
  others : KeepsPorts p s t

theorem PortFlush.trans {p : Port} {n n' : Nat} {l l' : List Nat} {v v' : PortState} (h : PortFlush p n l v s t)
    (g : PortFlush p n' l' v' t u) (hd : ∀ k ∈ l', k ∉ l ∧ ∃ x, s.handle? k = some x) :
    PortFlush p (n + n') (l ++ l') v' s u :=
  ⟨h.flushes.trans g.flushes hd,
    (h.grows.mono (List.subset_append_left ..)).trans (g.grows.mono (List.subset_append_right ..)),
    h.limits.trans g.limits, g.port, fun q hq => (g.others q hq).trans (h.others q hq)⟩

/-- A port set, and the frames it held flushed. -/
theorem portFlush_setPort (p : Port) (v : PortState) (retry : Bool) {l : List Nat} (hs : StoresOk s) (hl : l.Nodup)
    (hheld : ∀ h ∈ l, ∃ x, s.handle? h = some x) :
    PortFlush p l.length l v s ((s.setPort p v).flushFrames .flush retry l) := by
  have hset : ChangesOnly [.ports] s (s.setPort p v) := by simp [ChangesOnly]
  obtain ⟨hg, hlim⟩ := grows_flushFrames .flush retry l (s := s.setPort p v) (storesOk_of_buf hs rfl)
  have hports : ((s.setPort p v).flushFrames .flush retry l).ports = (s.setPort p v).ports :=
    (lawful_flushFrames ..).frame.ports (by decide)
  exact ⟨(flushes_flushFrames (s := s.setPort p v) .flush retry (storesOk_of_buf hs rfl) hl hheld).of_start rfl rfl rfl,
    ((Grows.of_buf hset (by decide) hs).mono (List.nil_subset _)).trans hg, (KeepsLimits.of_queues rfl).trans hlim,
    (port_of_ports hports p).trans (setPort_port_self ..),
    fun q hq => (port_of_ports hports q).trans (setPort_port_other s v hq)⟩

theorem flushIngress_spec (p : Port) (retry : Bool) (hs : StoresOk s) (hl : (s.ingressFrames p).Nodup)
    (hheld : ∀ h ∈ s.ingressFrames p, ∃ x, s.handle? h = some x) :
    PortFlush p ((s.ingressFrames p).length + s.waitingFrames p) (s.ingressFrames p)
      { s.port p with ingress := .idle } s (s.flushIngress p retry) := by
  unfold ingressFrames waitingFrames flushIngress at *
  cases hi : (s.port p).ingress with
  | idle =>
    refine ⟨.of_eq rfl rfl rfl, .refl [] hs, fun _ => rfl, ?_, fun _ _ => rfl⟩
    show s.port p = _
    rw [← hi]
  | skipping => exact portFlush_setPort (l := []) p _ retry hs .nil nofun
  | receiving h hold =>
    simp only [hi] at hl hheld
    exact portFlush_setPort (l := [h]) p _ retry hs hl hheld
  | tagWait o =>
    obtain ⟨⟨hport, hports⟩, hframe, hcount⟩ := setIngress_countDiscard_spec s p .idle .flush none
    have hbuf := hframe.buf (by decide)
    exact ⟨.of_counted hbuf hcount (hframe.notices (by decide)), .of_buf hframe (by decide) hs,
      .of_queues (hframe.queues (by decide)), hport, hports⟩

theorem flushEgress_spec (p : Port) (retry : Bool) (hs : StoresOk s) (hl : (s.port p).egress.Nodup)
    (hheld : ∀ h ∈ (s.port p).egress, ∃ x, s.handle? h = some x) :
    PortFlush p (s.port p).egress.length (s.port p).egress
      { s.port p with
        egress := []
        sent := if (s.port p).egress = [] then (s.port p).sent else (s.port p).sent ++ [.closeAbort, .idle] }
      s (s.flushEgress p retry) := by
  cases he : (s.port p).egress with
  | nil =>
    have hsame : s.flushEgress p retry = s := by rw [flushEgress, he]
    rw [hsame]
    refine ⟨.of_eq rfl rfl rfl, .refl [] hs, fun _ => rfl, ?_, fun _ _ => rfl⟩
    rw [if_pos rfl, ← he]
  | cons h rest =>
    rw [he] at hl hheld
    have hflush := portFlush_setPort p { s.port p with egress := [], sent := (s.port p).sent ++ [.closeAbort, .idle] }
      retry hs hl hheld
    have hset : (s.setPort p { s.port p with egress := [] }).sendTrib p [.closeAbort, .idle] =
        s.setPort p { s.port p with egress := [], sent := (s.port p).sent ++ [.closeAbort, .idle] } := by
      rw [sendTrib, setPort_port_self]
      simp [setPort, withPorts]
    rw [← hset] at hflush
    have heq : s.flushEgress p retry = ((s.setPort p { s.port p with egress := [] }).sendTrib p
        [.closeAbort, .idle]).flushFrames .flush retry (h :: rest) := by rw [flushEgress, he]
    rw [heq, if_neg nofun]
    exact hflush

/-- A port reset (R54), at which the notice queue may retry. -/
theorem resetPort_spec (p : Port) (retry : Bool) (hs : StoresOk s) (hl : (s.portFrames p).Nodup)
    (hheld : ∀ h ∈ s.portFrames p, ∃ x, s.handle? h = some x) :
    PortFlush p ((s.portFrames p).length + s.waitingFrames p) (s.portFrames p)
      { s.port p with
        ingress := .idle, egress := []
        sent := if (s.port p).egress = [] then (s.port p).sent else (s.port p).sent ++ [.closeAbort, .idle] }
      s (s.resetPort p retry) := by
  rw [portFrames_eq] at hl hheld ⊢
  obtain ⟨hin, hout, hdisj⟩ := List.nodup_append.1 hl
  have hfirst := flushIngress_spec p retry hs hin fun h hh => hheld h (List.mem_append_left _ hh)
  have hport := hfirst.port
  have hother : ∀ k ∈ (s.port p).egress, k ∉ s.ingressFrames p ∧ ∃ x, s.handle? k = some x := fun k hk =>
    ⟨fun hk' => hdisj k hk' k hk rfl, hheld k (List.mem_append_right _ hk)⟩
  have hegress : ((s.flushIngress p retry).port p).egress = (s.port p).egress := by rw [hport]
  have hsecond := flushEgress_spec (s := s.flushIngress p retry) p retry hfirst.grows.stores (by rwa [hegress])
    fun h hh => by
      obtain ⟨hne, x, hx⟩ := hother h (hegress ▸ hh)
      obtain ⟨y, hy, -⟩ := hfirst.flushes.steady h x hne hx
      exact ⟨y, hy⟩
  rw [hport] at hsecond
  have := hfirst.trans hsecond hother
  rwa [Nat.add_right_comm, ← List.length_append] at this

/-! ## The answer of a request that flushes frames of the ports -/

section Flush

variable {w : Turn} {h : ReqHeader} {kind : Byte} {q : Request} {k r : Nat} {body payload : List Byte}

/-- A frame that is not in the inbox is not the request, nor its reply. -/
theorem Executes.not_own (hx : Executes w s t h kind q u k r body) (hh : HoldersOk s) {x : Nat} {o : Holder}
    (hm : (x, o) ∈ s.members) (ho : o ≠ .inbox) :
    x ≠ k ∧ x ≠ r ∧ (∃ y, u.handle? x = some y) ∧ u.streamOf x = s.streamOf x := by
  obtain ⟨y, hy, hyo⟩ := hh.2.1 _ hm
  dsimp only at hy hyo
  have hk : x ≠ k := by
    rintro rfl
    obtain ⟨-, hfree⟩ | ⟨-, z, hz, hzi⟩ := hx.begins.asked
    · rw [hfree] at hy
      cases hy
    · rw [hz] at hy
      exact ho (hyo.symm.trans ((Option.some.inj hy) ▸ hzi))
  have hr : x ≠ r := by
    rintro rfl
    rw [hx.begins.fresh] at hy
    cases hy
  have hkeep : u.handle? x = s.handle? x := hx.begins.keeps x (by simp [hk, hr])
  exact ⟨hk, hr, ⟨y, hkeep.trans hy⟩, by rw [streamOf, streamOf, hkeep]⟩

/-- With no notice claim pending, a handle FREE at the reply stays FREE. -/
theorem Executes.stays_free {gone : List Nat} (hx : Executes w s t h kind q u k r body)
    (hcarry : u.carryVerdict (.fresh q (s.judge q)) = (c, payload)) (hc : CarriesOut gone u c r)
    (hwakes : (Verdict.fresh q (s.judge q)).wakes = false) (hp : c.notices.pending = false) {x : Nat}
    (hfree : c.handle? x = none) : t.handle? x = none := by
  have hj := joined_answer (body := body) (v := .fresh q (s.judge q)) hc.grows.stores (hx.building hcarry hc)
  have heq := hx.eq.trans (answer_octets hcarry)
  rw [noticesAfterReply_of_not_wakes hwakes] at heq
  generalize c.replied (.fresh q (s.judge q)) (octetAt body 4) r (c.replyBody body (.fresh q (s.judge q)) payload) = p
    at hj heq
  have hpp : p.notices.pending = false := by
    rw [hj.frame.notices (by decide)]
    exact hp
  rw [heq, releaseRequest_of_not_pending hpp]
  by_cases hk : x = k
  · rw [hk]
    exact freeHandle_handle?_self ..
  · exact (freeHandle_handle?_other _ hk).trans (hj.free x hfree)

/-- The answer of a request that flushes frames held at the ports (R20). -/
theorem Executes.served_flushes {cause : Cause} {n : Nat} {gone : List Nat} {e : Effect}
    (hx : Executes w s t h kind q u k r body) (hh : HoldersOk s) (hj : s.judge q = .done e)
    (hcarry : u.carryOut q.controller e = (c, payload)) (hwakes : (Verdict.fresh q (.done e)).wakes = false)
    (hfl : Flushes cause n gone u c) (hg : Grows gone u c) (hlim : KeepsLimits u c)
    (hf : ChangesOnly (.ports :: flushBlocks) u c)
    (hmem : ∀ x ∈ gone, ∃ p, x ∈ s.portFrames p) :
    Answered w gone s t h kind .done payload ∧ KeepsLimits s t ∧ KeepsNotices s t ∧
      t.agent.window = touched h.controller.val s.agent.window ∧ (∀ p, t.port p = c.port p) ∧
      (s.notices.pending = false → ∀ x ∈ gone, t.handle? x = none) ∧
      t.discardCount cause = s.discardCount cause + BitVec.ofNat 32 n ∧
      (∀ d, d ≠ cause → t.discardCount d = s.discardCount d) ∧
      (∀ i, t.tally i = { s.tally i with
        framesDiscarded := (s.tally i).framesDiscarded +
          BitVec.ofNat 32 (gone.filter fun x => decide (s.streamOf x = some i)).length }) ∧
      ChangesOnly (answerBlocks ++ [.ports, .tallies]) s t := by
  have hu := hx.begins.frame
  have hown : ∀ x ∈ gone, x ≠ k ∧ x ≠ r ∧ (∃ y, u.handle? x = some y) ∧ u.streamOf x = s.streamOf x := fun x hxg => by
    obtain ⟨p, hp⟩ := hmem x hxg
    rcases mem_members_of_portFrames hp with hm | hm
    · exact hx.not_own hh hm nofun
    · exact hx.not_own hh hm nofun
  have hc : CarriesOut gone u c r := ⟨hg, fun n hb => hfl.steady.building (fun hr => (hown r hr).2.1 rfl) hb,
    by rw [hf.agent (by decide)], by rw [hf.agent (by decide)], by rw [hf.part (by decide)]⟩
  have hcarry' : u.carryVerdict (.fresh q (s.judge q)) = (c, payload) := by rw [hj]; exact hcarry
  have hwakes' : (Verdict.fresh q (s.judge q)).wakes = false := by rw [hj]; exact hwakes
  have hserved := hx.served hcarry' hc
  obtain ⟨hans, hkeep⟩ := hx.served_unwoken hcarry' hc hwakes' hfl.pending
  rw [hj] at hans
  have hun : u.notices = s.notices := hu.notices (by decide)
  have hut : u.tallies = s.tallies := hu.tallies (by decide)
  have htt : t.tallies = c.tallies := hserved.frame.tallies (by decide)
  have hquiet (hp : s.notices.pending = false) : c.notices = s.notices :=
    (hfl.notices (by rw [hun]; exact hp)).trans hun
  refine ⟨hans, (KeepsLimits.of_queues (hu.queues (by decide))).trans (hlim.trans hserved.limits), fun hp => ?_, ?_,
    fun p => port_of_ports (hserved.frame.ports (by decide)) p, fun hp x hxg => ?_, ?_, fun d hd => ?_, fun i => ?_, ?_⟩
  · exact (hkeep (by rw [hquiet hp]; exact hp)).trans (hquiet hp)
  · rw [hserved.window, hf.agent (by decide), hx.begins.agent]
  · refine hx.stays_free hcarry' hc hwakes' (by rw [hquiet hp]; exact hp) ?_
    obtain ⟨-, hgone⟩ := hfl.freed (by rw [hquiet hp, hun])
    exact hgone x hxg
  · rw [discardCount_of_tallies htt, hfl.count, discardCount_of_tallies hut]
  · rw [discardCount_of_tallies htt, hfl.others d hd, discardCount_of_tallies hut]
  · have hfilter : (gone.filter fun x => decide (u.streamOf x = some i)) =
        gone.filter fun x => decide (s.streamOf x = some i) :=
      List.filter_congr fun x hxg => by rw [(hown x hxg).2.2.2]
    rw [tally_of_tallies htt, hfl.tally i, tally_of_tallies hut, hfilter]
  · exact ((hu.mono (by decide)).trans (hf.mono (by decide))).trans (hserved.frame.mono (by decide))

end Flush

theorem judge_portReset (s : State) (c : Controller) (n : Byte) (a : Nat) :
    (8 ≤ a → s.judge ⟨c, n, .portReset a⟩ = .refuse .range) ∧
    ∀ p : Port, p.val = a → s.judge ⟨c, n, .portReset a⟩ = .done (.portReset p) := by
  refine ⟨fun h => by simp [judge, h], ?_⟩
  rintro p rfl
  simp [judge]

end State

open State in
/-- Settles O55: a port above 7 is refused; the frames of another are flushed and its reply stands behind. -/
theorem portResetFlushesThePort : Obligations.PortResetFlushesThePort := by
  intro turn h port s ha hh
  obtain ⟨hrange, hdone⟩ := judge_portReset s h.controller h.number port.toNat
  by_cases hbig : 8 ≤ port.toNat
  · have hj := hrange hbig
    obtain ⟨t, u, k, r, body, hexec, hx, -⟩ := exec_executes ha rfl rfl (by rw [hj]; exact Nat.le_refl _)
    obtain ⟨hans, hwin, hlim, hnot, hframe⟩ := hx.served_refuse hj
    exact ⟨t, hexec, hlim, hnot, hwin, fun _ => ⟨hans, hframe⟩, fun p hp => by omega⟩
  · obtain ⟨p, hp⟩ : ∃ p : Port, p.val = port.toNat := ⟨⟨port.toNat, by omega⟩, rfl⟩
    have hj := hdone p hp
    obtain ⟨t, u, k, r, body, hexec, hx, -⟩ := exec_executes ha rfl rfl (by rw [hj]; exact Nat.le_refl _)
    have hports : u.ports = s.ports := hx.begins.frame.ports (by decide)
    have hport : u.port p = s.port p := port_of_ports hports p
    have hframes : u.portFrames p = s.portFrames p := by rw [portFrames, portFrames, hport]
    have hreset := resetPort_spec (s := u) p true hx.begins.stores (by rw [hframes]; exact portFrames_nodup hh p)
      fun x hxp => by
        rw [hframes] at hxp
        rcases mem_members_of_portFrames hxp with hm | hm
        · exact (hx.not_own hh hm nofun).2.2.1
        · exact (hx.not_own hh hm nofun).2.2.1
    have hwait : u.waitingFrames p = s.waitingFrames p := by rw [waitingFrames, waitingFrames, hport]
    rw [hframes, hwait, hport] at hreset
    obtain ⟨hans, hlim, hnot, hwin, htp, hfreed, hcount, hothers, htally, hall⟩ :=
      hx.served_flushes hh hj rfl rfl hreset.flushes hreset.grows hreset.limits (lawful_resetPort p true).frame
        fun x hxp => ⟨p, hxp⟩
    refine ⟨t, hexec, hlim, hnot, hwin, fun hno => absurd hno hbig, fun p' hp' => ?_⟩
    obtain rfl : p' = p := Fin.ext (hp'.trans hp.symm)
    rw [portFrames_eq] at hans hfreed hcount htally
    exact ⟨hans, fun q hq => (htp q).trans ((hreset.others q hq).trans (port_of_ports hports q)),
      (htp p').trans hreset.port, hfreed, hcount, hothers, htally, hall⟩

end Sys2Proof.Machine
end

section
/-! PROOFS. WRITE_PORT: the enabled fields, and the frames behind the head of a disabled port (O51). -/

namespace Sys2Proof.Machine
namespace State

variable {s t u : State}

/-! ## One port written (R39, R53) -/

/-- What a write of the enabled field makes of a port. -/
def PortState.written (v : PortState) (on : Bool) : PortState :=
  { v with enabled := on, egress := if v.enabled && !on then v.egress.take 1 else v.egress }

/-- The frames that it discards. -/
def disabledFrames (v : PortState) (on : Bool) : List Nat := if v.enabled && !on then v.egress.drop 1 else []

/-- What a write of enabled fields leaves. -/
structure PortWrite (l : List Nat) (s t : State) : Prop where
  flushes : Flushes .portDisabled l.length l s t
  grows : Grows l s t
  limits : KeepsLimits s t
  frame : ChangesOnly (.ports :: flushBlocks) s t

theorem PortWrite.trans {l l' : List Nat} (h : PortWrite l s t) (g : PortWrite l' t u)
    (hd : ∀ k ∈ l', k ∉ l ∧ ∃ x, s.handle? k = some x) : PortWrite (l ++ l') s u :=
  ⟨List.length_append ▸ h.flushes.trans g.flushes hd,
    (h.grows.mono (List.subset_append_left ..)).trans (g.grows.mono (List.subset_append_right ..)),
    h.limits.trans g.limits, h.frame.trans g.frame⟩

theorem writeEnabled_eq (p : Port) (on : Bool) : s.writeEnabled p on =
    (s.setPort p (PortState.written (s.port p) on)).flushFrames .portDisabled true (disabledFrames (s.port p) on) := by
  cases on with
  | true => simp [writeEnabled, PortState.written, disabledFrames, flushFrames]
  | false =>
    cases hv : (s.port p).enabled with
    | true => simp [writeEnabled, PortState.written, disabledFrames, hv]
    | false => simp [writeEnabled, PortState.written, disabledFrames, flushFrames, hv]

theorem writeEnabled_port (p : Port) (on : Bool) :
    (s.writeEnabled p on).port p = PortState.written (s.port p) on ∧ KeepsPorts p s (s.writeEnabled p on) := by
  have hports := (lawful_flushFrames (s := s.setPort p (PortState.written (s.port p) on)) .portDisabled true
    (disabledFrames (s.port p) on)).frame.ports (by decide)
  rw [writeEnabled_eq]
  exact ⟨(port_of_ports hports p).trans (setPort_port_self ..),
    fun q hq => (port_of_ports hports q).trans (setPort_port_other s _ hq)⟩

theorem portWrite_writeEnabled (p : Port) (on : Bool) (hs : StoresOk s) (hl : (disabledFrames (s.port p) on).Nodup)
    (hheld : ∀ h ∈ disabledFrames (s.port p) on, ∃ x, s.handle? h = some x) :
    PortWrite (disabledFrames (s.port p) on) s (s.writeEnabled p on) := by
  have hframe := (lawful_writeEnabled (s := s) p on).frame
  rw [writeEnabled_eq] at hframe ⊢
  have hset : ChangesOnly [.ports] s (s.setPort p (PortState.written (s.port p) on)) := by simp [ChangesOnly]
  generalize hv : s.setPort p (PortState.written (s.port p) on) = v at hset hframe ⊢
  have hbuf : v.buf = s.buf := hset.buf (by decide)
  have hvs : StoresOk v := storesOk_of_buf hs hbuf
  have hheld' : ∀ h ∈ disabledFrames (s.port p) on, ∃ x, v.handle? h = some x := fun h hh => by
    rw [handle?_of_buf hbuf]
    exact hheld h hh
  obtain ⟨hg, hlim⟩ := grows_flushFrames .portDisabled true (disabledFrames (s.port p) on) hvs
  exact ⟨(flushes_flushFrames .portDisabled true hvs hl hheld').of_start hbuf (hset.tallies (by decide))
    (hset.notices (by decide)), ((Grows.of_buf hset (by decide) hs).mono (List.nil_subset _)).trans hg,
    (KeepsLimits.of_queues (hset.queues (by decide))).trans hlim, hframe⟩

/-! ## Ports written one after the other (R163) -/

/-- The frames discarded at the ports from one index on, as each takes its value. -/
def disabledFrom (s : State) : Nat → List Bool → List Nat
  | _, [] => []
  | i, on :: l => disabledFrames (s.port (Fin.ofNat 8 i)) on ++ s.disabledFrom (i + 1) l

theorem port_ofNat_ne {i j : Nat} (hi : i < 8) (hj : j < 8) (hne : i ≠ j) : (Fin.ofNat 8 i : Port) ≠ Fin.ofNat 8 j :=
  fun e => hne (by simpa [Nat.mod_eq_of_lt hi, Nat.mod_eq_of_lt hj] using congrArg Fin.val e)

theorem disabledFrom_congr {n i : Nat} {l : List Bool} (hi : n ≤ i) (hl : i + l.length ≤ 8)
    (h : ∀ j, n ≤ j → j < 8 → t.port (Fin.ofNat 8 j) = s.port (Fin.ofNat 8 j)) :
    t.disabledFrom i l = s.disabledFrom i l := by
  induction l generalizing i with
  | nil => rfl
  | cons on l ih =>
    simp only [List.length_cons] at hl
    rw [disabledFrom, disabledFrom, h i hi (by omega), ih (by omega) (by omega)]

theorem portWrite_writeFrom {l : List Bool} {i : Nat} (hi : i + l.length ≤ 8) (hs : StoresOk s)
    (hl : (s.disabledFrom i l).Nodup) (hheld : ∀ h ∈ s.disabledFrom i l, ∃ x, s.handle? h = some x) :
    PortWrite (s.disabledFrom i l) s (writeFrom (fun s i on => s.writeEnabled (Fin.ofNat 8 i) on) s i l) := by
  induction l generalizing s i with
  | nil => exact ⟨.of_eq rfl rfl rfl, .refl [] hs, fun _ => rfl, .refl ..⟩
  | cons on l ih =>
    simp only [List.length_cons] at hi
    rw [disabledFrom] at hl hheld ⊢
    obtain ⟨hhead, htail, hdisj⟩ := List.nodup_append.1 hl
    have hstep := portWrite_writeEnabled (s := s) (Fin.ofNat 8 i) on hs hhead fun h hh =>
      hheld h (List.mem_append_left _ hh)
    obtain ⟨-, hports⟩ := writeEnabled_port (s := s) (Fin.ofNat 8 i) on
    have hsame : (s.writeEnabled (Fin.ofNat 8 i) on).disabledFrom (i + 1) l = s.disabledFrom (i + 1) l :=
      disabledFrom_congr (Nat.le_refl _) (by omega) fun j hj hj8 =>
        hports _ (port_ofNat_ne hj8 (by omega) (by omega))
    have hother : ∀ k ∈ s.disabledFrom (i + 1) l, k ∉ disabledFrames (s.port (Fin.ofNat 8 i)) on ∧
        ∃ x, s.handle? k = some x := fun k hk =>
      ⟨fun hk' => hdisj k hk' k hk rfl, hheld k (List.mem_append_right _ hk)⟩
    have hrest := ih (s := s.writeEnabled (Fin.ofNat 8 i) on) (i := i + 1) (by omega) hstep.grows.stores
      (by rwa [hsame]) fun k hk => by
        obtain ⟨hne, x, hx⟩ := hother k (hsame ▸ hk)
        obtain ⟨y, hy, -⟩ := hstep.flushes.steady k x hne hx
        exact ⟨y, hy⟩
    rw [hsame] at hrest
    exact hstep.trans hrest hother

theorem allPorts_drop {i : Nat} (hi : i < 8) : allPorts.drop i = Fin.ofNat 8 i :: allPorts.drop (i + 1) := by
  have h : ∀ i : Fin 8, allPorts.drop i.val = Fin.ofNat 8 i.val :: allPorts.drop (i.val + 1) := by decide
  exact h ⟨i, hi⟩

theorem le_of_mem_allPorts_drop {i : Nat} (hi : i ≤ 8) {p : Port} (hp : p ∈ allPorts.drop i) : i ≤ p.val := by
  have h : ∀ i : Fin 9, ∀ p ∈ allPorts.drop i.val, i.val ≤ p.val := by decide
  exact h ⟨i, by omega⟩ p hp

theorem lt_of_mem_allPorts_take {i : Nat} (hi : i ≤ 8) {p : Port} (hp : p ∈ allPorts.take i) : p.val < i := by
  have h : ∀ i : Fin 9, ∀ p ∈ allPorts.take i.val, p.val < i.val := by decide
  exact h ⟨i, by omega⟩ p hp

/-- The enabled field that a port takes. -/
def writtenEnabled (s : State) (first : Nat) (l : List Bool) (p : Port) : Bool :=
  if first ≤ p.val then l.getD (p.val - first) (s.port p).enabled else (s.port p).enabled

theorem disabledFrames_self (v : PortState) : disabledFrames v v.enabled = [] := by simp [disabledFrames]

theorem disabledFrom_eq_drop {i : Nat} {l : List Bool} (hl : i + l.length ≤ 8) : s.disabledFrom i l =
    (allPorts.drop i).flatMap fun p => disabledFrames (s.port p) (s.writtenEnabled i l p) := by
  induction l generalizing i with
  | nil =>
    refine (List.flatMap_eq_nil_iff.2 fun p _ => ?_).symm
    simp [writtenEnabled, disabledFrames_self]
  | cons on l ih =>
    simp only [List.length_cons] at hl
    have hval : (Fin.ofNat 8 i : Port).val = i := Nat.mod_eq_of_lt (by omega)
    rw [disabledFrom, ih (by omega), allPorts_drop (i := i) (by omega), List.flatMap_cons]
    refine congrArg₂ (· ++ ·) ?_ (List.flatMap_congr fun p hp => ?_)
    · rw [writtenEnabled, hval, if_pos (Nat.le_refl i), Nat.sub_self]
      rfl
    · have hle := le_of_mem_allPorts_drop (by omega) hp
      obtain ⟨d, hd⟩ : ∃ d, p.val = i + 1 + d := ⟨p.val - (i + 1), by omega⟩
      rw [writtenEnabled, writtenEnabled, hd, if_pos (by omega), if_pos (by omega),
        show i + 1 + d - (i + 1) = d by omega, show i + 1 + d - i = d + 1 by omega]
      rfl

/-- The frames discarded, port by port. -/
theorem disabledFrom_eq {i : Nat} {l : List Bool} (hl : i + l.length ≤ 8) : s.disabledFrom i l =
    allPorts.flatMap fun p => disabledFrames (s.port p) (s.writtenEnabled i l p) := by
  have htake : ((allPorts.take i).flatMap fun p => disabledFrames (s.port p) (s.writtenEnabled i l p)) = [] :=
    List.flatMap_eq_nil_iff.2 fun p hp => by
      have := lt_of_mem_allPorts_take (by omega) hp
      rw [writtenEnabled, if_neg (by omega), disabledFrames_self]
  rw [disabledFrom_eq_drop hl]
  conv_rhs => rw [← List.take_append_drop i allPorts, List.flatMap_append, htake, List.nil_append]

theorem disabledFrames_sublist (p : Port) (on : Bool) : (disabledFrames (s.port p) on).Sublist (s.portFrames p) := by
  rw [portFrames_eq, disabledFrames]
  split
  · exact (List.drop_sublist 1 _).trans (List.sublist_append_right ..)
  · exact List.nil_sublist _

theorem writeFrom_port {l : List Bool} {i : Nat} (hi : i + l.length ≤ 8) (p : Port) :
    (writeFrom (fun s i on => s.writeEnabled (Fin.ofNat 8 i) on) s i l).port p =
      PortState.written (s.port p) (s.writtenEnabled i l p) := by
  have hp : (Fin.ofNat 8 p.val : Port) = p := Fin.ext (Nat.mod_eq_of_lt p.isLt)
  have hget := writeFrom_get (s := s) (f := fun s i on => s.writeEnabled (Fin.ofNat 8 i) on) (fun x => x.port p)
    PortState.written (p := p.val) (n := 8) (fun x on => by
      rw [hp]
      exact (writeEnabled_port p on).1) (fun x j on hj hne => by
      refine (writeEnabled_port (s := x) (Fin.ofNat 8 j) on).2 p fun e => hne ?_
      rw [e]
      exact (Nat.mod_eq_of_lt hj).symm) l hi
  have hself : PortState.written (s.port p) (s.port p).enabled = s.port p := by simp [PortState.written]
  refine hget.trans ?_
  rw [writtenEnabled]
  split
  · rw [getD_eq_elim]
    cases l[p.val - i]? with
    | none => exact hself.symm
    | some on => rfl
  · exact hself.symm

end State

open State in
/-- Settles O51: each port written takes its value, and one that is disabled loses the frames behind its head. -/
theorem writePortEnablesAndDisables : Obligations.WritePortEnablesAndDisables := by
  intro turn h offset count es s base l ha hh hheld hr hsp first on off gone
  have hend : first + l.length ≤ 8 := by
    obtain ⟨h1, -, -, h4⟩ := hr
    have hlen := hsp.1
    have : tableEntries .port = 8 := rfl
    omega
  obtain ⟨hj, hparse⟩ := judge_spelled h.number hheld (by decide) hr (fun _ => rfl) hsp
  simp only [validate, hparse] at hj
  obtain ⟨t, u, k, r, body, hexec, hx, -⟩ := exec_executes ha rfl rfl (by rw [hj]; exact Nat.le_refl _)
  have hports : u.ports = s.ports := hx.begins.frame.ports (by decide)
  have hport (p : Port) : u.port p = s.port p := port_of_ports hports p
  have hgone : u.disabledFrom first l = gone := by
    rw [disabledFrom_eq hend]
    refine List.flatMap_congr fun p _ => ?_
    rw [writtenEnabled, hport]
    rfl
  have hsub : gone.Sublist (allPorts.flatMap s.portFrames) :=
    List.Sublist.flatMap_right _ fun p _ => disabledFrames_sublist (s := s) p (on p)
  have hmem : ∀ x ∈ gone, ∃ p, x ∈ s.portFrames p := fun x hx => by
    obtain ⟨p, -, hp⟩ := List.mem_flatMap.1 (hsub.subset hx)
    exact ⟨p, hp⟩
  have hwrite := portWrite_writeFrom (s := u) hend hx.begins.stores
    (by rw [hgone]; exact hh.1.sublist (hsub.trans (portFrames_sublist s))) fun x hxg => by
      rw [hgone] at hxg
      obtain ⟨p, hp⟩ := hmem x hxg
      rcases mem_members_of_portFrames hp with hm | hm
      · exact (hx.not_own hh hm nofun).2.2.1
      · exact (hx.not_own hh hm nofun).2.2.1
  rw [hgone] at hwrite
  obtain ⟨hans, hlim, hnot, hwin, htp, hfreed, hcount, hothers, htally, hall⟩ :=
    hx.served_flushes hh hj rfl rfl hwrite.flushes hwrite.grows hwrite.limits hwrite.frame hmem
  refine ⟨t, hexec, hans, hlim, hnot, hwin, fun p => (htp p).trans ((writeFrom_port hend p).trans ?_), hfreed, hcount,
    hothers, htally, hall⟩
  rw [writtenEnabled, hport]
  rfl

end Sys2Proof.Machine
end

section
/-! PROOFS. The soft restart: the frames it flushes, and what each block takes (O54, R19). -/

namespace Sys2Proof.Machine

theorem Flushes.of_count {c : Cause} {n n' : Nat} {l : List Nat} {s t : State} (h : Flushes c n l s t)
    (e : n = n') : Flushes c n' l s t := e ▸ h

theorem Flushes.held {c : Cause} {n : Nat} {l l' : List Nat} {s t : State} (h : Flushes c n l s t)
    (hd : ∀ k ∈ l', k ∉ l ∧ ∃ x, s.handle? k = some x) : ∀ k ∈ l', ∃ x, t.handle? k = some x := fun k hk => by
  obtain ⟨hne, x, hx⟩ := hd k hk
  obtain ⟨y, hy, -⟩ := h.steady k x hne hx
  exact ⟨y, hy⟩

namespace State

variable {s t u : State}

theorem changesOnly_foldl {α : Type} {bs : List Block} {f : State → α → State} (hf : ∀ s a, ChangesOnly bs s (f s a))
    (l : List α) (s : State) : ChangesOnly bs s (l.foldl f s) := by
  induction l generalizing s with
  | nil => exact .refl ..
  | cons a l ih => exact (hf s a).trans (ih _)

/-- Of two lists that share nothing, the second's frames are held and not in the first. -/
theorem held_of_append {l l' : List Nat} (hl : (l ++ l').Nodup) (hheld : ∀ k ∈ l ++ l', ∃ x, s.handle? k = some x) :
    ∀ k ∈ l', k ∉ l ∧ ∃ x, s.handle? k = some x := fun k hk =>
  ⟨fun hk' => (List.nodup_append.1 hl).2.2 k hk' k hk rfl, hheld k (List.mem_append_right _ hk)⟩

/-! ## The ports (R55) -/

/-- A port waits for the tag of a frame that has no handle yet. -/
def tagWaits (s : State) (p : Port) : Bool :=
  match (s.port p).ingress with
  | .tagWait _ => true
  | _ => false

theorem waitingFrames_eq (s : State) (p : Port) : s.waitingFrames p = (s.tagWaits p).toNat := by
  unfold waitingFrames tagWaits
  cases (s.port p).ingress with
  | idle => rfl
  | tagWait o => rfl
  | receiving h hold => rfl
  | skipping => rfl

/-- A port after its reset. -/
def PortState.emptied (v : PortState) : PortState :=
  { v with
    ingress := .idle, egress := []
    sent := if v.egress = [] then v.sent else v.sent ++ [.closeAbort, .idle] }

theorem resetPorts_spec {ps : List Port} (hps : ps.Nodup) (hs : StoresOk s) (hl : (ps.flatMap s.portFrames).Nodup)
    (hheld : ∀ h ∈ ps.flatMap s.portFrames, ∃ x, s.handle? h = some x) :
    Flushes .flush ((ps.flatMap s.portFrames).length + (ps.filter s.tagWaits).length) (ps.flatMap s.portFrames) s
        (ps.foldl (fun s p => s.resetPort p false) s) ∧
      StoresOk (ps.foldl (fun s p => s.resetPort p false) s) ∧
      ∀ p, (ps.foldl (fun s p => s.resetPort p false) s).port p =
        if p ∈ ps then PortState.emptied (s.port p) else s.port p := by
  induction ps generalizing s with
  | nil => exact ⟨.of_eq rfl rfl rfl, hs, fun p => rfl⟩
  | cons p ps ih =>
    obtain ⟨hp, hps⟩ := List.nodup_cons.1 hps
    rw [List.flatMap_cons] at hl hheld ⊢
    have hstep := resetPort_spec (s := s) p false hs (List.nodup_append.1 hl).1 fun h hh =>
      hheld h (List.mem_append_left _ hh)
    have hother := held_of_append hl hheld
    have hport : ∀ q ∈ ps, (s.resetPort p false).port q = s.port q := fun q hq =>
      hstep.others q fun e => hp (e ▸ hq)
    have hframes : ps.flatMap (s.resetPort p false).portFrames = ps.flatMap s.portFrames :=
      List.flatMap_congr fun q hq => by rw [portFrames, portFrames, hport q hq]
    have hwaits : ps.filter (s.resetPort p false).tagWaits = ps.filter s.tagWaits :=
      List.filter_congr fun q hq => by rw [tagWaits, tagWaits, hport q hq]
    obtain ⟨hrest, hstores, hports⟩ := ih (s := s.resetPort p false) hps hstep.grows.stores
      (by rw [hframes]; exact (List.nodup_append.1 hl).2.1) (by rw [hframes]; exact hstep.flushes.held hother)
    rw [hframes, hwaits] at hrest
    rw [List.foldl_cons]
    refine ⟨(hstep.flushes.trans hrest hother).of_count ?_, hstores, fun q => ?_⟩
    · rw [waitingFrames_eq, List.filter_cons, List.length_append]
      cases s.tagWaits p with
      | true =>
        simp only [Bool.toNat_true, if_true, List.length_cons]
        omega
      | false =>
        simp only [Bool.toNat_false, Bool.false_eq_true, if_false]
        omega
    · rw [hports]
      by_cases hq : q = p
      · subst hq
        rw [if_neg hp, if_pos List.mem_cons_self, hstep.port]
        rfl
      · rw [hstep.others q hq]
        simp only [List.mem_cons, hq, false_or]

theorem changesOnly_flushFrames_quiet (c : Cause) (l : List Nat) :
    ChangesOnly [.buf, .tallies] s (s.flushFrames c false l) := (lawful_flushFrames_quiet c l).frame

theorem changesOnly_resetPort_quiet (p : Port) : ChangesOnly [.ports, .buf, .tallies] s (s.resetPort p false) := by
  have hset (s : State) (v : PortState) : ChangesOnly [.ports, .buf, .tallies] s (s.setPort p v) := by
    simp [ChangesOnly]
  have hflush (s : State) (l : List Nat) : ChangesOnly [.ports, .buf, .tallies] s (s.flushFrames .flush false l) :=
    (changesOnly_flushFrames_quiet ..).mono (by decide)
  have hin : ChangesOnly [.ports, .buf, .tallies] s (s.flushIngress p false) := by
    unfold flushIngress
    dsimp only
    split
    · exact .refl ..
    · exact (hset ..).trans ((lawful_countDiscard ..).frame.mono (by decide))
    · exact (hset ..).trans (hflush ..)
    · exact hset ..
  refine hin.trans ?_
  show ChangesOnly _ _ ((s.flushIngress p false).flushEgress p false)
  unfold flushEgress
  split
  · exact .refl ..
  · exact ((hset ..).trans (hset ..)).trans (hflush ..)

/-! ## The transmitter (R107) -/

/-- The frames of the tier queues and of the transmitter. -/
def trunkFrames (s : State) : List Nat :=
  Tier.all.flatMap (fun t => (s.queue t).members) ++ s.tx.active.toList ++ s.tx.stack

theorem emptyQueues_queue (q : Tier) : (Tier.all.foldl (fun s t => s.setMembers t []) s).queue q =
    { s.queue q with members := [] } := by
  show ((((s.setMembers .t0 []).setMembers .t1 []).setMembers .t2 []).setMembers .t3 []).queue q = _
  cases q with
  | t0 => simp [setMembers_queue]
  | t1 => simp [setMembers_queue]
  | t2 => simp [setMembers_queue]
  | t3 => simp [setMembers_queue]

theorem restartTransmitter_spec (hs : StoresOk s) (hl : s.trunkFrames.Nodup)
    (hheld : ∀ h ∈ s.trunkFrames, ∃ x, s.handle? h = some x) :
    Flushes .flush s.trunkFrames.length s.trunkFrames s s.restartTransmitter := by
  let v := (Tier.all.foldl (fun s t => s.setMembers t []) s).withTx
    { mode := if s.line.link = .up then .clearing else .offline, active := none, fragment := none, stack := [] }
  exact (flushes_flushFrames (s := v) .flush false (storesOk_of_buf hs rfl) hl hheld).of_start rfl rfl rfl

theorem restartTransmitter_tx : s.restartTransmitter.tx =
    { mode := if s.line.link = .up then .clearing else .offline, active := none, fragment := none, stack := [] } :=
  (changesOnly_flushFrames_quiet ..).tx (by decide)

theorem restartTransmitter_queue (q : Tier) : s.restartTransmitter.queue q = { s.queue q with members := [] } :=
  (queue_of_queues ((changesOnly_flushFrames_quiet ..).queues (by decide)) q).trans (emptyQueues_queue (s := s) q)

/-! ## The receiver (R144) -/

/-- An OPEN context has no handle yet. -/
def contextWaits (s : State) (q : Tier) : Bool :=
  match s.context q with
  | .opened a => a.handle.isNone
  | _ => false

theorem restartContext_spec (q : Tier) :
    Flushes .flush ((s.contextHandles [q]).length + (s.contextWaits q).toNat) (s.contextHandles [q]) s
      (s.restartContext q) := by
  have hopened (h : (s.context q).isOpen = false) : s.contextHandles [q] = [] := contextHandles_of_not_opened h
  cases hq : s.context q with
  | closed =>
    rw [contextWaits, restartContext, hq, hopened (by rw [hq]; rfl)]
    exact .of_eq rfl rfl rfl
  | discarding d =>
    rw [contextWaits, restartContext, hq, hopened (by rw [hq]; rfl)]
    exact .of_eq rfl rfl rfl
  | opened a =>
    have hwaits : s.contextWaits q = a.handle.isNone := by rw [contextWaits, hq]
    rw [contextHandles_opened hq, hwaits]
    cases ha : a.handle with
    | none =>
      have he : s.restartContext q = (s.setContext q .closed).countDiscard .flush none := by
        simp only [restartContext, hq, ha]
      rw [he]
      exact (Flushes.of_counted (countDiscard_buf ..) (counted_countDiscard .flush none)
        (countDiscard_notices ..)).of_start (s := s) (t := s.setContext q .closed) rfl rfl rfl
    | some h =>
      have he : s.restartContext q = (s.setContext q .closed).discardQuiet .flush h := by
        simp only [restartContext, hq, ha]
      rw [he]
      exact (Flushes.of_discardQuiet .flush h (s.setContext q .closed)).of_start rfl rfl rfl

theorem restartContexts_spec {l : List Tier} (hn : l.Nodup) (hl : (s.contextHandles l).Nodup)
    (hheld : ∀ h ∈ s.contextHandles l, ∃ x, s.handle? h = some x) :
    Flushes .flush ((s.contextHandles l).length + (l.filter s.contextWaits).length) (s.contextHandles l) s
      (l.foldl restartContext s) := by
  induction l generalizing s with
  | nil => exact .of_eq rfl rfl rfl
  | cons q l ih =>
    obtain ⟨hq, hn⟩ := List.nodup_cons.1 hn
    rw [contextHandles_cons] at hl hheld ⊢
    have hstep := restartContext_spec (s := s) q
    have hother := held_of_append hl hheld
    have hcontext : ∀ x ∈ l, (s.restartContext q).context x = s.context x := fun x hx =>
      restartContext_other fun e => hq (e ▸ hx)
    have hhandles : (s.restartContext q).contextHandles l = s.contextHandles l := contextHandles_congr hcontext
    have hwaits : l.filter (s.restartContext q).contextWaits = l.filter s.contextWaits :=
      List.filter_congr fun x hx => by rw [contextWaits, contextWaits, hcontext x hx]
    have hrest := ih (s := s.restartContext q) hn
      (by rw [hhandles]; exact (List.nodup_append.1 hl).2.1) (by rw [hhandles]; exact hstep.held hother)
    rw [hhandles, hwaits] at hrest
    refine (hstep.trans hrest hother).of_count ?_
    rw [List.filter_cons, List.length_append]
    cases s.contextWaits q with
    | true =>
      simp only [Bool.toNat_true, if_true, List.length_cons]
      omega
    | false =>
      simp only [Bool.toNat_false, Bool.false_eq_true, if_false]
      omega

theorem restartReceiver_spec (hl : (s.contextHandles Tier.all).Nodup)
    (hheld : ∀ h ∈ s.contextHandles Tier.all, ∃ x, s.handle? h = some x) :
    Flushes .flush ((s.contextHandles Tier.all).length + (Tier.all.filter s.contextWaits).length)
      (s.contextHandles Tier.all) s s.restartReceiver := by
  have hspec := restartContexts_spec (l := Tier.all) (by decide) hl hheld
  rw [restartReceiver]
  generalize Tier.all.foldl restartContext s = v at hspec ⊢
  exact hspec.of_end rfl rfl rfl

/-! ## The whole restart -/

/-- The restart of the ports, the transmitter and the receiver. -/
def trunkRestarted (s : State) : State :=
  (allPorts.foldl (fun s p => s.resetPort p false) s).restartTransmitter.restartReceiver

theorem softRestart_eq : s.softRestart = s.trunkRestarted.restartAgent.restartMetering.restartNotices := rfl

/-- The frames that a soft restart flushes (R19). -/
def restartFrames (s : State) : List Nat :=
  allPorts.flatMap s.portFrames ++ s.trunkFrames ++ s.contextHandles Tier.all ++ s.agent.inbox.drop 1

/-- The frames without a handle that it counts. -/
def restartWaits (s : State) : Nat := (allPorts.filter s.tagWaits).length + (Tier.all.filter s.contextWaits).length

/-- The blocks that a soft restart may change. -/
def restartBlocks : List Block := [.buf, .metering, .ports, .queues, .tx, .rx, .agent, .part, .notices, .tallies]

theorem trunkFrames_congr {bs : List Block} (h : ChangesOnly bs s t) (hb : Block.queues ∉ bs ∧ Block.tx ∉ bs) :
    t.trunkFrames = s.trunkFrames := by
  have hq (x : Tier) : t.queue x = s.queue x := queue_of_queues (h.queues hb.1) x
  simp only [trunkFrames, hq, h.tx hb.2]

theorem changesOnly_resetPorts : ChangesOnly [.ports, .buf, .tallies] s
    (allPorts.foldl (fun s p => s.resetPort p false) s) :=
  changesOnly_foldl (fun _ p => changesOnly_resetPort_quiet p) ..

theorem changesOnly_trunkRestarted : ChangesOnly [.buf, .ports, .queues, .tx, .rx, .tallies] s s.trunkRestarted :=
  ((changesOnly_resetPorts.mono (by decide)).trans (lawful_restartTransmitter.frame.mono (by decide))).trans
    (lawful_restartReceiver.frame.mono (by decide))

theorem changesOnly_softRestart : ChangesOnly restartBlocks s s.softRestart :=
  (((changesOnly_trunkRestarted.mono (by decide)).trans (lawful_restartAgent.frame.mono (by decide))).trans
    (lawful_restartMetering.frame.mono (by decide))).trans (lawful_restartNotices.frame.mono (by decide))

theorem trunkRestarted_flushes (hs : StoresOk s)
    (hl : (allPorts.flatMap s.portFrames ++ s.trunkFrames ++ s.contextHandles Tier.all).Nodup)
    (hheld : ∀ h ∈ allPorts.flatMap s.portFrames ++ s.trunkFrames ++ s.contextHandles Tier.all,
      ∃ x, s.handle? h = some x) :
    Flushes .flush ((allPorts.flatMap s.portFrames ++ s.trunkFrames ++ s.contextHandles Tier.all).length +
        s.restartWaits) (allPorts.flatMap s.portFrames ++ s.trunkFrames ++ s.contextHandles Tier.all) s
      s.trunkRestarted ∧ ∀ p, s.trunkRestarted.port p = PortState.emptied (s.port p) := by
  have hl12 := (List.nodup_append.1 hl).1
  have hheld12 := fun h hh => hheld h (List.mem_append_left _ hh)
  obtain ⟨hports, hs1, hport⟩ := resetPorts_spec (by decide) hs (List.nodup_append.1 hl12).1 fun h hh =>
    hheld12 h (List.mem_append_left _ hh)
  have hframe1 := changesOnly_resetPorts (s := s)
  have hunfold : s.trunkRestarted =
    (allPorts.foldl (fun s p => s.resetPort p false) s).restartTransmitter.restartReceiver := rfl
  rw [hunfold]
  generalize allPorts.foldl (fun s p => s.resetPort p false) s = s1 at *
  have hframes2 : s1.trunkFrames = s.trunkFrames := trunkFrames_congr hframe1 (by decide)
  have hother2 := held_of_append hl12 hheld12
  have htrunk := restartTransmitter_spec hs1 (by rw [hframes2]; exact (List.nodup_append.1 hl12).2.1)
    (by rw [hframes2]; exact hports.held hother2)
  have hframe2 := lawful_restartTransmitter (s := s1)
  rw [hframes2] at htrunk
  have h12 := hports.trans htrunk hother2
  have hs2 : StoresOk s1.restartTransmitter := hframe2.stores hs1
  have hctx (q : Tier) : s1.restartTransmitter.context q = s.context q :=
    context_of_rx ((hframe2.frame.rx (by decide)).trans (hframe1.rx (by decide))) q
  have hhandles : s1.restartTransmitter.contextHandles Tier.all = s.contextHandles Tier.all :=
    contextHandles_congr fun q _ => hctx q
  have hwaits : Tier.all.filter s1.restartTransmitter.contextWaits = Tier.all.filter s.contextWaits :=
    List.filter_congr fun q _ => by rw [contextWaits, contextWaits, hctx]
  have hother3 := held_of_append hl hheld
  have hrx := restartReceiver_spec (s := s1.restartTransmitter) (by rw [hhandles]; exact (List.nodup_append.1 hl).2.1)
    (by rw [hhandles]; exact h12.held hother3)
  rw [hhandles, hwaits] at hrx
  refine ⟨(h12.trans hrx hother3).of_count ?_, fun p => ?_⟩
  · rw [restartWaits, List.length_append, List.length_append]
    omega
  · have hsame : s1.restartTransmitter.restartReceiver.ports = s1.ports :=
      (lawful_restartReceiver.frame.ports (by decide)).trans (hframe2.frame.ports (by decide))
    rw [port_of_ports hsame, hport, if_pos (mem_allPorts p)]

/-- The frames flushed, up to the metering and the notice queue, that hold none. -/
theorem softRestart_flushes (hs : StoresOk s) (hl : s.restartFrames.Nodup)
    (hheld : ∀ h ∈ s.restartFrames, ∃ x, s.handle? h = some x) :
    ∃ v, Flushes .flush (s.restartFrames.length + s.restartWaits) s.restartFrames s v ∧ v.notices = s.notices ∧
      s.softRestart.buf = v.buf ∧ s.softRestart.tallies = v.tallies := by
  obtain ⟨h123, -⟩ := trunkRestarted_flushes hs (List.nodup_append.1 hl).1 fun h hh =>
    hheld h (List.mem_append_left _ hh)
  have hother := held_of_append hl hheld
  have hframe := changesOnly_trunkRestarted (s := s)
  have hstores : StoresOk s.trunkRestarted := (lawful_restartReceiver).stores (lawful_restartTransmitter.stores
    ((lawful_foldl (fun _ p => lawful_resetPort p false) allPorts s).stores hs))
  rw [softRestart_eq]
  generalize s.trunkRestarted = v at *
  have hagent : v.agent = s.agent := hframe.agent (by decide)
  have hlast := (flushes_flushFrames (s := v.cutAgent) .flush false (storesOk_of_buf hstores rfl)
    (List.nodup_append.1 hl).2.1 (h123.held hother)).of_start (s := v) rfl rfl rfl
  have hlaw := lawful_restartMetering (s := v.restartAgent)
  have hnotices := lawful_restartNotices (s := v.restartAgent.restartMetering)
  have hcut : (v.cutAgent.flushFrames .flush false (s.agent.inbox.drop 1)).buf = v.restartAgent.buf ∧
      (v.cutAgent.flushFrames .flush false (s.agent.inbox.drop 1)).tallies = v.restartAgent.tallies := by
    rw [← hagent]
    exact ⟨rfl, rfl⟩
  refine ⟨_, (h123.trans hlast hother).of_count ?_, ?_, ?_, ?_⟩
  · rw [restartFrames, List.length_append (bs := s.agent.inbox.drop 1)]
    omega
  · rw [(changesOnly_flushFrames_quiet ..).notices (by decide)]
    exact hframe.notices (by decide)
  · rw [hnotices.frame.buf (by decide), hlaw.frame.buf (by decide), hcut.1]
  · rw [hnotices.frame.tallies (by decide), hlaw.frame.tallies (by decide), hcut.2]

end State
end Sys2Proof.Machine
end

section
/-! PROOFS. What the blocks hold after a soft restart, and the frames held by the part counted (O54, R19). -/

namespace Sys2Proof.Machine
namespace State

variable {s t u : State}

/-! ## The blocks (R34, R55, R78, R107, R144, R170, R186) -/

theorem restartMetering_spec (hw : Table.wf StreamEntry.invalid s.streams = true) :
    s.restartMetering.metering.records = s.metering.records ∧ s.restartMetering.metering.epochElapsed = 0 ∧
      ∀ i, s.restartMetering.runtime i = s.reloaded (s.stream i) .unmetered := by
  have heq : s.restartMetering =
    (s.withMetering { s.metering with runtimes := [], epochElapsed := 0 }).loadHeads s.streams := rfl
  rw [heq]
  generalize hv : s.withMetering { s.metering with runtimes := [], epochElapsed := 0 } = v
  have hrecords : v.metering.records = s.metering.records := by rw [← hv]; rfl
  obtain ⟨-, hrec, hepoch⟩ := loadHeads_frame (s := v) s.streams
  refine ⟨hrec.trans hrecords, hepoch.trans (by rw [← hv]; rfl), fun i => ?_⟩
  rw [loadHeads_runtime (Table.risingFrom_zero_of_wf hw), reloaded_of_records hrecords]
  rw [← hv]
  rfl

/-- The part after a soft restart, in terms of the part before (R19). -/
structure Restarted (s c : State) : Prop where
  frame : ChangesOnly restartBlocks s c
  port : ∀ p, c.port p = PortState.emptied (s.port p)
  tx : c.tx =
    { mode := if s.line.link = .up then .clearing else .offline, active := none, fragment := none, stack := [] }
  queue : ∀ q, c.queue q = { s.queue q with members := [] }
  context : ∀ q, c.context q = .closed
  fragment : c.rx.fragment = none
  records : c.metering.records = s.metering.records
  epoch : c.metering.epochElapsed = 0
  runtime : ∀ i, c.runtime i = s.reloaded (s.stream i) .unmetered
  agent : c.agent = { s.agent with inbox := s.agent.inbox.take 1, window := none, records := Vector.replicate 4 none }
  part : c.part = { s.part with cause := .soft }
  notices : c.notices = { s.notices with
    records := [{ notice := .announce .soft s.part.node, state := .queued }], timer := .stopped, pending := false }

theorem trunkRestarted_blocks :
    s.trunkRestarted.tx =
      { mode := if s.line.link = .up then .clearing else .offline, active := none, fragment := none, stack := [] } ∧
    (∀ q, s.trunkRestarted.queue q = { s.queue q with members := [] }) ∧
    (∀ q, s.trunkRestarted.context q = .closed) ∧ s.trunkRestarted.rx.fragment = none := by
  have hframe := changesOnly_resetPorts (s := s)
  unfold trunkRestarted
  generalize allPorts.foldl (fun s p => s.resetPort p false) s = v at hframe ⊢
  have hrx : ChangesOnly [.buf, .rx, .tallies] v.restartTransmitter v.restartTransmitter.restartReceiver :=
    lawful_restartReceiver.frame
  refine ⟨?_, fun q => ?_, restartReceiver_closed, rfl⟩
  · rw [hrx.tx (by decide), restartTransmitter_tx, hframe.line (by decide)]
  · rw [queue_of_queues (hrx.queues (by decide)), restartTransmitter_queue,
      queue_of_queues (hframe.queues (by decide))]

theorem restarted_softRestart (hw : Table.wf StreamEntry.invalid s.streams = true) (hs : StoresOk s)
    (hl : s.restartFrames.Nodup) (hheld : ∀ h ∈ s.restartFrames, ∃ x, s.handle? h = some x) :
    Restarted s s.softRestart := by
  obtain ⟨-, hport⟩ := trunkRestarted_flushes hs (List.nodup_append.1 hl).1 fun h hh =>
    hheld h (List.mem_append_left _ hh)
  obtain ⟨htx, hqueue, hcontext, hfragment⟩ := trunkRestarted_blocks (s := s)
  have hframe := changesOnly_trunkRestarted (s := s)
  have hagent := softRestart_agent (s := s)
  have hall := changesOnly_softRestart (s := s)
  rw [softRestart_eq] at hagent hall ⊢
  generalize s.trunkRestarted = v at *
  have hv : ChangesOnly [.buf, .agent, .part, .tallies] v v.restartAgent := lawful_restartAgent.frame
  have hvpart : v.restartAgent.part = { v.part with cause := .soft } := by
    show ({ (v.cutAgent.flushFrames .flush false (v.agent.inbox.drop 1)).part with cause := .soft } : Part) = _
    rw [(changesOnly_flushFrames_quiet ..).part (by decide)]
    rfl
  generalize v.restartAgent = a at *
  have ha : ChangesOnly [.metering] a a.restartMetering := lawful_restartMetering.frame
  have hstreams : a.streams = s.streams := (hv.streams (by decide)).trans (hframe.streams (by decide))
  have hmetering : a.metering = s.metering := (hv.metering (by decide)).trans (hframe.metering (by decide))
  obtain ⟨hrecords, hepoch, hruntime⟩ := restartMetering_spec (s := a) (by rw [hstreams]; exact hw)
  have hpart : a.restartMetering.part = { s.part with cause := .soft } := by
    rw [ha.part (by decide), hvpart, hframe.part (by decide)]
  have hnotices : a.restartMetering.notices = s.notices := by
    rw [ha.notices (by decide), hv.notices (by decide), hframe.notices (by decide)]
  generalize a.restartMetering = m at *
  have hm : ChangesOnly [.notices] m m.restartNotices := changesOnly_withNotices _
  have hav : ChangesOnly [.buf, .agent, .part, .tallies, .metering, .notices] v m.restartNotices :=
    ((hv.mono (by decide)).trans (ha.mono (by decide))).trans (hm.mono (by decide))
  refine ⟨hall, fun p => ?_, ?_, fun q => ?_, fun q => ?_, ?_, hrecords.trans (by rw [hmetering]), hepoch, fun i => ?_,
    hagent, hpart, ?_⟩
  · rw [port_of_ports (hav.ports (by decide)), hport]
  · rw [hav.tx (by decide), htx]
  · rw [queue_of_queues (hav.queues (by decide)), hqueue]
  · rw [context_of_rx (hav.rx (by decide)), hcontext]
  · rw [hav.rx (by decide), hfragment]
  · refine (hruntime i).trans ?_
    rw [stream_of_streams hstreams]
    exact reloaded_of_records (by rw [hmetering]) _ _
  · show { m.notices with
      records := [{ notice := .announce .soft m.part.node, state := .queued }], timer := .stopped
      pending := false } = _
    rw [hnotices, hpart]

/-! ## The frames that the part holds (R3) -/

/-- The handles of the collections, the inbox last. -/
theorem members_fst (s : State) : s.members.map Prod.fst =
    allPorts.flatMap s.portFrames ++ s.trunkFrames ++ s.contextHandles Tier.all ++ s.agent.inbox := by
  have hports : allPorts.flatMap s.portFrames = (allPorts.flatMap fun p => (s.port p).members p).map Prod.fst :=
    List.map_flatMap.symm
  have hqueues : Tier.all.flatMap (fun t => (s.queue t).members) =
      (Tier.all.flatMap fun t => (s.queue t).members.map fun h => (h, Holder.tierQueue t)).map Prod.fst := by
    simp [List.map_flatMap, Function.comp_def]
  have hcontexts : s.contextHandles Tier.all = (Tier.all.flatMap fun q => (s.context q).members q).map Prod.fst := by
    rw [List.map_flatMap]
    refine List.flatMap_congr fun q _ => ?_
    cases s.context q with
    | closed => rfl
    | discarding d => rfl
    | opened a => simp [Context.members, Function.comp_def]
  have hmembers : s.members = (allPorts.flatMap fun p => (s.port p).members p) ++
      (Tier.all.flatMap fun t => (s.queue t).members.map fun h => (h, Holder.tierQueue t)) ++
      s.tx.active.toList.map (fun h => (h, .trunkActive)) ++ s.tx.stack.map (fun h => (h, .trunkSuspended)) ++
      (Tier.all.flatMap fun q => (s.context q).members q) ++ s.agent.inbox.map fun h => (h, .inbox) := rfl
  rw [hmembers, trunkFrames, hports, hqueues, hcontexts]
  simp [Function.comp_def]

theorem handles_nodup (hs : StoresOk s) : (s.buf.handles.map Prod.fst).Nodup :=
  List.pairwise_map.2 ((Table.pairwise_of_rising hs.1).1.imp fun h => h.ne)

theorem mem_handles_iff (hs : StoresOk s) {k : Nat} :
    k ∈ s.buf.handles.map Prod.fst ↔ ∃ x, s.handle? k = some x := by
  constructor
  · intro hk
    obtain ⟨e, he, rfl⟩ := List.mem_map.1 hk
    exact ⟨e.2, Table.find_of_mem hs.1 he⟩
  · rintro ⟨x, hx⟩
    exact List.mem_map.2 ⟨(k, x), Table.mem_of_find hx, rfl⟩

/-- The listed handles are those of the collections (R3). -/
theorem handles_perm (hs : StoresOk s) (hh : HoldersOk s) :
    (s.buf.handles.map Prod.fst).Perm (s.members.map Prod.fst) := by
  obtain ⟨hnodup, hheld, hall⟩ := hh
  refine (List.perm_ext_iff_of_nodup (handles_nodup hs) hnodup).2 fun k => ?_
  constructor
  · intro hk
    obtain ⟨e, he, rfl⟩ := List.mem_map.1 hk
    exact List.mem_map.2 ⟨(e.1, e.2.holder), hall e he, rfl⟩
  · intro hk
    obtain ⟨m, hm, rfl⟩ := List.mem_map.1 hk
    obtain ⟨x, hx, -⟩ := hheld m hm
    exact (mem_handles_iff hs).2 ⟨x, hx⟩

/-- The free stores beside frames of one cell each. -/
theorem free_of_one_cell (hs : StoresOk s) {l : List Nat} (hl : l.Nodup) (hfree : ∀ j, j ∉ l → s.handle? j = none)
    (hheld : ∀ j ∈ l, ∃ x, s.handle? j = some x ∧ x.chain.length = 1) :
    s.freeHandles = 512 - l.length ∧ s.freeCells = 4096 - l.length := by
  have hperm : (s.buf.handles.map Prod.fst).Perm l :=
    (List.perm_ext_iff_of_nodup (handles_nodup hs) hl).2 fun j => by
      rw [mem_handles_iff hs]
      constructor
      · rintro ⟨x, hx⟩
        refine Classical.byContradiction fun hj => ?_
        rw [hfree j hj] at hx
        cases hx
      · intro hj
        obtain ⟨x, hx, -⟩ := hheld j hj
        exact ⟨x, hx⟩
  have hlen : s.buf.handles.length = l.length := by rw [← hperm.length_eq, List.length_map]
  have hone : ∀ e ∈ s.buf.handles, e.2.chain.length = 1 := fun e he => by
    obtain ⟨x, hx, hx1⟩ := hheld e.1 (hperm.subset (List.mem_map_of_mem he))
    have hfind : s.handle? e.1 = some e.2 := Table.find_of_mem hs.1 he
    obtain rfl := Option.some.inj (hfind.symm.trans hx)
    exact hx1
  have hcells : s.heldCells.length = s.buf.handles.length := by
    rw [heldCells, List.length_flatMap, List.map_congr_left hone]
    simp
  exact ⟨by rw [freeHandles, hlen]; rfl, by rw [freeCells, hcells, hlen]; rfl⟩

/-- The frames of a list that are all the part holds, but for some, counted by stream. -/
theorem filter_handles_length (hs : StoresOk s) {l asked : List Nat}
    (hperm : (s.buf.handles.map Prod.fst).Perm (l ++ asked)) (i : StreamIx) :
    (s.buf.handles.filter fun e => decide (e.2.stream = some i ∧ e.1 ∉ asked)).length =
      (l.filter fun x => decide (s.streamOf x = some i)).length := by
  have hnodup : (l ++ asked).Nodup := hperm.nodup (handles_nodup hs)
  have hfst : (s.buf.handles.filter fun e => decide (e.2.stream = some i ∧ e.1 ∉ asked)).map Prod.fst =
      (s.buf.handles.map Prod.fst).filter fun x => decide (s.streamOf x = some i ∧ x ∉ asked) := by
    rw [List.filter_map]
    refine congrArg (List.map Prod.fst) (List.filter_congr fun e he => ?_)
    have hfind : s.handle? e.1 = some e.2 := Table.find_of_mem hs.1 he
    simp only [Function.comp_apply, streamOf, hfind, Option.bind_some]
  have hasked : asked.filter (fun x => decide (s.streamOf x = some i ∧ x ∉ asked)) = [] :=
    List.filter_eq_nil_iff.2 fun x hx => by simp [hx]
  have hrest : l.filter (fun x => decide (s.streamOf x = some i ∧ x ∉ asked)) =
      l.filter fun x => decide (s.streamOf x = some i) :=
    List.filter_congr fun x hx => by
      have hne : x ∉ asked := fun hx' => (List.nodup_append.1 hnodup).2.2 x hx x hx' rfl
      simp [hne]
  rw [← List.length_map (f := Prod.fst), hfst, (hperm.filter _).length_eq, List.filter_append, hasked, hrest,
    List.append_nil]

end State
end Sys2Proof.Machine
end

section
/-! PROOFS. RESTART: its reply first, and the ANNOUNCE notice behind it (O54). -/

namespace Sys2Proof.Machine
namespace State

variable {s t u c : State}

/-- The inbox as an execution finds it (R149). -/
theorem answers_inbox {w : Turn} {x : Instr} {h : ReqHeader} {n : Nat} (ha : s.Answers w x h n) :
    s.agent.inbox = w.asked ++ w.behind := by
  obtain ⟨-, -, -, hturn⟩ := ha
  cases w with
  | arrival =>
    obtain ⟨-, -, hin, -⟩ := hturn
    exact hin
  | attempt k behind =>
    obtain ⟨-, -, -, hin, -⟩ := hturn
    exact hin
  | retry k behind =>
    obtain ⟨-, -, -, hin, -⟩ := hturn
    exact hin

section Restart

variable {w : Turn} {h : ReqHeader} {kind : Byte} {q : Request} {k r : Nat} {body : List Byte}

/-- The frames that the RESTART flushes: all but its own request. -/
def othersFrames (s : State) (w : Turn) : List Nat :=
  allPorts.flatMap s.portFrames ++ s.trunkFrames ++ s.contextHandles Tier.all ++ w.behind

theorem members_perm (hin : s.agent.inbox = w.asked ++ w.behind) :
    (s.members.map Prod.fst).Perm (s.othersFrames w ++ w.asked) := by
  rw [members_fst, hin, othersFrames, List.append_assoc _ w.behind]
  exact List.Perm.append_left _ List.perm_append_comm

section Frames

variable (hx : Executes w s t h kind q u k r body) (hs : StoresOk s) (hh : HoldersOk s)
  (hin : s.agent.inbox = w.asked ++ w.behind)
include hx

theorem Executes.restartFrames_eq : u.restartFrames = s.othersFrames w ∧ u.restartWaits = s.restartWaits := by
  have hu := hx.begins.frame
  have hport (p : Port) : u.port p = s.port p := port_of_ports (hu.ports (by decide)) p
  have hctx (q : Tier) : u.context q = s.context q := context_of_rx (hu.rx (by decide)) q
  refine ⟨?_, ?_⟩
  · have hframes : u.portFrames = s.portFrames := funext fun p => by rw [portFrames, portFrames, hport]
    have hinbox : u.agent.inbox = k :: w.behind := by rw [hx.begins.agent]
    rw [restartFrames, othersFrames, hframes, trunkFrames_congr hu (by decide),
      contextHandles_congr (t := u) (s := s) fun q _ => hctx q, hinbox]
    rfl
  · have htags : u.tagWaits = s.tagWaits := funext fun p => by rw [tagWaits, tagWaits, hport]
    have hwaits : u.contextWaits = s.contextWaits := funext fun q => by rw [contextWaits, contextWaits, hctx]
    rw [restartWaits, restartWaits, htags, hwaits]

include hh hin

/-- The other frames are held, apart from the request and its reply. -/
theorem Executes.others_held {x : Nat} (hm : x ∈ s.othersFrames w) :
    x ≠ k ∧ x ≠ r ∧ u.handle? x = s.handle? x ∧ ∃ y, s.handle? x = some y := by
  have hperm := members_perm hin
  obtain ⟨m, hmm, rfl⟩ := List.mem_map.1 (hperm.symm.subset (List.mem_append_left _ hm))
  obtain ⟨y, hy, -⟩ := hh.2.1 m hmm
  have hk : m.1 ≠ k := by
    rintro rfl
    obtain ⟨-, hfree⟩ | ⟨hasked, -⟩ := hx.begins.asked
    · rw [hfree] at hy
      cases hy
    · exact (List.nodup_append.1 (hperm.nodup hh.1)).2.2 m.1 hm m.1 (hasked ▸ List.mem_singleton_self _) rfl
  have hr : m.1 ≠ r := by
    intro e
    rw [e, hx.begins.fresh] at hy
    cases hy
  exact ⟨hk, hr, hx.begins.keeps m.1 (by simp [hk, hr]), y, hy⟩

/-- Every handle but the request's, the reply's and the others' is FREE. -/
theorem Executes.free_elsewhere {x : Nat} (hm : x ∉ s.othersFrames w) (hk : x ≠ k) (hr : x ≠ r) :
    u.handle? x = none := by
  rw [hx.begins.keeps x (by simp [hk, hr])]
  refine Option.eq_none_iff_forall_ne_some.2 fun y hy => ?_
  have hmem := hh.2.2 _ (Table.mem_of_find hy)
  rcases List.mem_append.1 ((members_perm hin).subset (List.mem_map.2 ⟨_, hmem, rfl⟩)) with hx' | hx'
  · exact hm hx'
  · obtain ⟨hasked, -⟩ | ⟨hasked, -⟩ := hx.begins.asked
    · rw [hasked] at hx'
      cases hx'
    · rw [hasked] at hx'
      exact hk (List.mem_singleton.1 hx')

include hs

/-- What the restart leaves of the frames, the tallies and the blocks. -/
theorem Executes.restarts (ht : TablesOk s) : Restarted u u.softRestart ∧ StoresOk u.softRestart ∧
    (∀ x, x ≠ k → x ≠ r → u.softRestart.handle? x = none) ∧
    u.softRestart.handle? k = u.handle? k ∧ u.softRestart.handle? r = u.handle? r ∧
    u.softRestart.discardCount .flush = s.discardCount .flush +
      BitVec.ofNat 32 (s.buf.handles.length - w.asked.length + s.restartWaits) ∧
    (∀ d, d ≠ .flush → u.softRestart.discardCount d = s.discardCount d) ∧
    ∀ i, u.softRestart.tally i = { s.tally i with
      framesDiscarded := (s.tally i).framesDiscarded +
        BitVec.ofNat 32 (s.buf.handles.filter fun e => decide (e.2.stream = some i ∧ e.1 ∉ w.asked)).length } := by
  obtain ⟨hframes, hwaits⟩ := hx.restartFrames_eq
  have hperm := (handles_perm hs hh).trans (members_perm hin)
  have hnodup : (s.othersFrames w).Nodup := (List.nodup_append.1 (hperm.nodup (handles_nodup hs))).1
  have hheld : ∀ x ∈ s.othersFrames w, ∃ y, u.handle? x = some y := fun x hm => by
    obtain ⟨-, -, heq, y, hy⟩ := hx.others_held hh hin hm
    exact ⟨y, heq.trans hy⟩
  have hstreams : u.streams = s.streams := hx.begins.frame.streams (by decide)
  have htallies : u.tallies = s.tallies := hx.begins.frame.tallies (by decide)
  rw [← hframes] at hnodup hheld
  have hrestarted := restarted_softRestart (s := u) (by rw [hstreams]; exact ht.1.1) hx.begins.stores hnodup hheld
  obtain ⟨v, hfl, hvn, hvb, hvt⟩ := softRestart_flushes hx.begins.stores hnodup hheld
  rw [hframes, hwaits] at hfl
  obtain ⟨hkeep, hgone⟩ := hfl.freed (by rw [hvn])
  have hother : ∀ x, x ∉ s.othersFrames w → u.softRestart.handle? x = u.handle? x := fun x hm =>
    (handle?_of_buf hvb x).trans (hkeep x hm)
  have hlen : (s.othersFrames w).length = s.buf.handles.length - w.asked.length := by
    have := hperm.length_eq
    rw [List.length_map, List.length_append] at this
    omega
  refine ⟨hrestarted, lawful_softRestart.stores hx.begins.stores, fun x hk hr => ?_,
    hother k fun hm => (hx.others_held hh hin hm).1 rfl, hother r fun hm => (hx.others_held hh hin hm).2.1 rfl, ?_,
    fun d hd => ?_, fun i => ?_⟩
  · by_cases hm : x ∈ s.othersFrames w
    · exact (handle?_of_buf hvb x).trans (hgone x hm)
    · exact (hother x hm).trans (hx.free_elsewhere hh hin hm hk hr)
  · rw [discardCount_of_tallies hvt, hfl.count, discardCount_of_tallies htallies, hlen]
  · rw [discardCount_of_tallies hvt, hfl.others d hd, discardCount_of_tallies htallies]
  · have hfilter : ((s.othersFrames w).filter fun x => decide (u.streamOf x = some i)) =
        (s.othersFrames w).filter fun x => decide (s.streamOf x = some i) :=
      List.filter_congr fun x hm => by rw [streamOf, streamOf, (hx.others_held hh hin hm).2.2.1]
    rw [tally_of_tallies hvt, hfl.tally i, tally_of_tallies htallies, hfilter, filter_handles_length hs hperm]

end Frames

/-! ## The reply and the ANNOUNCE notice (R170, R186) -/

/-- The state at the reply of a RESTART: nothing is held but the request and the reply, of one cell, alone in the T0
queue. -/
structure RepliedAlone (c p : State) (k r : Nat) : Prop where
  stores : StoresOk p
  ne : k ≠ r
  head : ∃ x, p.handle? k = some x ∧ 1 ≤ x.chain.length
  reply : ∃ x, p.handle? r = some x ∧ x.chain.length = 1
  free : ∀ x, x ≠ k → x ≠ r → p.handle? x = none
  members : (p.queue .t0).members = [r]
  mode : p.tx.mode ≠ .idle
  part : p.part = c.part
  notices : p.notices = c.notices
  link : p.line.link = c.line.link

section Reply

variable {p : State} (hp : RepliedAlone c p k r) (hpend : c.notices.pending = false)
include hp hpend

/-- Without a notice the reply is alone at the end. -/
theorem RepliedAlone.closed (hno : c.line.link ≠ .up ∨ c.part.noticeTag = 0) :
    let t := p.noticeAttempt.releaseRequest k
    (t.queue .t0).members = [r] ∧ t.freeHandles = 511 ∧ t.freeCells = 4095 ∧ t.notices = c.notices := by
  have hclosed : p.noticeAttempt = p := noticeAttempt_of_not_ready fun hready => by
    obtain ⟨⟨hup, h0⟩, -⟩ := firstSendReady_iff.1 hready
    rw [hp.link] at hup
    rw [hp.part] at h0
    exact hno.elim (fun hdown => hdown hup) h0
  intro t
  have ht : t = (p.withAgent { p.agent with state := .idle, inbox := p.agent.inbox.tail }).freeHandle k := by
    show p.noticeAttempt.releaseRequest k = _
    rw [hclosed, releaseRequest_of_not_pending (by rw [hp.notices]; exact hpend)]
  have hstores : StoresOk t := ht ▸ (storesOk_freeHandle (storesOk_of_buf hp.stores rfl) k).1
  have hself : t.handle? k = none := ht ▸ freeHandle_handle?_self ..
  have hother (x : Nat) (hx : x ≠ k) : t.handle? x = p.handle? x := ht ▸ freeHandle_handle?_other _ hx
  obtain ⟨hfh, hfc⟩ := free_of_one_cell hstores (l := [r]) (List.nodup_singleton r) (fun x hx => by
      have hr : x ≠ r := fun e => hx (List.mem_singleton.2 e)
      by_cases hk : x = k
      · rw [hk, hself]
      · rw [hother x hk, hp.free x hk hr]) fun x hx => by
    rw [List.mem_singleton.1 hx, hother r hp.ne.symm]
    exact hp.reply
  exact ⟨ht ▸ hp.members, hfh, hfc, ht ▸ hp.notices⟩

/-- A notice that may be sent stands behind the reply. -/
theorem RepliedAlone.opened {n : Notice} (hrec : c.notices.records = [{ notice := n, state := .queued }])
    (hup : c.line.link = .up) (h0 : c.part.noticeTag ≠ 0) :
    let t := p.noticeAttempt.releaseRequest k
    ∃ j, (t.queue .t0).members = [r, j] ∧ t.freeHandles = 510 ∧ t.freeCells = 4094 ∧
      t.bodyOf j = t.noticeFrame n c.notices.counter 1 (BitVec.ofNat 8 c.notices.lost) ∧
      t.notices = {
        records := [{ notice := n, state := .sent c.notices.counter 1 (BitVec.ofNat 8 c.notices.lost) }]
        counter := c.notices.counter + 1, lost := c.notices.lost, timer := .running 0, pending := false } := by
  intro t
  obtain ⟨x, hx, hcell⟩ := hp.head
  have hqueued : ∀ y ∈ p.notices.records, y.state = .queued := by
    rw [hp.notices, hrec]
    simp
  obtain ⟨j, hsends⟩ := sendsBehind hp.stores hx (by rw [hp.notices]; exact hrec) hcell
    (by rw [hp.notices]; exact hpend) hqueued (noticesOpen_iff.2 ⟨hp.link.trans hup, by rw [hp.part]; exact h0⟩)
  have hgrows : Grows [k] p t := by
    obtain ⟨hattempt, -⟩ := grows_noticeAttempt hp.stores
    exact (hattempt.mono (List.nil_subset _)).trans (releaseRequest_spec hattempt.stores k).1
  obtain ⟨hmem, y, hy, hy1⟩ := hsends.joins hp.mode
  obtain ⟨z, hz, hz1⟩ := hp.reply
  have hrj : r ≠ j := by
    rintro rfl
    rcases hsends.free with hfree | hk
    · rw [hfree] at hz
      cases hz
    · exact hp.ne hk.symm
  obtain ⟨-, -, -, -, hkeep⟩ := hgrows.busy hp.mode
  have hr : t.handle? r = some z := hkeep r z (fun e => hp.ne (List.mem_singleton.1 e).symm) hz
  obtain ⟨hfh, hfc⟩ := free_of_one_cell hgrows.stores (l := [r, j]) (by simp [hrj]) (fun x hx => by
      simp only [List.mem_cons, List.not_mem_nil, or_false, not_or] at hx
      obtain ⟨hxr, hxj⟩ := hx
      by_cases hk : x = k
      · subst hk
        exact hsends.freed.resolve_left fun e => hxj e.symm
      · exact hsends.others x hxj (hp.free x hk hxr)) fun x hx => by
    rcases List.mem_pair.1 hx with rfl | rfl
    · exact ⟨z, hr, hz1⟩
    · exact ⟨y, hy, hy1⟩
  rw [hp.members] at hmem
  have hn := hsends.notices
  have hbody := hsends.body
  rw [hp.notices] at hn hbody
  exact ⟨j, hmem, hfh, hfc, hbody, hn⟩

end Reply

theorem Restarted.mode (h : Restarted u c) : c.tx.mode ≠ .idle := by
  rw [h.tx]
  dsimp only
  split
  · exact nofun
  · exact nofun

section Answer

variable (hx : Executes w s t h kind q u k r body) (hj : s.judge q = .done .restart)
  (hcarry : u.carryVerdict (.fresh q (s.judge q)) = (c, [])) (hre : Restarted u c) (hs : StoresOk c)
  (hk : c.handle? k = u.handle? k) (hr : c.handle? r = u.handle? r)
include hx hj hcarry hre hs hr

/-- What the answer of a RESTART leaves, whatever the notice queue does. -/
theorem Executes.restart_answer :
    Answering c t k r (.fresh q (s.judge q)) (octetAt body 4) (s.replyOctets h kind .done false []) ∧
    t.tx = c.tx ∧ t.line = s.line ∧ ∀ x, x ≠ .t0 → (t.queue x).members = [] := by
  have hbuilding : c.Building r (8 + ([] : List Byte).length) := by
    have hb := hx.begins.building
    rw [hj] at hb
    exact hb.congr hr
  have hnode : c.part.node = s.part.node := by rw [hre.part, hx.begins.frame.part (by decide)]
  have hans : Answering c t k r (.fresh q (s.judge q)) (octetAt body 4)
      (c.replyBody body (.fresh q (s.judge q)) []) := by
    rw [hx.eq]
    exact answering hcarry hs hbuilding hx.begins.ne
  obtain ⟨htx, hline, hqueues, -⟩ := hans.grows.busy hre.mode
  rw [hx.replyOctets hnode (s.judge q) []] at hans
  refine ⟨?_, htx, ?_, fun x hx0 => ?_⟩
  · rw [hj] at hans ⊢
    exact hans
  · rw [hline, hre.frame.line (by decide), hx.begins.frame.line (by decide)]
  · rw [hqueues x hx0, hre.queue]

include hk

/-- The state at its reply. -/
theorem Executes.restart_replied (hfree : ∀ x, x ≠ k → x ≠ r → c.handle? x = none) :
    ∃ p, RepliedAlone c p k r ∧ t = p.noticeAttempt.releaseRequest k := by
  have hbuilding : c.Building r (8 + ([] : List Byte).length) := by
    have hb := hx.begins.building
    rw [hj] at hb
    exact hb.congr hr
  have hjoin := joined_answer (body := body) (v := .fresh q (s.judge q)) hs hbuilding
  have heq := hx.eq.trans (answer_octets hcarry)
  obtain ⟨y, hy, -, -, hchain⟩ := hbuilding
  obtain ⟨hmem, -, hkeep, htx, hline, hrec⟩ := hjoin.waits hre.mode
  obtain ⟨x, hxk, hcell⟩ := hx.chain
  generalize c.replied (.fresh q (s.judge q)) (octetAt body 4) r (c.replyBody body (.fresh q (s.judge q)) []) = p
    at hjoin heq hmem hkeep htx hline hrec
  have hpk : p.handle? k = some x :=
    (hkeep k fun e => hx.begins.ne (List.mem_singleton.1 e)).trans (hk.trans hxk)
  have hattempt : p.noticesAfterReply u.part.noticeTag (.fresh q (s.judge q)) = p.noticeAttempt := by
    rw [hj]
    rfl
  rw [hattempt] at heq
  refine ⟨p, ⟨hjoin.stores, hx.begins.ne, ⟨x, hpk, hcell⟩, ⟨_, hrec y hy, hchain⟩, fun z hzk hzr => ?_, ?_, ?_,
    hjoin.frame.part (by decide), hjoin.frame.notices (by decide), ?_⟩, heq⟩
  · exact (hkeep z fun e => hzr (List.mem_singleton.1 e)).trans (hfree z hzk hzr)
  · rw [hmem]
    show (c.queue .t0).members ++ [r] = [r]
    rw [hre.queue]
    rfl
  · rw [htx]
    exact hre.mode
  · rw [hline]
    rfl

end Answer
end Restart
end State

open State in
/-- Settles O54: the restart flushes every frame but the request's, its reply is the first frame of the T0 queue, and
the ANNOUNCE notice follows it where sending is open. -/
theorem restartFlushesThePart : Obligations.RestartFlushesThePart := by
  intro turn h s ha hh _ ht
  obtain ⟨hs, -⟩ := id ha
  have hin := answers_inbox ha
  have hj : s.judge ⟨h.controller, h.number, .restart⟩ = .done .restart := rfl
  obtain ⟨t, u, k, r, body, hexec, hx, -⟩ := exec_executes ha rfl rfl (by rw [hj]; exact Nat.le_refl _)
  obtain ⟨hre, hstores, hfree, hk, hr, hcount, hothers, htally⟩ := hx.restarts hs hh hin ht
  have hcarry : u.carryVerdict (.fresh ⟨h.controller, h.number, .restart⟩
      (s.judge ⟨h.controller, h.number, .restart⟩)) = (u.softRestart, []) := by
    rw [hj]
    rfl
  generalize u.softRestart = c at *
  obtain ⟨hans, htx, hline, hqueues⟩ := hx.restart_answer hj hcarry hre hstores hr
  obtain ⟨p, halone, heq⟩ := hx.restart_replied hj hcarry hre hstores hk hr hfree
  have hu := hx.begins.frame
  have hcs : ChangesOnly (.buf :: .agent :: restartBlocks) s c :=
    (hu.mono (by decide)).trans (hre.frame.mono (by decide))
  have hpart : t.part = { s.part with cause := .soft } := by
    rw [hans.frame.part (by decide), hre.part, hu.part (by decide)]
  have hcpart : c.part = { s.part with cause := .soft } := by rw [hre.part, hu.part (by decide)]
  have huline : u.line = s.line := hu.line (by decide)
  have hcline : c.line = s.line := hcs.line (by decide)
  have hcn : c.notices = { s.notices with
      records := [{ notice := .announce .soft s.part.node, state := .queued }], timer := .stopped
      pending := false } := by rw [hre.notices, hu.notices (by decide), hu.part (by decide)]
  have htc : ChangesOnly answerBlocks c t := hans.frame
  have htallies : t.tallies = c.tallies := htc.tallies (by decide)
  have hmetering : t.metering = c.metering := htc.metering (by decide)
  refine ⟨t, r, hexec, ?_, hans.body.trans (List.append_nil _), hpart, fun p => ?_, ?_, hqueues, fun x => ?_,
    fun x => ?_, ?_, ?_, ?_, fun i => ?_, ?_, fun d hd => ?_, fun i => ?_, fun hno => ?_, fun hup h0 => ?_, ?_, hline⟩
  · rw [hans.agent, hre.agent, hx.begins.agent, hj]
    rfl
  · rw [port_of_ports (htc.ports (by decide)), hre.port, port_of_ports (hu.ports (by decide))]
    rfl
  · rw [htx, hre.tx, huline]
  · rw [hans.limits x, hre.queue, queue_of_queues (hu.queues (by decide))]
  · rw [context_of_rx (htc.rx (by decide)), hre.context]
  · rw [htc.rx (by decide), hre.fragment]
  · rw [hmetering, hre.records, hu.metering (by decide)]
  · rw [hmetering, hre.epoch]
  · rw [runtime_of_metering hmetering, hre.runtime, stream_of_streams (hu.streams (by decide)),
      reloaded_of_records (t := u) (s := s) (by rw [hu.metering (by decide)])]
    unfold reloaded loaded
    cases (s.stream i.val).valid with
    | false => rfl
    | true =>
      cases (s.stream i.val).chainHead with
      | none => rfl
      | some x => rfl
  · rw [discardCount_of_tallies htallies, hcount, restartWaits, ← Nat.add_assoc]
    rfl
  · rw [discardCount_of_tallies htallies, hothers d hd]
  · rw [tally_of_tallies htallies, htally]
  · have hclosed : c.line.link ≠ .up ∨ c.part.noticeTag = 0 := by rwa [hcline, hcpart]
    have hend := halone.closed (by rw [hcn]) hclosed
    rw [← heq, hcn] at hend
    exact hend
  · have hend := halone.opened (by rw [hcn]) (by rw [hcn]) (by rw [hcline]; exact hup) (by rw [hcpart]; exact h0)
    rw [← heq, hcn] at hend
    obtain ⟨j, hmem, hfh, hfc, hbody, hnotices⟩ := hend
    refine ⟨j, hmem, hfh, hfc, ?_, hnotices⟩
    rw [hbody, noticeFrame, hpart]
    rfl
  · exact (hcs.mono (by decide)).trans (htc.mono (by decide))

end Sys2Proof.Machine
end
